-- ==== Sys2Proof/Word.lean ====
section
/-! DEFINITION. The word types of the Bowline B62 (R178: a byte is eight bits) and the saturation of its counters. -/

namespace Sys2Proof

/-- A byte of a frame, a command or the stored image. -/
abbrev Byte := BitVec 8

/-- A 16-bit word: a setting, a sequence, a record counter. -/
abbrev Word := BitVec 16

/-- A bay-clock time in microseconds (R170). -/
abbrev Time := BitVec 32

/-- One more, stopping at the top of the range: the counters of R27, R123, R78, R125, R131 and R139, and the consecutive misses of R51. -/
def bump {w : Nat} (x : BitVec w) : BitVec w := if x = BitVec.allOnes w then x else x + 1

/-- `n` more, stopping at the top of the range (the "missed" counter of R44). -/
def bumpBy {w : Nat} (x : BitVec w) (n : Nat) : BitVec w :=
  if 2 ^ w ≤ x.toNat + n then BitVec.allOnes w else x + BitVec.ofNat w n

end Sys2Proof
end

