-- ==== Sys2Proof/Config.lean ====
section
/-! DEFINITION. The sizes the part is built with, and the values the spec leaves open. -/

namespace Sys2Proof.Config

/-- Stream records, handles 0 to 511 (R19). -/
abbrev handles : Nat := 512

/-- Handles to a segment (R19). -/
abbrev segmentSize : Nat := 64

/-- Cells of the pool (R145). -/
abbrev cells : Nat := 384

/-- Bytes to a cell (R145). -/
abbrev cellBytes : Nat := 256

/-- The two-wire device address of the EEPROM (R171). -/
abbrev eepromDevice : BitVec 7 := 0x53

/-- FREE VALUE, DESIGN CHOICE (log 21), safe. The ring state a roster entry takes from a probe payload whose code no table
names (R140, R178): an argument is the number of free values drawn so far, the other the code. Nothing constrains it. -/
opaque unnamedRingCode : Nat → Byte → BitVec 2

/-- FREE VALUE, DESIGN CHOICE (log 21), safe. The lane state a roster entry takes from a probe payload whose code no table
names (R140, R178), as one of the five codes of 12.2. Nothing constrains it. -/
opaque unnamedLaneCode : Nat → Byte → Fin 5

end Sys2Proof.Config
end

