-- ==== Sys2Proof/Syntax.lean ====
section
/-! DEFINITION. The commands: one constructor per row of spec/opcode_table.json, with the row's operands. -/

namespace Sys2Proof

/-- The two ring lanes, port numbers 0 and 1 (R114). -/
inductive Lane
  | a
  | b
  deriving DecidableEq, Repr

/-- The four bay ports, port numbers 2 to 5 (R114). -/
inductive BayPort
  | p0
  | p1
  | p2
  | p3
  deriving DecidableEq, Repr

/-- The six ports (R114). -/
inductive Port
  | lane (l : Lane)
  | bay (p : BayPort)
  deriving DecidableEq, Repr

/-- P0 with P1, and P2 with P3 (R122). -/
inductive Pair
  | pair0
  | pair1
  deriving DecidableEq, Repr

/-- One thing for each of the six ports. -/
structure PortMap (α : Type) where
  laneA : α
  laneB : α
  p0 : α
  p1 : α
  p2 : α
  p3 : α
  deriving DecidableEq, Repr

/-- The arguments of a command frame (R157): whole, or chip select rose before they were complete. -/
inductive FrameArg (α : Type)
  | whole (x : α)
  | cut
  deriving DecidableEq, Repr

/-- The address bytes of a two-wire try, in the order in which they are sent (R171): the device address of step 1, the two bytes of
the EEPROM address of step 2, the device address of step 3. -/
inductive AddressByte
  | deviceToWrite
  | partHigh
  | partLow
  | deviceToRead
  deriving DecidableEq, Repr

/-- How one two-wire try of an image transfer ended (R171): an address byte not acknowledged, or the bytes of the part. -/
inductive TryOutcome
  | notAcknowledged (which : AddressByte)
  | acknowledged (bytes : List Byte)
  deriving DecidableEq, Repr

/-- A command frame that spells none of the other rows (log 9): a command byte that names no command (R160), a PORT COMMAND
whose action is none of the five (R116), or a frame that ends before a whole command byte (R156). -/
inductive StrayFrame
  | commandByte (code : Byte)
  | portAction (port action : Byte)
  | noByte
  deriving DecidableEq, Repr

/-- The commands and events of the part. -/
inductive Instr
  /-- POWER_ON (R170): `signal` is whether the far end's signal is present on each port at that moment (R130). -/
  | powerOn (signal : PortMap Bool)
  | resetNLow
  | resetNHigh
  | fullReset
  | controlReset
  /-- TRANSFER (R171): one try of the transfer the loader has come to ends. -/
  | transfer (outcome : TryOutcome)
  | linkSignalPresent (p : Port)
  | linkSignalLost (p : Port)
  /-- FRAME_RECEPTION (R146): the reception of these bytes, FCS included, ends on the port. -/
  | frameReception (p : Port) (frame : List Byte)
  | laneIntake (l : Lane)
  | bayIntake (p : BayPort)
  /-- LOOKUP_BY_KEY (R34): the arbiter grants the lookup of this port's intake. -/
  | lookupByKey (p : Port)
  /-- PATTERN_SEARCH (R36): the arbiter grants the search of this port's intake. -/
  | patternSearch (p : BayPort)
  | noticeGrant
  | sweepPeriodBoundary
  | sweepVisit
  | probeBoundary
  | provingFrame (l : Lane)
  | transmissionEnd (p : Port)
  | statusRead
  | flagsRead
  | flagsClear (word : FrameArg Word)
  | settingRead (number : FrameArg Byte)
  /-- SETTING_WRITE (R163): setting number and value. A frame cut short is spelled here whatever its setting (log 9). -/
  | settingWrite (arg : FrameArg (Byte × Word))
  | nodeWrite (value : Word)
  | attachedNodeWrite (pair : Pair) (value : Word)
  | pairEnableWrite (value : Word)
  | freezeWrite (value : Word)
  | probeMissLimitWrite (value : Word)
  | attnMaskWrite (value : Word)
  /-- STAGE_WRITE (R94): offset and data bytes, of which there may be none (12.4). -/
  | stageWrite (arg : FrameArg (Byte × List Byte))
  | stageRead
  | install (handle : FrameArg Word)
  | amend (handle : FrameArg Word)
  | retire (handle : FrameArg Word)
  | hold (handle : FrameArg Word)
  | release (handle : FrameArg Word)
  | snapshot (handle : FrameArg Word)
  | snapshotClear (handle : FrameArg Word)
  | installGrant
  | amendGrant
  | retireGrant
  | holdGrant
  | releaseGrant
  | snapshotGrant
  | snapshotClearGrant
  /-- VIEW_READ (R105): offset and length. -/
  | viewRead (arg : FrameArg (Byte × Byte))
  | attentionRead
  /-- PORT_READ with clear mark 0 (R124). A PORT READ frame cut short is spelled here (log 9). -/
  | portRead (port : FrameArg Byte)
  /-- PORT_READ with the clear mark set (R124). -/
  | portReadClear (port : Byte)
  /-- PORT COMMAND ON (R116). A PORT COMMAND frame cut short is spelled here (log 9). -/
  | portOn (port : FrameArg Byte)
  | portOff (port : Byte)
  | prove (port : Byte)
  | endProve (port : Byte)
  | reinstate (port : Byte)
  | ringRead
  /-- ROSTER_READ (R144): first node number and number of entries. -/
  | rosterRead (arg : FrameArg (Byte × Byte))
  | unknownCommand (frame : StrayFrame)
  | frameReceptionStart (p : Port)
  deriving DecidableEq, Repr

end Sys2Proof
end

