-- ==== Sys2Proof/WellFormed.lean ====
section
/-! DEFINITION. Which terms of `Instr` spell a command or event of the part: each command frame has one spelling. -/

namespace Sys2Proof

/-- The command bytes of 12.4. -/
def commandCodes : List Byte :=
  [0x01, 0x02, 0x03, 0x04, 0x05, 0x08, 0x09] ++ [0x10, 0x11, 0x12, 0x13, 0x14, 0x15, 0x16]
    ++ [0x18, 0x19, 0x20, 0x21, 0x28, 0x29, 0x30, 0x3F]

/-- The settings whose writes are rows of their own: NODE, PROBE MISS LIMIT, FREEZE, PAIR ENABLE, ATTACHED NODE 0 and 1, ATTN MASK. -/
def settingsWithOwnRow : List Byte := [0x00, 0x08, 0x0B, 0x0C, 0x0D, 0x0E, 0x15]

/-- The sizes of the parts of the stored image: checksum, header, standing record, settings block (12.5). -/
def imagePartSizes : List Nat := [2, 8, 34, 46]

/-- An acknowledged try brings the bytes of some part of the image (R171, 12.5). -/
def TryOutcome.wellFormed : TryOutcome → Bool
  | .notAcknowledged _ => true
  | .acknowledged bytes => imagePartSizes.contains bytes.length

/-- SETTING_WRITE names no setting that has a row of its own; a frame cut short names none (log 9). -/
def plainSettingWrite : FrameArg (Byte × Word) → Bool
  | .whole (number, _) => !settingsWithOwnRow.contains number
  | .cut => true

/-- UNKNOWN_COMMAND holds a byte that names no command, an action that names none, or no byte (log 9). -/
def StrayFrame.wellFormed : StrayFrame → Bool
  | .commandByte code => !commandCodes.contains code
  | .portAction _ action => decide (4 < action.toNat)
  | .noByte => true

/-- The term is the one spelling of what it stands for. A received frame has a byte. -/
def Instr.wellFormed : Instr → Bool
  | .transfer outcome => outcome.wellFormed
  | .frameReception _ frame => !frame.isEmpty
  | .settingWrite arg => plainSettingWrite arg
  | .unknownCommand frame => frame.wellFormed
  | .powerOn _ | .resetNLow | .resetNHigh | .fullReset | .controlReset | .linkSignalPresent _ | .linkSignalLost _ => true
  | .laneIntake _ | .bayIntake _ | .lookupByKey _ | .patternSearch _ | .noticeGrant | .sweepPeriodBoundary => true
  | .sweepVisit | .probeBoundary | .provingFrame _ | .transmissionEnd _ | .statusRead | .flagsRead | .flagsClear _ => true
  | .settingRead _ | .nodeWrite _ | .attachedNodeWrite _ _ | .pairEnableWrite _ | .freezeWrite _ => true
  | .probeMissLimitWrite _ | .attnMaskWrite _ | .stageWrite _ | .stageRead | .install _ | .amend _ | .retire _ => true
  | .hold _ | .release _ | .snapshot _ | .snapshotClear _ | .installGrant | .amendGrant | .retireGrant | .holdGrant => true
  | .releaseGrant | .snapshotGrant | .snapshotClearGrant | .viewRead _ | .attentionRead | .portRead _ => true
  | .portReadClear _ | .portOn _ | .portOff _ | .prove _ | .endProve _ | .reinstate _ | .ringRead | .rosterRead _ => true
  | .frameReceptionStart _ => true

end Sys2Proof
end

