-- ==== Sys2Proof/Decode.lean ====
section
/-! DEFINITION. The spelling of commands as bits. No row of spec/opcode_table.json gives bits, so `decodeTableWord` reads no
word. The command frames of 12.4 are read and written here all the same. -/

namespace Sys2Proof

/-- The command an opcode-table word spells: the table gives no row any bits, so no word spells a command (log 7). -/
def decodeTableWord (_nbits _w : Nat) : Option Instr := none

/-- Two argument bytes as a word, most significant byte first (R178). -/
def wordOf (hi lo : Byte) : Word := hi ++ lo

/-- A handle argument: two bytes, or a frame cut short; bytes after it are ignored (R157). -/
def handleArg : List Byte → FrameArg Word
  | hi :: lo :: _ => .whole (wordOf hi lo)
  | _ => .cut

/-- Two argument bytes, or a frame cut short. -/
def twoBytesArg : List Byte → FrameArg (Byte × Byte)
  | x :: y :: _ => .whole (x, y)
  | _ => .cut

/-- One argument byte, or a frame cut short. -/
def oneByteArg : List Byte → FrameArg Byte
  | x :: _ => .whole x
  | [] => .cut

/-- The row a whole SETTING WRITE stands for (R163): seven settings have rows of their own. -/
def settingWriteRow (number : Byte) (value : Word) : Instr :=
  if number = 0x00 then .nodeWrite value
  else if number = 0x08 then .probeMissLimitWrite value
  else if number = 0x0B then .freezeWrite value
  else if number = 0x0C then .pairEnableWrite value
  else if number = 0x0D then .attachedNodeWrite .pair0 value
  else if number = 0x0E then .attachedNodeWrite .pair1 value
  else if number = 0x15 then .attnMaskWrite value
  else .settingWrite (.whole (number, value))

/-- The row a whole PORT COMMAND stands for, by its action byte (12.4). -/
def portCommandRow (port action : Byte) : Instr :=
  if action = 0 then .portOn (.whole port)
  else if action = 1 then .portOff port
  else if action = 2 then .prove port
  else if action = 3 then .endProve port
  else if action = 4 then .reinstate port
  else .unknownCommand (.portAction port action)

/-- The row a command byte and the bytes after it stand for (12.4). -/
def commandOf (code : Byte) (args : List Byte) : Instr :=
  if code = 0x01 then .statusRead
  else if code = 0x02 then .flagsRead
  else if code = 0x03 then .flagsClear (handleArg args)
  else if code = 0x04 then .settingRead (oneByteArg args)
  else if code = 0x05 then
    match args with
    | number :: hi :: lo :: _ => settingWriteRow number (wordOf hi lo)
    | _ => .settingWrite .cut
  else if code = 0x08 then
    match args with
    | offset :: data => .stageWrite (.whole (offset, data))
    | [] => .stageWrite .cut
  else if code = 0x09 then .stageRead
  else if code = 0x10 then .install (handleArg args)
  else if code = 0x11 then .amend (handleArg args)
  else if code = 0x12 then .retire (handleArg args)
  else if code = 0x13 then .hold (handleArg args)
  else if code = 0x14 then .release (handleArg args)
  else if code = 0x15 then .snapshot (handleArg args)
  else if code = 0x16 then .snapshotClear (handleArg args)
  else if code = 0x18 then .viewRead (twoBytesArg args)
  else if code = 0x19 then .attentionRead
  else if code = 0x20 then
    match args with
    | port :: mark :: _ => if mark = 0 then .portRead (.whole port) else .portReadClear port
    | _ => .portRead .cut
  else if code = 0x21 then
    match args with
    | port :: action :: _ => portCommandRow port action
    | _ => .portOn .cut
  else if code = 0x28 then .ringRead
  else if code = 0x29 then .rosterRead (twoBytesArg args)
  else if code = 0x30 then .controlReset
  else if code = 0x3F then .fullReset
  else .unknownCommand (.commandByte code)

/-- The row that a command frame, as the bay controller clocks it from chip select low to chip select high, stands for
(R156, R157, R160, 12.4). -/
def commandOfFrame : List Byte → Instr
  | [] => .unknownCommand .noByte
  | code :: args => commandOf code args

/-- The two bytes of a word, most significant first (R178). -/
def wordBytes (w : Word) : List Byte := [w.extractLsb' 8 8, w.extractLsb' 0 8]

/-- The argument bytes of a handle or flags word; none when the frame is cut short. -/
def handleArgBytes : FrameArg Word → List Byte
  | .whole w => wordBytes w
  | .cut => []

/-- The argument bytes of a pair of bytes; none when the frame is cut short. -/
def twoBytesArgBytes : FrameArg (Byte × Byte) → List Byte
  | .whole (x, y) => [x, y]
  | .cut => []

/-- The argument bytes of one byte; none when the frame is cut short. -/
def oneByteArgBytes : FrameArg Byte → List Byte
  | .whole x => [x]
  | .cut => []

/-- The shortest command frame that spells a row of the command port; none for the rows that are no command frame. -/
def frameOfCommand : Instr → Option (List Byte)
  | .statusRead => some [0x01]
  | .flagsRead => some [0x02]
  | .flagsClear word => some (0x03 :: handleArgBytes word)
  | .settingRead number => some (0x04 :: oneByteArgBytes number)
  | .settingWrite (.whole (number, value)) => some (0x05 :: number :: wordBytes value)
  | .settingWrite .cut => some [0x05]
  | .nodeWrite value => some (0x05 :: 0x00 :: wordBytes value)
  | .probeMissLimitWrite value => some (0x05 :: 0x08 :: wordBytes value)
  | .freezeWrite value => some (0x05 :: 0x0B :: wordBytes value)
  | .pairEnableWrite value => some (0x05 :: 0x0C :: wordBytes value)
  | .attachedNodeWrite .pair0 value => some (0x05 :: 0x0D :: wordBytes value)
  | .attachedNodeWrite .pair1 value => some (0x05 :: 0x0E :: wordBytes value)
  | .attnMaskWrite value => some (0x05 :: 0x15 :: wordBytes value)
  | .stageWrite (.whole (offset, data)) => some (0x08 :: offset :: data)
  | .stageWrite .cut => some [0x08]
  | .stageRead => some [0x09]
  | .install handle => some (0x10 :: handleArgBytes handle)
  | .amend handle => some (0x11 :: handleArgBytes handle)
  | .retire handle => some (0x12 :: handleArgBytes handle)
  | .hold handle => some (0x13 :: handleArgBytes handle)
  | .release handle => some (0x14 :: handleArgBytes handle)
  | .snapshot handle => some (0x15 :: handleArgBytes handle)
  | .snapshotClear handle => some (0x16 :: handleArgBytes handle)
  | .viewRead arg => some (0x18 :: twoBytesArgBytes arg)
  | .attentionRead => some [0x19]
  | .portRead (.whole port) => some [0x20, port, 0]
  | .portRead .cut => some [0x20]
  | .portReadClear port => some [0x20, port, 1]
  | .portOn (.whole port) => some [0x21, port, 0]
  | .portOn .cut => some [0x21]
  | .portOff port => some [0x21, port, 1]
  | .prove port => some [0x21, port, 2]
  | .endProve port => some [0x21, port, 3]
  | .reinstate port => some [0x21, port, 4]
  | .ringRead => some [0x28]
  | .rosterRead arg => some (0x29 :: twoBytesArgBytes arg)
  | .controlReset => some [0x30]
  | .fullReset => some [0x3F]
  | .unknownCommand (.commandByte code) => some [code]
  | .unknownCommand (.portAction port action) => some [0x21, port, action]
  | .unknownCommand .noByte => some []
  | .powerOn _ | .resetNLow | .resetNHigh | .transfer _ | .linkSignalPresent _ | .linkSignalLost _ => none
  | .frameReception _ _ | .frameReceptionStart _ | .laneIntake _ | .bayIntake _ | .lookupByKey _ | .patternSearch _ => none
  | .noticeGrant | .sweepPeriodBoundary | .sweepVisit | .probeBoundary | .provingFrame _ | .transmissionEnd _ => none
  | .installGrant | .amendGrant | .retireGrant | .holdGrant | .releaseGrant | .snapshotGrant | .snapshotClearGrant => none

end Sys2Proof
end

