-- ==== Sys2Proof/Machine/State.lean ====
section
/-! DEFINITION. The state of the part: every register, table, queue, counter and mark the spec names, as plain data. -/

namespace Sys2Proof.Machine

/-! ## Ports, links and proving (spec/07) -/

/-- The state of a port (R114), in the order of its codes in 12.2. -/
inductive PortState
  | off
  | down
  | up
  | proving
  | isolated
  deriving DecidableEq, Repr

/-- The twelve counters of a port, in the order of R123. -/
structure PortCounters where
  framesIn : BitVec 32
  fcsErrors : BitVec 32
  tagErrors : BitVec 32
  untagged : BitVec 32
  unexpectedTag : BitVec 32
  unclaimed : BitVec 32
  returned : BitVec 32
  hopExpired : BitVec 32
  queueDrops : BitVec 32
  poolRefusals : BitVec 32
  flushed : BitVec 32
  framesOut : BitVec 32
  deriving DecidableEq, Repr

/-- A frame in a port's receive store (R146): its bytes, its arrival time (R39), whether the port was in PROVING when its
reception ended (R9), and the MAX FRAME read at the end of its reception (R10, R63). -/
structure RxFrame where
  bytes : List Byte
  arrival : Time
  inProving : Bool
  maxFrame : Word
  deriving DecidableEq, Repr

/-- The claim an intake has waiting at the table arbiter (R31). The frame it is for heads the port's receive store. -/
inductive IntakeClaim
  | lookup
  | search
  deriving DecidableEq, Repr

/-- The form a copy leaves in (R147). -/
inductive Form
  | asStored
  | hopsRewritten (hops : BitVec 6)
  | tagRemoved
  deriving DecidableEq, Repr

/-- A copy waiting or in transmission (R147): the stored frame by its name in the pool, the form, and the record's handle, if any. -/
structure Descriptor where
  frame : Nat
  form : Form
  handle : Option Nat
  deriving DecidableEq, Repr

/-- The three classes of data and of egress queues (R22, R151). -/
inductive DataClass
  | trip
  | sample
  | status
  deriving DecidableEq, Repr

/-- One port: what its link watch, its receiver, its intake, the port controller and its transmitter hold for it. -/
structure PortUnit where
  /-- port state (R114) -/
  state : PortState
  /-- link signal mark (R114) -/
  signal : Bool
  /-- flap history, oldest first, at most 15 (R120) -/
  flaps : List Time
  counters : PortCounters
  /-- a reception that began while the port took frames is under way (R117) -/
  underWay : Bool
  /-- receive store, in the order in which receptions ended (R146) -/
  store : List RxFrame
  /-- the intake's claim on the table arbiter (R31) -/
  claim : Option IntakeClaim
  /-- the three egress queues (R151) -/
  trip : List Descriptor
  sample : List Descriptor
  status : List Descriptor
  /-- the copy in transmission (R152) -/
  sending : Option Descriptor
  /-- quota count (R153) -/
  quota : Byte
  /-- the port's wire output: the bytes of the last copy whose transmission ended whole (R152) -/
  lastOut : List Byte
  deriving DecidableEq, Repr

/-- The proving record of a lane (R125). Its session mark is set while the lane is in PROVING, and is read there. -/
structure ProvingRecord where
  sequence : Word
  sent : Word
  returned : Word
  lastTrip : Time
  longestTrip : Time
  /-- the bay-clock time of the session's next proving frame (R126) -/
  nextAt : Time
  deriving DecidableEq, Repr

/-- One thing for each lane. -/
structure LaneMap (α : Type) where
  a : α
  b : α
  deriving DecidableEq, Repr

/-! ## The stream table (spec/02, spec/03) -/

/-- The state of a stream record (R19), in the order of its codes in 12.3. -/
inductive RecState
  | free
  | armed
  | live
  | single
  | silent
  | retiring
  deriving DecidableEq, Repr

/-- The kind of a record (R20), in the order of its codes in 12.3. -/
inductive Kind
  | subscribed
  | originatedSingle
  | originatedPair
  deriving DecidableEq, Repr

/-- The leg mode of a record (R20). -/
inductive LegMode
  | ring
  | single (p : BayPort)
  | pair (k : Pair)
  deriving DecidableEq, Repr

/-- The configuration of a record (R22, R25). Fields of no effect for the kind are 0 (R22, R179). Bit i of `delivery` names Pi. -/
structure StreamConfig where
  kind : Kind
  legMode : LegMode
  cls : DataClass
  origin : BitVec 6
  stream : BitVec 14
  delivery : BitVec 4
  missThreshold : BitVec 4
  renewalLimit : Word
  twinWindow : Byte
  matchPresent : Bool
  ignoreLocal : Bool
  dest : BitVec 48
  frameType : Word
  appTag : Word
  announcedPresent : Bool
  announced : Byte
  deriving DecidableEq, Repr

/-- The status of a leg (R26). -/
inductive LegStatus
  | unknown
  | ok
  | lost
  deriving DecidableEq, Repr

/-- The two legs of a record. A pair's first leg stands as leg A and its second as leg B; a one-leg record has leg A (R20). -/
inductive LegId
  | a
  | b
  deriving DecidableEq, Repr

/-- What a record keeps for a leg (R26). -/
structure Leg where
  lastArrival : Time
  status : LegStatus
  misses : BitVec 4
  deriving DecidableEq, Repr

/-- A twin entry (R47). -/
structure TwinEntry where
  seq : Word
  awaits : LegId
  deadline : Time
  deriving DecidableEq, Repr

/-- The thirteen counters of a record, in the order of R27. -/
structure RecCounters where
  accepted : Word
  duplicates : Word
  lateFirst : Word
  missed : Word
  wild : Word
  resyncs : Word
  echo : Word
  unmatched : Word
  twinMissA : Word
  twinMissB : Word
  silences : Word
  refused : Word
  injected : Word
  deriving DecidableEq, Repr

/-- A stream record: its state, its configuration and its runtime fields (R26). Bit i of `seen` is the mark of H−i (R40). -/
structure Record where
  state : RecState
  config : StreamConfig
  held : Bool
  inAttention : Bool
  echoNoted : Bool
  highest : Word
  seen : BitVec 64
  noHighest : Bool
  epoch : BitVec 4
  wildCount : BitVec 2
  twins : List TwinEntry
  legA : Leg
  legB : Leg
  deadline : Time
  running : Bool
  sendCounter : Word
  counters : RecCounters
  deriving DecidableEq, Repr

/-- All fields 0 (R30). -/
def StreamConfig.zero : StreamConfig :=
  { kind := .subscribed, legMode := .ring, cls := .trip, origin := 0, stream := 0, delivery := 0, missThreshold := 0,
    renewalLimit := 0, twinWindow := 0, matchPresent := false, ignoreLocal := false, dest := 0, frameType := 0, appTag := 0,
    announcedPresent := false, announced := 0 }

/-- A leg at installation (R26). -/
def Leg.zero : Leg := { lastArrival := 0, status := .unknown, misses := 0 }

/-- All thirteen counters 0. -/
def RecCounters.zero : RecCounters :=
  { accepted := 0, duplicates := 0, lateFirst := 0, missed := 0, wild := 0, resyncs := 0, echo := 0, unmatched := 0,
    twinMissA := 0, twinMissB := 0, silences := 0, refused := 0, injected := 0 }

/-- A FREE record: it stands for no stream and its fields are all 0 (R19, R30). -/
def Record.free : Record :=
  { state := .free, config := .zero, held := false, inAttention := false, echoNoted := false, highest := 0, seen := 0,
    noHighest := false, epoch := 0, wildCount := 0, twins := [], legA := .zero, legB := .zero, deadline := 0, running := false,
    sendCounter := 0, counters := .zero }

/-! ## The supervision sweep (spec/05) -/

/-- The items of R78. While a pass runs, `position` is the handle whose visit is claimed (log 23). `periodLength` is the
length of the present period in microseconds, which a SETTING WRITE does not move (R79). -/
structure Sweep where
  position : Nat
  periodStart : Time
  periodLength : Time
  passOwed : Bool
  overruns : Word
  deriving DecidableEq, Repr

/-! ## The buffer manager (spec/09) -/

/-- A frame stored in the pool (R145). `name` is the model's own handle on it (log 26). -/
structure StoredFrame where
  name : Nat
  bytes : List Byte
  cls : DataClass
  outstanding : Nat
  deriving DecidableEq, Repr

/-! ## The probe unit (spec/08) -/

/-- The ring state (R131), in the order of its codes in 12.2: NONE, CLOSED, SUSPECT, OPEN. -/
inductive RingState
  | noRing
  | closed
  | suspect
  | isOpen
  deriving DecidableEq, Repr

/-- What one lane holds for a roster entry while its heard mark is set (R140). -/
structure Evidence where
  lastHeard : Time
  distance : Byte
  deriving DecidableEq, Repr

/-- A roster entry (R140). Its status follows the two lanes' evidence and is read from them. -/
structure RosterEntry where
  heardA : Option Evidence
  heardB : Option Evidence
  ring : RingState
  laneA : PortState
  laneB : PortState
  deriving DecidableEq, Repr

/-- An ABSENT entry: every field 0 (R140). -/
def RosterEntry.absent : RosterEntry :=
  { heardA := none, heardB := none, ring := .noRing, laneA := .off, laneB := .off }

/-- The items of R131. `boundary` is none while the unit is stopped. Roster entries not listed are ABSENT. -/
structure ProbeUnit where
  ring : RingState
  missA : BitVec 4
  missB : BitVec 4
  answeredA : Bool
  answeredB : Bool
  serials : List Word
  nextSerial : Option Word
  clashes : Word
  boundary : Option Time
  roster : List (Nat × RosterEntry)
  deriving DecidableEq, Repr

/-! ## The command port (spec/10, spec/06) -/

/-- The result codes of R158, in the order of their codes. -/
inductive Result
  | done
  | busy
  | notReady
  | noSuchRecord
  | slotTaken
  | keyInUse
  | badValue
  | wrongState
  | frozen
  | unknownCommand
  deriving DecidableEq, Repr

/-- The nine flags of R165, in the order of their bits in 12.4. -/
inductive Flag
  | attention
  | ring
  | port
  | roster
  | clash
  | done
  | loaded
  | overrun
  | pool
  deriving DecidableEq, Repr

/-- The seven timed operations (R31). -/
inductive TimedKind
  | install
  | amend
  | retire
  | hold
  | release
  | snapshot
  | snapshotClear
  deriving DecidableEq, Repr

/-- A claim the arbiter grants only when no timed operation waits (R31): the oldest notice, or the sweep's visit. -/
inductive LowClaim
  | notice
  | visit
  deriving DecidableEq, Repr

/-- The timed operation in flight (R161): its kind, its handle as sent, and for INSTALL and AMEND its staging copy (R95). -/
structure TimedOp where
  kind : TimedKind
  handle : Word
  copy : List Byte
  deriving DecidableEq, Repr

/-- The settings, in number order (R163). -/
structure Settings where
  node : Word
  epoch : Word
  hopLimit : Word
  tagType : Word
  probeGroup0 : Word
  probeGroup1 : Word
  probeGroup2 : Word
  probePeriod : Word
  probeMissLimit : Word
  sweepPeriod : Word
  sweepMask : Word
  freeze : Word
  pairEnable : Word
  attachedNode0 : Word
  attachedNode1 : Word
  maxFrame : Word
  queueCapTrip : Word
  queueCapSample : Word
  queueCapStatus : Word
  statusQuota : Word
  flapLimit : Word
  attnMask : Word
  deriving DecidableEq, Repr

/-- The values after power-on and the RESET_N pin (R163). -/
def Settings.reset : Settings :=
  { node := 0, epoch := 0, hopLimit := 40, tagType := 0x9B1E, probeGroup0 := 0x01B6, probeGroup1 := 0x2E00,
    probeGroup2 := 0x0001, probePeriod := 10, probeMissLimit := 3, sweepPeriod := 1, sweepMask := 0, freeze := 0,
    pairEnable := 0, attachedNode0 := 0, attachedNode1 := 0, maxFrame := 1536, queueCapTrip := 32, queueCapSample := 64,
    queueCapStatus := 32, statusQuota := 16, flapLimit := 8, attnMask := 0x01FF }

/-- The reset staging image: 0x00 in every byte but the twin window's, which is 20 (R94, R179). -/
def stagingReset : List Byte := List.replicate 7 0 ++ [20] ++ List.replicate 24 0

/-- A cleared view (R105). -/
def viewCleared : List Byte := List.replicate 96 0

/-! ## The image loader (spec/11) -/

/-- The load state (R170). -/
inductive LoadState
  | reading
  | applying
  | loaded
  | failed
  deriving DecidableEq, Repr

/-- The direction that follows a device address on the two-wire bus (R171). -/
inductive BusDirection
  | write
  | read
  deriving DecidableEq, Repr

/-- What the loader, the only master, sends on the two-wire bus (R171): clock pulses with the data line released, start, repeated
start and stop conditions, the device address with a direction, a byte, and its answer to a byte it has read. -/
inductive BusItem
  | clockPulses (count : Nat)
  | start
  | repeatedStart
  | device (address : BitVec 7) (direction : BusDirection)
  | byte (value : Byte)
  | acknowledge
  | noAcknowledge
  | stop
  deriving DecidableEq, Repr

/-- What each load sends before its first transfer: nine clock pulses with the data line released, then a stop condition (R171). -/
def busClear : List BusItem := [.clockPulses 9, .stop]

/-- The image loader (R170, R171): load state, load store, tries count, skipped count, whether a try of the present transfer
has failed, whether the load follows a FULL RESET (R173), and what the loader sent on the two-wire bus when it last used it (log 38). -/
structure Loader where
  state : LoadState
  store : List Byte
  tries : Nat
  skipped : Nat
  retrying : Bool
  afterFullReset : Bool
  busOut : List BusItem
  deriving DecidableEq, Repr

/-! ## The whole part -/

/-- The state of the part. -/
@[ext]
structure State where
  /-- the commands and events that wait, first in first out: the model's queue -/
  pending : List Instr
  /-- how many free values have been drawn: the model's own counter (log 21) -/
  draws : Nat
  /-- the RESET_N pin is held low (R170) -/
  resetHeld : Bool
  /-- bay clock (R170) -/
  bayClock : Time
  /-- last result (R159) -/
  lastResult : Result
  /-- the timed operation in flight; BUSY is set while there is one (R161) -/
  inFlight : Option TimedOp
  /-- the notice or visit that may be the grant in hand at a timed operation's claim, while it may still apply (R31, R82, R96; log 35) -/
  inHand : Option LowClaim
  /-- staging record, 32 bytes (R94) -/
  staging : List Byte
  /-- front and back view, 96 bytes each (R105) -/
  frontView : List Byte
  backView : List Byte
  /-- attention cursor, 0..511 (R110) -/
  cursor : Nat
  settings : Settings
  /-- flags word, bits 0 to 8 (R165, 12.4) -/
  flags : BitVec 9
  /-- what the part has sent in the last command frame, from the status byte on; 0x00 follows (R156) -/
  spiOut : List Byte
  /-- the stream table: handles not listed hold FREE records (R19) -/
  table : List (Nat × Record)
  /-- the notice list, oldest first (R30) -/
  notices : List Nat
  /-- the intake with which the arbiter's rotation begins (R31) -/
  rotation : Port
  sweep : Sweep
  ports : PortMap PortUnit
  proving : LaneMap ProvingRecord
  /-- the frames held in the pool (R145) -/
  pool : List StoredFrame
  /-- the name the next stored frame takes: the model's own (log 26) -/
  nextName : Nat
  /-- the in-flight tallies; handles not listed have tally 0 (R154) -/
  tallies : List (Nat × Nat)
  probe : ProbeUnit
  loader : Loader
  deriving DecidableEq, Repr

/-- The reasons a step could stop with a fault. There is none: the spec gives every command and event of the part an
outcome, so no constructor is needed. Safe. -/
inductive Fault
  deriving DecidableEq, Repr

/-- The reasons a step could be refused. -/
inductive Refusal
  /-- Raised by an arm of `exec` whose command has no meaning yet; no arm does. Safe: nothing is claimed of such a step. -/
  | notModelled (mnemonic : String)
  deriving DecidableEq, Repr

/-- All twelve counters 0 (R123). -/
def PortCounters.zero : PortCounters :=
  { framesIn := 0, fcsErrors := 0, tagErrors := 0, untagged := 0, unexpectedTag := 0, unclaimed := 0, returned := 0,
    hopExpired := 0, queueDrops := 0, poolRefusals := 0, flushed := 0, framesOut := 0 }

/-- A port after a reset, with the link signal mark as the far end's signal gives it (R130). -/
def PortUnit.reset (signal : Bool) : PortUnit :=
  { state := .off, signal := signal, flaps := [], counters := .zero, underWay := false, store := [], claim := none, trip := [],
    sample := [], status := [], sending := none, quota := 0, lastOut := [] }

/-- All 0 (R125). -/
def ProvingRecord.zero : ProvingRecord :=
  { sequence := 0, sent := 0, returned := 0, lastTrip := 0, longestTrip := 0, nextAt := 0 }

/-- The sweep, stopped (R78). -/
def Sweep.reset : Sweep := { position := 512, periodStart := 0, periodLength := 0, passOwed := false, overruns := 0 }

/-- The probe unit, stopped (R131). -/
def ProbeUnit.reset : ProbeUnit :=
  { ring := .noRing, missA := 0, missB := 0, answeredA := false, answeredB := false, serials := [], nextSerial := none,
    clashes := 0, boundary := none, roster := [] }

/-- The image loader at the beginning of a load (R170): the bus has been cleared (R171; log 38). -/
def Loader.reset : Loader :=
  { state := .reading, store := [], tries := 0, skipped := 0, retrying := false, afterFullReset := false, busOut := busClear }

/-- The part right after power-on with the RESET_N pin high and no far end's signal present (R170; log 4). -/
def State.reset : State :=
  { pending := [], draws := 0, resetHeld := false, bayClock := 0, lastResult := .done, inFlight := none, inHand := none,
    staging := stagingReset, frontView := viewCleared, backView := viewCleared, cursor := 0, settings := .reset, flags := 0,
    spiOut := [], table := [], notices := [], rotation := .lane .a, sweep := .reset,
    ports := ⟨.reset false, .reset false, .reset false, .reset false, .reset false, .reset false⟩,
    proving := ⟨.zero, .zero⟩, pool := [], nextName := 0, tallies := [], probe := .reset, loader := .reset }

end Sys2Proof.Machine
end

