-- ==== Sys2Proof/Machine/Bits.lean ====
section
/-! DEFINITION. Byte order (R178) and the comparisons of bay-clock times (R83). -/

namespace Sys2Proof.Machine

/-- The four bytes of a 32-bit field, most significant first (R178). -/
def timeBytes (t : Time) : List Byte :=
  [t.extractLsb' 24 8, t.extractLsb' 16 8, t.extractLsb' 8 8, t.extractLsb' 0 8]

/-- Byte `i` of a layout; 0x00 past its end. -/
def byteAt (bytes : List Byte) (i : Nat) : Byte := bytes.getD i 0

/-- The word at byte `i` of a layout, most significant byte first (R178). -/
def wordAt (bytes : List Byte) (i : Nat) : Word := wordOf (byteAt bytes i) (byteAt bytes (i + 1))

/-- The 32-bit field at byte `i` of a layout (R178). -/
def timeAt (bytes : List Byte) (i : Nat) : Time := wordAt bytes i ++ wordAt bytes (i + 2)

/-- The 48-bit address at byte `i` of a layout (R178). -/
def addressAt (bytes : List Byte) (i : Nat) : BitVec 48 := timeAt bytes i ++ wordAt bytes (i + 4)

/-- `t` has passed the stored time `u`: the difference modulo 2^32 lies in 1..0x7FFFFFFF (R83). -/
def hasPassed (t u : Time) : Bool := decide (0 < (t - u).toNat) && decide ((t - u).toNat ≤ 0x7FFFFFFF)

/-- The clock has come to the time `u` or gone beyond it, in the half range of R83 (log 24). -/
def hasReached (t u : Time) : Bool := decide ((t - u).toNat ≤ 0x7FFFFFFF)

/-- A duration given in milliseconds, in bay-clock microseconds (R53, R132). -/
def milliseconds (n : Nat) : Time := BitVec.ofNat 32 (1000 * n)

end Sys2Proof.Machine
end

