-- ==== Sys2Proof/Machine/Flags.lean ====
section
/-! DEFINITION. The flags, the ATTN line, the status byte and the codes of results and states (spec/10, 12.2, 12.4). -/

namespace Sys2Proof.Machine

/-- The bit of a flag in the flags word and in ATTN MASK (12.4). -/
def Flag.bit : Flag → Nat
  | .attention => 0
  | .ring => 1
  | .port => 2
  | .roster => 3
  | .clash => 4
  | .done => 5
  | .loaded => 6
  | .overrun => 7
  | .pool => 8

/-- The flags word with that flag's bit alone. -/
def Flag.mask (f : Flag) : BitVec 9 := 1#9 <<< f.bit

/-- A flag is set (R165). -/
def State.flag (s : State) (f : Flag) : Bool := s.flags.getLsbD f.bit

/-- The event of a flag: the flag is set, and stays set when it was (R165). -/
def State.raise (s : State) (f : Flag) : State := { s with flags := s.flags ||| f.mask }

/-- A flag is cleared. -/
def State.lower (s : State) (f : Flag) : State := { s with flags := s.flags &&& ~~~ f.mask }

/-- The event of a flag, when it happens. -/
def State.raiseIf (s : State) (c : Bool) (f : Flag) : State := if c then s.raise f else s

/-- READY: set when the image load has ended, whether it succeeded or failed (R158). -/
def State.ready (s : State) : Bool :=
  match s.loader.state with
  | .reading => false
  | .applying => false
  | .loaded => true
  | .failed => true

/-- BUSY: set while a timed operation is in flight (R158, R161). -/
def State.isBusy (s : State) : Bool := s.inFlight.isSome

/-- LOAD_FAILED (R158, R176). -/
def State.loadFailed (s : State) : Bool := s.loader.state == .failed

/-- The ATTN line is asserted, driven low: READY is set and some flag is set whose bit in ATTN MASK is 1 (R166). -/
def State.attnAsserted (s : State) : Bool :=
  s.ready && ((s.flags &&& s.settings.attnMask.extractLsb' 0 9) != 0)

/-- The code of a result (R158). -/
def Result.code : Result → BitVec 4
  | .done => 0
  | .busy => 1
  | .notReady => 2
  | .noSuchRecord => 3
  | .slotTaken => 4
  | .keyInUse => 5
  | .badValue => 6
  | .wrongState => 7
  | .frozen => 8
  | .unknownCommand => 9

/-- The status byte: bit 7 READY, 6 BUSY, 5 LOAD_FAILED, 4 ATTN pending, 3–0 the last result (R158, 12.4). -/
def State.statusByte (s : State) : Byte :=
  BitVec.ofBool s.ready ++ BitVec.ofBool s.isBusy ++ BitVec.ofBool s.loadFailed ++ BitVec.ofBool s.attnAsserted
    ++ s.lastResult.code

/-- The flags word as FLAGS READ returns it: bits 15–9 are 0 (12.4). -/
def State.flagsWord (s : State) : Word := s.flags.setWidth 16

/-- The code of a port state (12.2). -/
def PortState.code : PortState → BitVec 3
  | .off => 0
  | .down => 1
  | .up => 2
  | .proving => 3
  | .isolated => 4

/-- The code of a ring state (12.2). -/
def RingState.code : RingState → BitVec 2
  | .noRing => 0
  | .closed => 1
  | .suspect => 2
  | .isOpen => 3

/-- The ring state of a two-bit code (12.2). -/
def RingState.ofCode (code : BitVec 2) : RingState :=
  if code = 0 then .noRing else if code = 1 then .closed else if code = 2 then .suspect else .isOpen

/-- The port state of a code 0 to 4 (12.2). -/
def PortState.ofCode (code : Nat) : PortState :=
  if code = 0 then .off else if code = 1 then .down else if code = 2 then .up else if code = 3 then .proving else .isolated

/-- The code of a record state (12.3). -/
def RecState.code : RecState → BitVec 3
  | .free => 0
  | .armed => 1
  | .live => 2
  | .single => 3
  | .silent => 4
  | .retiring => 5

/-- The code of a kind (12.3). -/
def Kind.code : Kind → BitVec 2
  | .subscribed => 0
  | .originatedSingle => 1
  | .originatedPair => 2

/-- The code of a record's class (12.3). -/
def DataClass.code : DataClass → BitVec 2
  | .trip => 0
  | .sample => 1
  | .status => 2

/-- The code of a leg status (12.3). -/
def LegStatus.code : LegStatus → BitVec 2
  | .unknown => 0
  | .ok => 1
  | .lost => 2

/-- The code of the leg an occupied twin entry awaits (12.3). -/
def LegId.code : LegId → BitVec 2
  | .a => 1
  | .b => 2

end Sys2Proof.Machine
end

