-- ==== Sys2Proof/Machine/Ops.lean ====
section
/-! DEFINITION. The named reads and writes of State: ports, lanes, settings, the tables by handle, and the sets. -/

namespace Sys2Proof

/-! ## Six ports and two lanes -/

/-- What the map holds for a port. -/
def PortMap.get {α : Type} (m : PortMap α) : Port → α
  | .lane .a => m.laneA
  | .lane .b => m.laneB
  | .bay .p0 => m.p0
  | .bay .p1 => m.p1
  | .bay .p2 => m.p2
  | .bay .p3 => m.p3

/-- The map with another thing for one port. -/
def PortMap.set {α : Type} (m : PortMap α) (p : Port) (x : α) : PortMap α :=
  match p with
  | .lane .a => { m with laneA := x }
  | .lane .b => { m with laneB := x }
  | .bay .p0 => { m with p0 := x }
  | .bay .p1 => { m with p1 := x }
  | .bay .p2 => { m with p2 := x }
  | .bay .p3 => { m with p3 := x }

/-- The ports in port-number order (R114), which is the order of the arbiter's rotation (R31). -/
def allPorts : List Port := [.lane .a, .lane .b, .bay .p0, .bay .p1, .bay .p2, .bay .p3]

/-- The bay ports in order. -/
def bayPorts : List BayPort := [.p0, .p1, .p2, .p3]

/-- The lanes in order. -/
def lanes : List Lane := [.a, .b]

/-- The other lane. -/
def Lane.other : Lane → Lane
  | .a => .b
  | .b => .a

/-- The code of a lane in a proving payload (12.2). -/
def Lane.code : Lane → Byte
  | .a => 0
  | .b => 1

/-- The port a port number names; none above 5 (R114). -/
def portOfNumber (n : Byte) : Option Port :=
  if n = 0 then some (.lane .a) else if n = 1 then some (.lane .b) else if n = 2 then some (.bay .p0)
  else if n = 3 then some (.bay .p1) else if n = 4 then some (.bay .p2) else if n = 5 then some (.bay .p3) else none

/-- The bit of a bay port in a delivery set (12.3). -/
def BayPort.index : BayPort → Nat
  | .p0 => 0
  | .p1 => 1
  | .p2 => 2
  | .p3 => 3

/-- The pair a bay port belongs to (R122). -/
def BayPort.pair : BayPort → Pair
  | .p0 => .pair0
  | .p1 => .pair0
  | .p2 => .pair1
  | .p3 => .pair1

/-- The lower-numbered port of a pair: its first leg (R39). -/
def Pair.first : Pair → BayPort
  | .pair0 => .p0
  | .pair1 => .p2

/-- The higher-numbered port of a pair: its second leg (R39). -/
def Pair.second : Pair → BayPort
  | .pair0 => .p1
  | .pair1 => .p3

/-- The other pair. -/
def Pair.other : Pair → Pair
  | .pair0 => .pair1
  | .pair1 => .pair0

/-- The bit of a pair in PAIR ENABLE (R122). -/
def Pair.index : Pair → Nat
  | .pair0 => 0
  | .pair1 => 1

end Sys2Proof

namespace Sys2Proof.Machine

/-- What the map holds for a lane. -/
def LaneMap.get {α : Type} (m : LaneMap α) : Lane → α
  | .a => m.a
  | .b => m.b

/-- The map with another thing for one lane. -/
def LaneMap.set {α : Type} (m : LaneMap α) (l : Lane) (x : α) : LaneMap α :=
  match l with
  | .a => { m with a := x }
  | .b => { m with b := x }

/-- A port's unit. -/
def State.port (s : State) (p : Port) : PortUnit := s.ports.get p

/-- A change to one port's unit. -/
def State.modPort (s : State) (p : Port) (f : PortUnit → PortUnit) : State :=
  { s with ports := s.ports.set p (f (s.ports.get p)) }

/-- A change to one port's counters. -/
def State.count (s : State) (p : Port) (f : PortCounters → PortCounters) : State :=
  s.modPort p (fun u => { u with counters := f u.counters })

/-- A lane's proving record. -/
def State.provingOf (s : State) (l : Lane) : ProvingRecord := s.proving.get l

/-- A change to one lane's proving record. -/
def State.modProving (s : State) (l : Lane) (f : ProvingRecord → ProvingRecord) : State :=
  { s with proving := s.proving.set l (f (s.proving.get l)) }

/-- The state takes frames and sends: UP or PROVING (R117). -/
def PortState.inService : PortState → Bool
  | .off => false
  | .down => false
  | .up => true
  | .proving => true
  | .isolated => false

/-- The port is UP. -/
def State.isUp (s : State) (p : Port) : Bool := (s.port p).state == .up

/-- The port takes frames and sends: it is UP or PROVING (R117). -/
def State.inService (s : State) (p : Port) : Bool := (s.port p).state.inService

/-- Both lanes are UP. -/
def State.lanesUp (s : State) : Bool := s.isUp (.lane .a) && s.isUp (.lane .b)

/-- The queue of a class at a port (R151). -/
def PortUnit.queue (u : PortUnit) : DataClass → List Descriptor
  | .trip => u.trip
  | .sample => u.sample
  | .status => u.status

/-- The port with another queue of a class. -/
def PortUnit.setQueue (u : PortUnit) (c : DataClass) (q : List Descriptor) : PortUnit :=
  match c with
  | .trip => { u with trip := q }
  | .sample => { u with sample := q }
  | .status => { u with status := q }

/-! ## Settings (R163) -/

/-- The settings by name, in number order (R163). -/
inductive SettingId
  | node
  | epoch
  | hopLimit
  | tagType
  | probeGroup0
  | probeGroup1
  | probeGroup2
  | probePeriod
  | probeMissLimit
  | sweepPeriod
  | sweepMask
  | freeze
  | pairEnable
  | attachedNode0
  | attachedNode1
  | maxFrame
  | queueCapTrip
  | queueCapSample
  | queueCapStatus
  | statusQuota
  | flapLimit
  | attnMask
  deriving DecidableEq, Repr

/-- The settings in number order, 0x00 to 0x15 (R163). -/
def allSettings : List SettingId :=
  [.node, .epoch, .hopLimit, .tagType, .probeGroup0, .probeGroup1, .probeGroup2, .probePeriod, .probeMissLimit, .sweepPeriod,
    .sweepMask] ++
  [.freeze, .pairEnable, .attachedNode0, .attachedNode1, .maxFrame, .queueCapTrip, .queueCapSample, .queueCapStatus,
    .statusQuota, .flapLimit, .attnMask]

/-- The setting a setting number names; none above 0x15 (R163). -/
def settingOfNumber (n : Byte) : Option SettingId := allSettings[n.toNat]?

/-- The value of a setting. -/
def Settings.get (v : Settings) : SettingId → Word
  | .node => v.node
  | .epoch => v.epoch
  | .hopLimit => v.hopLimit
  | .tagType => v.tagType
  | .probeGroup0 => v.probeGroup0
  | .probeGroup1 => v.probeGroup1
  | .probeGroup2 => v.probeGroup2
  | .probePeriod => v.probePeriod
  | .probeMissLimit => v.probeMissLimit
  | .sweepPeriod => v.sweepPeriod
  | .sweepMask => v.sweepMask
  | .freeze => v.freeze
  | .pairEnable => v.pairEnable
  | .attachedNode0 => v.attachedNode0
  | .attachedNode1 => v.attachedNode1
  | .maxFrame => v.maxFrame
  | .queueCapTrip => v.queueCapTrip
  | .queueCapSample => v.queueCapSample
  | .queueCapStatus => v.queueCapStatus
  | .statusQuota => v.statusQuota
  | .flapLimit => v.flapLimit
  | .attnMask => v.attnMask

/-- The settings with another value for one. -/
def Settings.set (v : Settings) (n : SettingId) (x : Word) : Settings :=
  match n with
  | .node => { v with node := x }
  | .epoch => { v with epoch := x }
  | .hopLimit => { v with hopLimit := x }
  | .tagType => { v with tagType := x }
  | .probeGroup0 => { v with probeGroup0 := x }
  | .probeGroup1 => { v with probeGroup1 := x }
  | .probeGroup2 => { v with probeGroup2 := x }
  | .probePeriod => { v with probePeriod := x }
  | .probeMissLimit => { v with probeMissLimit := x }
  | .sweepPeriod => { v with sweepPeriod := x }
  | .sweepMask => { v with sweepMask := x }
  | .freeze => { v with freeze := x }
  | .pairEnable => { v with pairEnable := x }
  | .attachedNode0 => { v with attachedNode0 := x }
  | .attachedNode1 => { v with attachedNode1 := x }
  | .maxFrame => { v with maxFrame := x }
  | .queueCapTrip => { v with queueCapTrip := x }
  | .queueCapSample => { v with queueCapSample := x }
  | .queueCapStatus => { v with queueCapStatus := x }
  | .statusQuota => { v with statusQuota := x }
  | .flapLimit => { v with flapLimit := x }
  | .attnMask => { v with attnMask := x }

/-- The value lies in the setting's range, by the table of R163. -/
def SettingId.inRange (n : SettingId) (x : Word) : Bool :=
  match n with
  | .node => decide (x.toNat ≤ 60)
  | .epoch => decide (x.toNat ≤ 15)
  | .hopLimit => decide (1 ≤ x.toNat) && decide (x.toNat ≤ 63)
  | .tagType => decide (0x0600 ≤ x.toNat)
  | .probeGroup0 => true
  | .probeGroup1 => true
  | .probeGroup2 => true
  | .probePeriod => decide (1 ≤ x.toNat) && decide (x.toNat ≤ 100)
  | .probeMissLimit => decide (1 ≤ x.toNat) && decide (x.toNat ≤ 15)
  | .sweepPeriod => decide (x.toNat ≤ 3)
  | .sweepMask => decide (x.toNat ≤ 0xFF)
  | .freeze => decide (x.toNat ≤ 0xFF)
  | .pairEnable => decide (x.toNat ≤ 3)
  | .attachedNode0 => decide (x.toNat ≤ 60)
  | .attachedNode1 => decide (x.toNat ≤ 60)
  | .maxFrame => x == 1536 || x == 2048
  | .queueCapTrip => decide (1 ≤ x.toNat) && decide (x.toNat ≤ 128)
  | .queueCapSample => decide (1 ≤ x.toNat) && decide (x.toNat ≤ 128)
  | .queueCapStatus => decide (1 ≤ x.toNat) && decide (x.toNat ≤ 128)
  | .statusQuota => decide (1 ≤ x.toNat) && decide (x.toNat ≤ 255)
  | .flapLimit => decide (x.toNat ≤ 15)
  | .attnMask => decide (x.toNat ≤ 0x01FF)

/-- One setting takes a value. -/
def State.putSetting (s : State) (n : SettingId) (x : Word) : State := { s with settings := s.settings.set n x }

/-- The setting that holds a pair's ATTACHED NODE (R6). -/
def attachedSetting : Pair → SettingId
  | .pair0 => .attachedNode0
  | .pair1 => .attachedNode1

/-- The ATTACHED NODE of a pair (R6). -/
def Settings.attached (v : Settings) (k : Pair) : Word := v.get (attachedSetting k)

/-- The pair is enabled (R122). -/
def Settings.pairEnabled (v : Settings) (k : Pair) : Bool := v.pairEnable.getLsbD k.index

/-- The bay port is a port of an enabled pair. -/
def Settings.paired (v : Settings) (p : BayPort) : Bool := v.pairEnabled p.pair

/-- The capacity of the queues of a class (R151). -/
def Settings.queueCap (v : Settings) : DataClass → Nat
  | .trip => v.queueCapTrip.toNat
  | .sample => v.queueCapSample.toNat
  | .status => v.queueCapStatus.toNat

/-- The node number is in the own-origin set: NODE, and the nonzero ATTACHED NODE of each enabled pair; the set is empty
while NODE is 0 (R6). -/
def Settings.ownOrigin (v : Settings) (n : Nat) : Bool :=
  v.node != 0 &&
    (n == v.node.toNat
      || (v.pairEnabled .pair0 && v.attachedNode0 != 0 && n == v.attachedNode0.toNat)
      || (v.pairEnabled .pair1 && v.attachedNode1 != 0 && n == v.attachedNode1.toNat))

/-- The destination address of probes and proving frames (R164). -/
def Settings.probeGroup (v : Settings) : List Byte :=
  wordBytes v.probeGroup0 ++ wordBytes v.probeGroup1 ++ wordBytes v.probeGroup2

/-- The length of a sweep period of the code in force, in microseconds (R79). -/
def Settings.sweepLength (v : Settings) : Time :=
  if v.sweepPeriod = 0 then 250 else if v.sweepPeriod = 1 then 500 else if v.sweepPeriod = 2 then 1000 else 2000

/-- The interval between probe boundaries in milliseconds: PROBE PERIOD, or 10 while NODE is 0 (R132). -/
def Settings.probeInterval (v : Settings) : Nat := if v.node = 0 then 10 else v.probePeriod.toNat

/-- The segment of a handle (R19). -/
def segmentOf (h : Nat) : Nat := h / Config.segmentSize

/-- The handle's segment is named by SWEEP MASK (R90). -/
def Settings.masked (v : Settings) (h : Nat) : Bool := v.sweepMask.getLsbD (segmentOf h)

/-- The handle's segment is named by FREEZE (R111). -/
def Settings.frozen (v : Settings) (h : Nat) : Bool := v.freeze.getLsbD (segmentOf h)

/-! ## Sparse tables: pairs of a number and a thing, numbers rising, no entry that equals the default -/

/-- What the table holds for a number; `d` for a number not listed. -/
def Sparse.get {α : Type} (d : α) : List (Nat × α) → Nat → α
  | [], _ => d
  | (k, x) :: m, h => if k = h then x else Sparse.get d m h

/-- A new entry, put in before the first greater number. -/
def Sparse.insert {α : Type} (h : Nat) (x : α) : List (Nat × α) → List (Nat × α)
  | [] => [(h, x)]
  | (k, y) :: m => if h < k then (h, x) :: (k, y) :: m else (k, y) :: Sparse.insert h x m

/-- The table with `x` for the number `h`; the default is not listed. -/
def Sparse.put {α : Type} [DecidableEq α] (d : α) (m : List (Nat × α)) (h : Nat) (x : α) : List (Nat × α) :=
  if x = d then m.filter (fun e => e.1 != h) else Sparse.insert h x (m.filter (fun e => e.1 != h))

/-- The canonical form: numbers strictly rising, no entry equal to the default. -/
def Sparse.wf {α : Type} [DecidableEq α] (d : α) : List (Nat × α) → Bool
  | [] => true
  | [(_, x)] => decide (x ≠ d)
  | (k, x) :: (k', y) :: m => decide (k < k') && decide (x ≠ d) && Sparse.wf d ((k', y) :: m)

/-- The record of a handle (R19). -/
def State.record (s : State) (h : Nat) : Record := Sparse.get Record.free s.table h

/-- A handle takes a record. -/
def State.putRecord (s : State) (h : Nat) (r : Record) : State := { s with table := Sparse.put Record.free s.table h r }

/-- The in-flight tally of a handle (R154). -/
def State.tally (s : State) (h : Nat) : Nat := Sparse.get 0 s.tallies h

/-- A handle's tally takes a value. -/
def State.putTally (s : State) (h : Nat) (n : Nat) : State := { s with tallies := Sparse.put 0 s.tallies h n }

/-- The roster entry of a node number (R140). -/
def State.rosterEntry (s : State) (k : Nat) : RosterEntry := Sparse.get RosterEntry.absent s.probe.roster k

/-- A change to the probe unit. -/
def State.modProbe (s : State) (f : ProbeUnit → ProbeUnit) : State := { s with probe := f s.probe }

/-- A node number's roster entry takes a value. -/
def State.putRoster (s : State) (k : Nat) (e : RosterEntry) : State :=
  s.modProbe (fun u => { u with roster := Sparse.put RosterEntry.absent u.roster k e })

/-- The record is in ARMED, LIVE, SINGLE or SILENT: it holds its key (R21), and lookups, searches and visits find it. -/
def RecState.occupied : RecState → Bool
  | .free => false
  | .armed => true
  | .live => true
  | .single => true
  | .silent => true
  | .retiring => false

/-- The attention set, in ascending order (R109). -/
def State.attentionSet (s : State) : List Nat := (s.table.filter (fun e => e.2.inAttention)).map (·.1)

/-- A tally-zero notice joins the notice list, which holds each handle at most once (R30). -/
def State.sendNotice (s : State) (h : Nat) : State :=
  if s.notices.contains h then s else { s with notices := s.notices ++ [h] }

end Sys2Proof.Machine
end

