-- ==== Sys2Proof/Machine/Arbiter.lean ====
section
/-! DEFINITION. The table arbiter (R31): whose turn it is when the table is free. -/

namespace Sys2Proof.Machine

/-- The claim the arbiter grants next (R31). -/
inductive Turn
  | intake (p : Port)
  | timed
  | notice (h : Nat)
  | visit
  | idle
  deriving DecidableEq, Repr

/-- The intake that follows in the rotation: Lane A, Lane B, P0, P1, P2, P3 and then Lane A again (R31). -/
def nextInRotation : Port → Port
  | .lane .a => .lane .b
  | .lane .b => .bay .p0
  | .bay .p0 => .bay .p1
  | .bay .p1 => .bay .p2
  | .bay .p2 => .bay .p3
  | .bay .p3 => .lane .a

/-- The six intakes in rotation from one of them (R31). -/
def rotationFrom : Port → List Port
  | .lane .a => [.lane .a, .lane .b, .bay .p0, .bay .p1, .bay .p2, .bay .p3]
  | .lane .b => [.lane .b, .bay .p0, .bay .p1, .bay .p2, .bay .p3, .lane .a]
  | .bay .p0 => [.bay .p0, .bay .p1, .bay .p2, .bay .p3, .lane .a, .lane .b]
  | .bay .p1 => [.bay .p1, .bay .p2, .bay .p3, .lane .a, .lane .b, .bay .p0]
  | .bay .p2 => [.bay .p2, .bay .p3, .lane .a, .lane .b, .bay .p0, .bay .p1]
  | .bay .p3 => [.bay .p3, .lane .a, .lane .b, .bay .p0, .bay .p1, .bay .p2]

/-- The first intake with a claim waiting, from the rotation's beginning (R31). -/
def State.nextIntake (s : State) : Option Port :=
  (rotationFrom s.rotation).find? (fun p => (s.port p).claim.isSome)

/-- Whose turn it is: a waiting lookup or search, else the timed operation, else the oldest notice, else the visit (R31). -/
def State.turn (s : State) : Turn :=
  match s.nextIntake with
  | some p => .intake p
  | none =>
    if s.inFlight.isSome then .timed
    else match s.notices with
      | h :: _ => .notice h
      | [] => if s.sweep.position < Config.handles then .visit else .idle

/-- The arbiter grants the claim of this kind that the port's intake has waiting (log 3). -/
def State.granted (s : State) (p : Port) (claim : IntakeClaim) : Bool :=
  s.turn == .intake p && (s.port p).claim == some claim

/-! ## The grant in hand at a timed operation's claim (R31, R96) -/

/-- The low claim whose turn it is: what the arbiter may have in hand when a timed operation is claimed now (R31). -/
def State.lowTurn (s : State) : Option LowClaim :=
  match s.turn with
  | .intake _ => none
  | .timed => none
  | .notice _ => some .notice
  | .visit => some .visit
  | .idle => none

/-- The handle of the notice that may act: the oldest one, in its turn (R31), or as the grant in hand at the claim of a timed
operation (R96; log 35). -/
def State.noticeTurn (s : State) : Option Nat :=
  if s.lowTurn = some .notice ∨ s.inHand = some .notice then s.notices.head? else none

/-- The visit may act: in its turn (R31), or as the grant in hand at the claim of a timed operation (R96; log 35). -/
def State.visitTurn (s : State) : Bool :=
  (s.lowTurn == some .visit || s.inHand == some .visit) && decide (s.sweep.position < Config.handles)

/-- A grant that follows the claim of a timed operation ends the one in hand at it: the table takes one grant after another (R31, R32). -/
def State.endInHand (s : State) : State := { s with inHand := none }

/-- The grant of an intake's claim moves the rotation on (R31), and follows any grant in hand (R32). -/
def State.rotate (s : State) (p : Port) : State := { s.endInHand with rotation := nextInRotation p }

end Sys2Proof.Machine
end

