-- ==== Sys2Proof/Machine/Frame.lean ====
section
/-! DEFINITION. Ethernet frames and the bay tag: checks, fields, and the forms a copy leaves in. A frame is the list of its
bytes from the first byte of the destination address to the last byte of the FCS (R10). -/

namespace Sys2Proof.Machine

/-! ## The tag check and the FCS (R3) -/

/-- The bits of a byte, most significant first. -/
def bitsFromTop (byte : Byte) : List Bool := [7, 6, 5, 4, 3, 2, 1, 0].map (fun i => byte.getLsbD i)

/-- The bits of a byte, least significant first. -/
def bitsFromBottom (byte : Byte) : List Bool := [0, 1, 2, 3, 4, 5, 6, 7].map (fun i => byte.getLsbD i)

/-- Message bits into the CRC-8 register, one at a time (R3). -/
def crc8Bits : Byte → List Bool → Byte
  | reg, [] => reg
  | reg, bit :: bits => if reg.msb = bit then crc8Bits (reg <<< 1) bits else crc8Bits ((reg <<< 1) ^^^ 0x07) bits

/-- The CRC-8 of R3: each message byte most significant bit first. -/
def crc8 (bytes : List Byte) : Byte := crc8Bits 0x00 (bytes.flatMap bitsFromTop)

/-- Message bits into the FCS register, one at a time (R3). -/
def crc32Bits : BitVec 32 → List Bool → BitVec 32
  | reg, [] => reg
  | reg, bit :: bits =>
    if reg.getLsbD 0 = bit then crc32Bits (reg >>> 1) bits else crc32Bits ((reg >>> 1) ^^^ 0xEDB88320) bits

/-- The four FCS bytes of a frame's contents, least significant byte first (R3): each message byte least significant bit first. -/
def fcsBytes (contents : List Byte) : List Byte :=
  let reg := ~~~ (crc32Bits 0xFFFFFFFF (contents.flatMap bitsFromBottom))
  [reg.extractLsb' 0 8, reg.extractLsb' 8 8, reg.extractLsb' 16 8, reg.extractLsb' 24 8]

/-- A frame without its FCS. -/
def contentsOf (frame : List Byte) : List Byte := frame.take (frame.length - 4)

/-- A frame's contents with the FCS computed over them. -/
def withFcs (contents : List Byte) : List Byte := contents ++ fcsBytes contents

/-- The frame's FCS matches its contents (R10). -/
def fcsMatches (frame : List Byte) : Bool :=
  decide (4 ≤ frame.length) && (frame.drop (frame.length - 4) == fcsBytes (contentsOf frame))

/-- Step 1 of an intake (R10, R63): the FCS matches and the length lies in 64 .. `upper`. -/
def lengthAndFcsPass (frame : List Byte) (upper : Nat) : Bool :=
  decide (64 ≤ frame.length) && decide (frame.length ≤ upper) && fcsMatches frame

/-! ## The bay tag (12.2) -/

/-- The class of a tag (R2, 12.2). -/
inductive TagClass
  | trip
  | sample
  | status
  | probe
  deriving DecidableEq, Repr

/-- The class a two-bit code names (12.2). -/
def TagClass.ofCode (code : BitVec 2) : TagClass :=
  if code = 0 then .trip else if code = 1 then .sample else if code = 2 then .status else .probe

/-- The code of a class (12.2). -/
def TagClass.code : TagClass → BitVec 2
  | .trip => 0
  | .sample => 1
  | .status => 2
  | .probe => 3

/-- The queue and admission class of a tag's class: PROBE goes as TRIP (R2, R147). -/
def TagClass.dataClass : TagClass → DataClass
  | .trip => .trip
  | .sample => .sample
  | .status => .status
  | .probe => .trip

/-- The class written into a tag for a record's class (R65). -/
def tagClassOf : DataClass → TagClass
  | .trip => .trip
  | .sample => .sample
  | .status => .status

/-- The fields of a tag between the tag type word and the tag check (12.2). -/
structure Tag where
  cls : TagClass
  origin : BitVec 6
  hops : BitVec 6
  epoch : BitVec 4
  stream : BitVec 14
  seq : Word
  renewal : Byte
  deriving DecidableEq, Repr

/-- The seven covered tag bytes as one number, most significant byte first: class 2, origin 6, hops left 6, epoch 4, stream
number 14, sequence 16, renewal 8 bits (12.2). -/
def Tag.bits (t : Tag) : BitVec 56 :=
  t.cls.code ++ t.origin ++ t.hops ++ t.epoch ++ t.stream ++ t.seq ++ t.renewal

/-- The seven covered bytes of a tag (R3). -/
def Tag.covered (t : Tag) : List Byte :=
  let w := t.bits
  [w.extractLsb' 48 8, w.extractLsb' 40 8, w.extractLsb' 32 8, w.extractLsb' 24 8, w.extractLsb' 16 8, w.extractLsb' 8 8,
    w.extractLsb' 0 8]

/-- The ten bytes of a tag (12.2). -/
def Tag.bytes (typeWord : Word) (t : Tag) : List Byte := wordBytes typeWord ++ t.covered ++ [crc8 t.covered]

/-- The tag bytes 14..20 of a frame, those the tag check covers (R3). -/
def coveredBytes (frame : List Byte) : List Byte := (frame.drop 14).take 7

/-- The fields of the tag of a tagged frame, from its bytes 14..20 (12.2). -/
def tagOf (frame : List Byte) : Tag :=
  let w : BitVec 56 :=
    byteAt frame 14 ++ byteAt frame 15 ++ byteAt frame 16 ++ byteAt frame 17 ++ byteAt frame 18 ++ byteAt frame 19
      ++ byteAt frame 20
  { cls := .ofCode (w.extractLsb' 54 2), origin := w.extractLsb' 48 6, hops := w.extractLsb' 42 6,
    epoch := w.extractLsb' 38 4, stream := w.extractLsb' 24 14, seq := w.extractLsb' 8 16, renewal := w.extractLsb' 0 8 }

/-- The word directly after the source address (R1, R35). -/
def typeWordOf (frame : List Byte) : Word := wordAt frame 12

/-- The frame is tagged under this TAG TYPE (R1). -/
def isTagged (tagType : Word) (frame : List Byte) : Bool := typeWordOf frame == tagType

/-- The stream number of proving frames. -/
abbrev provingStream : BitVec 14 := 16382

/-- The stream number of ring probes. -/
abbrev probeStream : BitVec 14 := 16383

/-- The fields of a tagged frame are valid (R2). -/
def tagValid (frame : List Byte) : Bool :=
  let t := tagOf frame
  crc8 (coveredBytes frame) == byteAt frame 21
    && decide (1 ≤ t.origin.toNat) && decide (t.origin.toNat ≤ 60)
    && ((t.cls == .probe) == (t.stream == provingStream || t.stream == probeStream))

/-! ## Rewriting, tagging and untagging -/

/-- The frame with hops left set, its tag check and FCS computed anew (R4). -/
def rewriteHops (hops : BitVec 6) (frame : List Byte) : List Byte :=
  let tag := { tagOf frame with hops := hops }
  withFcs (frame.take 14 ++ tag.covered ++ [crc8 tag.covered] ++ (contentsOf frame).drop 22)

/-- The frame with ten tag bytes put in directly after its source address and its FCS computed anew (R65). -/
def insertTag (typeWord : Word) (tag : Tag) (frame : List Byte) : List Byte :=
  withFcs (frame.take 12 ++ tag.bytes typeWord ++ (contentsOf frame).drop 12)

/-- The frame without its ten tag bytes, filled out to 64 bytes with 0x00 before the FCS, its FCS computed anew (R56). -/
def removeTag (frame : List Byte) : List Byte :=
  let contents := frame.take 12 ++ (contentsOf frame).drop 22
  withFcs (contents ++ List.replicate (60 - contents.length) 0)

/-- The bytes of a copy in its form, built from the stored frame (R147, R152). -/
def Form.build (form : Form) (frame : List Byte) : List Byte :=
  match form with
  | .asStored => frame
  | .hopsRewritten hops => rewriteHops hops frame
  | .tagRemoved => removeTag frame

/-- A frame of 64 bytes the part makes itself: addresses, tag, payload, filled with 0x00 (R126, R134). -/
def makeFrame (dest : List Byte) (node : Byte) (typeWord : Word) (tag : Tag) (payload : List Byte) : List Byte :=
  let contents := dest ++ [0x02, 0xB6, 0x2E, 0x00, 0x00, node] ++ tag.bytes typeWord ++ payload
  withFcs (contents ++ List.replicate (60 - contents.length) 0)

end Sys2Proof.Machine
end

