-- ==== Sys2Proof/Machine/Pool.lean ====
section
/-! DEFINITION. The buffer manager (spec/09): the cell pool, admission, the egress queues, the transmitters, the tallies and the
flushes. -/

namespace Sys2Proof.Machine

/-! ## The cell pool (R145) -/

/-- The cells a frame of `n` bytes holds: n / 256, rounded up (R145). -/
def cellsFor (n : Nat) : Nat := (n + (Config.cellBytes - 1)) / Config.cellBytes

/-- The cells held by a stored frame (R145). -/
def StoredFrame.cells (f : StoredFrame) : Nat := cellsFor f.bytes.length

/-- The cells held by a list of stored frames. -/
def heldCells (pool : List StoredFrame) : Nat := (pool.map StoredFrame.cells).sum

/-- The free cells (R145). -/
def State.freeCells (s : State) : Nat := Config.cells - heldCells s.pool

/-- The cells that a class leaves free at its admission (R148). -/
def reserveOf : DataClass → Nat
  | .trip => 0
  | .sample => 32
  | .status => 96

/-- A frame of `need` cells is admitted under the class with `free` cells free (R148). -/
def admissible (cls : DataClass) (need free : Nat) : Bool := decide (need + reserveOf cls ≤ free)

/-! ## The transmitter (R152, R153) -/

/-- The queue the transmitter chooses, when one of its queues holds a descriptor (R153). -/
def chosenClass (u : PortUnit) (statusQuota : Nat) : DataClass :=
  if !u.trip.isEmpty then .trip
  else if !u.status.isEmpty && (u.sample.isEmpty || decide (statusQuota ≤ u.quota.toNat)) then .status
  else .sample

/-- The quota count after a choice (R153). -/
def quotaAfter (u : PortUnit) (c : DataClass) : Byte :=
  match c with
  | .trip => u.quota
  | .status => 0
  | .sample => if u.status.isEmpty then 0 else bump u.quota

/-- An idle transmitter takes the head descriptor of the queue it chooses, if any of its queues holds one (R152). -/
def PortUnit.choose (u : PortUnit) (statusQuota : Nat) : PortUnit :=
  if u.state.inService && u.sending.isNone then
    let c := chosenClass u statusQuota
    match u.queue c with
    | [] => u
    | d :: rest => { u.setQueue c rest with sending := some d, quota := quotaAfter u c }
  else u

/-- The port's transmitter chooses (R153). -/
def State.serve (s : State) (p : Port) : State := s.modPort p (fun u => u.choose s.settings.statusQuota.toNat)

/-! ## Copies that leave (R145, R154) -/

/-- One copy fewer of a stored frame; at 0 its cells become free (R145). -/
def releaseFrame (pool : List StoredFrame) (name : Nat) : List StoredFrame :=
  (pool.map (fun f => if f.name = name then { f with outstanding := f.outstanding - 1 } else f)).filter
    (fun f => f.outstanding != 0)

/-- One copy fewer in a handle's tally; a fall from 1 to 0 sends its tally-zero notice (R154). -/
def State.tallyDown (s : State) (h : Nat) : State :=
  let s' := s.putTally h (s.tally h - 1)
  if s.tally h = 1 then s'.sendNotice h else s'

/-- A copy has left: sent whole, discarded or abandoned (R152, R155). -/
def State.releaseCopy (s : State) (d : Descriptor) : State :=
  let s' := { s with pool := releaseFrame s.pool d.frame }
  match d.handle with
  | some h => s'.tallyDown h
  | none => s'

/-- The descriptors of a port in the order its flush takes them: its queues TRIP, SAMPLE, STATUS from head to tail, then the
copy in transmission (R155; the order among queues is log 19). -/
def PortUnit.descriptors (u : PortUnit) : List Descriptor := u.trip ++ u.sample ++ u.status ++ u.sending.toList

/-- `n` more flushed copies, one at a time (R155). -/
def PortCounters.addFlushed (c : PortCounters) (n : Nat) : PortCounters := { c with flushed := bumpBy c.flushed n }

/-- The flush of a port (R155). -/
def State.flush (s : State) (p : Port) : State :=
  let ds := (s.port p).descriptors
  let s' := s.modPort p (fun u =>
    { u with trip := [], sample := [], status := [], sending := none, quota := 0, counters := u.counters.addFlushed ds.length })
  ds.foldl State.releaseCopy s'

/-! ## Admission (R147 to R149) -/

/-- What a copy is for (R117, R147). -/
inductive Role
  | transit
  | delivery
  | injection
  | probe
  | proving
  | reflection
  deriving DecidableEq, Repr

/-- A copy of an admission request: its port, its form, its record's handle and what it is for (R147). -/
structure Copy where
  port : Port
  form : Form
  handle : Option Nat
  role : Role
  deriving DecidableEq, Repr

/-- What became of a copy at its offer (R149). -/
inductive Fate
  | flushed
  | dropped
  | enqueued
  deriving DecidableEq, Repr

/-- A PROVING lane takes proving frames and reflections alone (R117, R149). -/
def Role.onProving : Role → Bool
  | .transit => false
  | .delivery => false
  | .injection => false
  | .probe => false
  | .proving => true
  | .reflection => true

/-- A copy of this role is flushed at once when offered to a port in this state (R149). -/
def flushedAtOnce (st : PortState) (role : Role) : Bool := !st.inService || (st == .proving && !role.onProving)

/-- The fate of a copy at its offer (R149). -/
def State.fateOf (s : State) (cls : DataClass) (c : Copy) : Fate :=
  let u := s.port c.port
  if flushedAtOnce u.state c.role then .flushed
  else if s.settings.queueCap cls ≤ (u.queue cls).length then .dropped
  else .enqueued

/-- A tally with one copy more (R154). -/
def State.tallyUp (s : State) : Option Nat → State
  | some h => s.putTally h (s.tally h + 1)
  | none => s

/-- One copy of the frame `name` is offered to its queue (R149). -/
def State.offer (s : State) (name : Nat) (cls : DataClass) (c : Copy) : State :=
  match s.fateOf cls c with
  | .flushed => s.count c.port (fun k => k.addFlushed 1)
  | .dropped => s.count c.port (fun k => { k with queueDrops := bump k.queueDrops })
  | .enqueued =>
    (s.modPort c.port (fun u => u.setQueue cls (u.queue cls ++ [⟨name, c.form, c.handle⟩]))).tallyUp c.handle

/-- The copies are offered in the order the request lists them; the answer is the fate of each (R149). -/
def State.offerAll (s : State) (name : Nat) (cls : DataClass) : List Copy → State × List Fate
  | [] => (s, [])
  | c :: cs =>
    let rest := (s.offer name cls c).offerAll name cls cs
    (rest.1, s.fateOf cls c :: rest.2)

/-- The number of copies enqueued (R149). -/
def enqueuedCount (fates : List Fate) : Nat := fates.count .enqueued

/-- A refused frame: POOL is set and "pool refusals" adds one on each of the ports (R148). -/
def State.refuseFrame (s : State) (blame : List Port) : State :=
  blame.foldl (fun t p => t.count p (fun k => { k with poolRefusals := bump k.poolRefusals })) (s.raise .pool)

/-- The transmitters of the copies' ports choose (R152). -/
def State.serveAll (s : State) (copies : List Copy) : State := copies.foldl (fun t c => t.serve c.port) s

/-- An admitted frame: its copies placed, its cells taken for as long as a copy is queued or in transmission (R149), and each
idle transmitter that now has a descriptor taking it (R152). -/
def State.storeFrame (s : State) (frame : List Byte) (cls : DataClass) (copies : List Copy) : State × List Fate :=
  let placed := s.offerAll s.nextName cls copies
  let n := enqueuedCount placed.2
  let t := if n = 0 then placed.1
    else { placed.1 with pool := placed.1.pool ++ [⟨s.nextName, frame, cls, n⟩], nextName := s.nextName + 1 }
  (t.serveAll copies, placed.2)

/-- An admission request (R147, R148): a frame, its admission class, its copies, and the ports that count its refusal. A frame
with no copies is not offered. The answer lists the fate of each copy, and is empty when no copy was placed. -/
def State.requestAdmission (s : State) (frame : List Byte) (cls : DataClass) (copies : List Copy) (blame : List Port) :
    State × List Fate :=
  if copies.isEmpty then (s, [])
  else if admissible cls (cellsFor frame.length) s.freeCells then s.storeFrame frame cls copies
  else (s.refuseFrame blame, [])

/-- How many of the copies that satisfy `which` stand in the answer as enqueued; a copy flushed at once stands so (R149). -/
def answeredEnqueued (which : Copy → Bool) (copies : List Copy) (fates : List Fate) : Nat :=
  ((copies.zip fates).filter (fun e => which e.1 && e.2 != .dropped)).length

/-! ## The end of a transmission (R152) -/

/-- The bytes the wire carries for a descriptor (R152). -/
def State.wireBytes (s : State) (d : Descriptor) : List Byte :=
  match s.pool.find? (fun f => f.name = d.frame) with
  | some f => d.form.build f.bytes
  | none => []

/-- The transmission of the copy `d` on the port ends whole (R152). -/
def State.endTransmission (s : State) (p : Port) (d : Descriptor) : State :=
  let out := s.wireBytes d
  let s1 := s.modPort p (fun u =>
    { u with sending := none, lastOut := out, counters := { u.counters with framesOut := bump u.counters.framesOut } })
  (s1.releaseCopy d).serve p

/-- TRANSMISSION_END (R152): the copy in transmission on the port ends whole. With none there is no occasion (log 2). -/
def execTransmissionEnd (p : Port) (s : State) : Host.Outcome State Fault Refusal :=
  match (s.port p).sending with
  | some d => .next (s.endTransmission p d)
  | none => .next s

end Sys2Proof.Machine
end

