-- ==== Sys2Proof/Machine/Probe.lean ====
section
/-! DEFINITION. The probe unit (spec/08): ring state, probe boundaries, probes, returns, clash and roster. -/

namespace Sys2Proof.Machine

/-! ## Ring state (R135, R137) -/

/-- The ring state the table of R137 gives: the first row that holds. -/
def State.ringNow (s : State) : RingState :=
  if s.settings.node = 0 then .noRing
  else if !s.lanesUp then .isOpen
  else if s.settings.probeMissLimit.toNat ≤ s.probe.missA.toNat ∨ s.settings.probeMissLimit.toNat ≤ s.probe.missB.toNat then .isOpen
  else if s.probe.missA ≠ 0 ∨ s.probe.missB ≠ 0 then .suspect
  else .closed

/-- The ring state is set anew; a change sets RING (R137). A stopped unit judges no ring-state event (R131). -/
def State.judgeRing (s : State) : State :=
  if s.probe.boundary.isNone || s.ringNow == s.probe.ring then s
  else ({ s with probe := { s.probe with ring := s.ringNow } } : State).raise .ring

/-- Both miss counts 15: neither direction is trusted (R135). -/
def ProbeUnit.distrust (u : ProbeUnit) : ProbeUnit := { u with missA := 15, missB := 15 }

/-- What a lane's change of state does to a started probe unit: a lane that leaves UP on a node with a number sets both miss
counts to 15 (R135); a lane that enters or leaves UP sets the ring state anew (R137). -/
def State.laneMoved (s : State) (old new : PortState) : State :=
  if s.probe.boundary.isNone then s
  else
    let t := if old = .up ∧ s.settings.node ≠ 0 then s.modProbe ProbeUnit.distrust else s
    if old = .up ∨ new = .up then t.judgeRing else t

/-! ## The roster (R140, R141, R144) -/

/-- The status of an entry, as its code: 0 ABSENT, 1 HEARD-A, 2 HEARD-B, 3 HEARD-BOTH (R140, 12.4). -/
def RosterEntry.status (e : RosterEntry) : BitVec 2 := BitVec.ofBool e.heardB.isSome ++ BitVec.ofBool e.heardA.isSome

/-- What an entry takes from a reported ring state code; a code no table names gives a free value (R140; log 21). -/
def State.reportedRing (s : State) (code : Byte) : RingState :=
  .ofCode (if code.toNat ≤ 3 then code.extractLsb' 0 2 else Config.unnamedRingCode s.draws code)

/-- What an entry takes from a reported lane state code; a code no table names gives a free value (R140; log 21). -/
def reportedLane (draw : Nat) (code : Byte) : PortState :=
  .ofCode (if code.toNat ≤ 4 then code.toNat else (Config.unnamedLaneCode draw code).val)

/-- The evidence of one lane set (R140). -/
def RosterEntry.hear (e : RosterEntry) (l : Lane) (v : Evidence) : RosterEntry :=
  match l with
  | .a => { e with heardA := some v }
  | .b => { e with heardB := some v }

/-- A probe's payload hop limit is 1..63 and not below the hops left it arrived with (R140). -/
def probeAccepted (limit : Byte) (hops : BitVec 6) : Bool :=
  decide (1 ≤ limit.toNat) && decide (limit.toNat ≤ 63) && decide (hops.toNat ≤ limit.toNat)

/-- One entry takes up a probe heard on a lane (R140). -/
def State.heardEntry (s : State) (l : Lane) (arrival : Time) (frame : List Byte) : RosterEntry :=
  let tag := tagOf frame
  let e := (s.rosterEntry tag.origin.toNat).hear l
    { lastHeard := arrival, distance := byteAt frame 24 - tag.hops.setWidth 8 + 1 }
  { e with
    ring := s.reportedRing (byteAt frame 25)
    laneA := reportedLane s.draws (byteAt frame 26)
    laneB := reportedLane (s.draws + 1) (byteAt frame 27) }

/-- Some code of the payload is one no table names. -/
def drawsNeeded (frame : List Byte) : Bool :=
  decide (3 < (byteAt frame 25).toNat) || decide (4 < (byteAt frame 26).toNat) || decide (4 < (byteAt frame 27).toNat)

/-- Another node's probe, heard on a lane, updates the entry of its origin; a change of status sets ROSTER (R140). -/
def State.hearProbe (s : State) (l : Lane) (arrival : Time) (frame : List Byte) : State :=
  let tag := tagOf frame
  if probeAccepted (byteAt frame 24) tag.hops then
    let k := tag.origin.toNat
    let e := s.heardEntry l arrival frame
    let t := (s.putRoster k e).raiseIf (e.status != (s.rosterEntry k).status) .roster
    { t with draws := if drawsNeeded frame then s.draws + 2 else s.draws }
  else s

/-- Evidence older than `limit` microseconds at `now` is cleared (R141). -/
def freshEvidence (now : Time) (limit : Nat) : Option Evidence → Option Evidence
  | some v => if limit < (now - v.lastHeard).toNat then none else some v
  | none => none

/-- An entry aged; one left with neither mark becomes ABSENT with all its fields 0 (R141). -/
def RosterEntry.age (now : Time) (limit : Nat) (e : RosterEntry) : RosterEntry :=
  let a := freshEvidence now limit e.heardA
  let b := freshEvidence now limit e.heardB
  if a.isNone && b.isNone then RosterEntry.absent else { e with heardA := a, heardB := b }

/-- Every entry aged against four intervals; ROSTER is set when the status of some entry changes (R141). -/
def State.ageRoster (s : State) (now : Time) : State :=
  let limit := 4 * (1000 * s.settings.probeInterval)
  let changed := s.probe.roster.any (fun e => (e.2.age now limit).status != e.2.status)
  let aged := (s.probe.roster.map (fun e => (e.1, e.2.age now limit))).filter (fun e => e.2 != RosterEntry.absent)
  (s.modProbe (fun u => { u with roster := aged })).raiseIf changed .roster

/-! ## Returns and clash (R136, R139) -/

/-- A valid return on a lane: on Lane B for direction A, on Lane A for direction B. That direction's miss count becomes 0 and
its answered mark is set (R136). -/
def ProbeUnit.answer (u : ProbeUnit) (l : Lane) : ProbeUnit :=
  match l with
  | .b => { u with missA := 0, answeredA := true }
  | .a => { u with missB := 0, answeredB := true }

/-- A return whose serial is not in the list (R139). -/
def State.clash (s : State) : State := (s.modProbe (fun u => { u with clashes := bump u.clashes })).raise .clash

/-- This node's probe comes home on a lane (R136). -/
def State.probeReturn (s : State) (l : Lane) (frame : List Byte) : State :=
  if s.probe.serials.contains (wordAt frame 22) then
    if s.lanesUp then (s.modProbe (fun u => u.answer l)).judgeRing else s
  else s.clash

/-! ## Boundaries and probes (R132 to R134) -/

/-- Step 1 of R133 on a miss count: a direction that was not answered adds one. -/
def judgedMiss (lanesUp answered : Bool) (misses : BitVec 4) : BitVec 4 :=
  if lanesUp then (if answered then misses else bump misses) else 15

/-- Step 1 of R133: the period is judged and both answered marks are cleared. -/
def State.judgePeriod (s : State) : State :=
  s.modProbe (fun u =>
    { u with
      missA := judgedMiss s.lanesUp u.answeredA u.missA
      missB := judgedMiss s.lanesUp u.answeredB u.missB
      answeredA := false
      answeredB := false })

/-- The serial of the boundary: the next serial, or the low 16 bits of the bay-clock reading when there is none yet (R133). -/
def State.boundarySerial (s : State) (now : Time) : Word := s.probe.nextSerial.getD (now.extractLsb' 0 16)

/-- The serial list with a serial appended, the oldest of four removed first (R133). -/
def appendSerial (serials : List Word) (serial : Word) : List Word :=
  (if 4 ≤ serials.length then serials.drop 1 else serials) ++ [serial]

/-- The probe of a serial (R134). -/
def State.probeFrame (s : State) (serial : Word) : List Byte :=
  let v := s.settings
  makeFrame v.probeGroup (v.node.extractLsb' 0 8) v.tagType
    { cls := .probe, origin := v.node.extractLsb' 0 6, hops := v.hopLimit.extractLsb' 0 6, epoch := v.epoch.extractLsb' 0 4,
      stream := probeStream, seq := serial, renewal := 0 }
    (wordBytes serial ++ [v.hopLimit.extractLsb' 0 8, s.probe.ring.code.setWidth 8,
      (s.port (.lane .a)).state.code.setWidth 8, (s.port (.lane .b)).state.code.setWidth 8])

/-- The lanes that are UP (R67, R73, R134). -/
def State.upLanes (s : State) : List Port := [.lane .a, .lane .b].filter s.isUp

/-- The copies of a probe: one for each lane that is UP, with no handle (R134). -/
def State.probeCopies (s : State) : List Copy :=
  s.upLanes.map (fun p => { port := p, form := .asStored, handle := none, role := .probe })

/-- Step 4 of R133: the probe is made, listed and sent. -/
def State.sendProbe (s : State) (now : Time) : State :=
  let serial := s.boundarySerial now
  let t := s.modProbe (fun u => { u with serials := appendSerial u.serials serial, nextSerial := some (serial + 1) })
  (t.requestAdmission (t.probeFrame serial) .trip t.probeCopies t.upLanes).1

/-- The work of a boundary (R133 on a node with a number, R138 and R141 on a transit-only node). -/
def State.boundaryWork (s : State) (now : Time) : State :=
  if s.settings.node = 0 then s.ageRoster now
  else ((s.judgePeriod.ageRoster now).judgeRing).sendProbe now

/-- The boundary at `due`: its work, and the next boundary one interval later on the grid (R132). -/
def State.probeBoundary (s : State) (due : Time) : State :=
  let t := s.boundaryWork s.bayClock
  t.modProbe (fun u => { u with boundary := some (due + milliseconds s.settings.probeInterval) })

/-- The probe boundary that the bay clock has come to, if any (R132). -/
def State.probeDue (s : State) : Option Time :=
  match s.probe.boundary with
  | some due => if hasReached s.bayClock due then some due else none
  | none => none

/-- PROBE_BOUNDARY (R133). Before the boundary's time, or with the unit stopped, there is no occasion (log 2, log 24). -/
def execProbeBoundary (s : State) : Host.Outcome State Fault Refusal :=
  match s.probeDue with
  | some due => .next (s.probeBoundary due)
  | none => .next s

/-- The start of the unit at the end of the image load (R132). -/
def State.startProbes (s : State) : State :=
  (s.modProbe (fun u =>
    { (if s.settings.node = 0 then u else u.distrust) with
      boundary := some (s.bayClock + milliseconds s.settings.probeInterval) })).judgeRing

/-- What a NODE write does to the unit, NODE holding its new value (R142). -/
def State.restartProbes (s : State) : State :=
  let n := s.settings.node.toNat
  let wasHeard := n != 0 && (s.rosterEntry n).status != 0
  let t := s.modProbe (fun u =>
    { u with
      serials := [], nextSerial := none, answeredA := false, answeredB := false
      missA := if n = 0 then 0 else 15
      missB := if n = 0 then 0 else 15
      boundary := some (s.bayClock + milliseconds s.settings.probeInterval) })
  let t := if n = 0 then t else t.putRoster n RosterEntry.absent
  (t.raiseIf wasHeard .roster).judgeRing

end Sys2Proof.Machine
end

