-- ==== Sys2Proof/Machine/Ports.lean ====
section
/-! DEFINITION. The port controller (spec/07): changes of port state, the flap guard, proving sessions, receptions. -/

namespace Sys2Proof.Machine

/-! ## Changes of port state (R115 to R118) -/

/-- The flush asked at a transition out of UP or PROVING (R118). -/
def State.flushIfInService (s : State) (p : Port) : State := if s.inService p then s.flush p else s

/-- A port takes another state: the flush of R118, the reception under way discarded when the port no longer takes frames (R9,
R62), the PORT flag (R115), and for a lane what the probe unit makes of it (R135, R137). -/
def State.enterState (s : State) (p : Port) (new : PortState) : State :=
  let t := (s.flushIfInService p).modPort p (fun u => { u with state := new, underWay := u.underWay && new.inService })
  let t := t.raise .port
  match p with
  | .lane _ => t.laneMoved (s.port p).state new
  | .bay _ => t

/-- A port goes to a state; staying where it is is no change (R115). -/
def State.movePort (s : State) (p : Port) (new : PortState) : State :=
  if (s.port p).state = new then s else s.enterState p new

/-- The state a port turned on or reinstated takes, by its link signal mark (R116). -/
def PortUnit.onState (u : PortUnit) : PortState := if u.signal then .up else .down

/-! ## Link events and the flap guard (R115, R120) -/

/-- The entries of a flap history that are not older than one second: (now − t) modulo 2^32 below 1000000 (R120). -/
def recentFlaps (now : Time) (flaps : List Time) : List Time := flaps.filter (fun t => decide ((now - t).toNat < 1000000))

/-- The history with the present flap appended, the oldest of 15 removed first (R120). -/
def appendFlap (flaps : List Time) (now : Time) : List Time := (if 15 ≤ flaps.length then flaps.drop 1 else flaps) ++ [now]

/-- Where the flap guard sends a port at a link loss in UP: `kept` entries remain, and the present flap counts (R120). -/
def flapState (flapLimit : Nat) (kept : Nat) : PortState :=
  if flapLimit ≠ 0 ∧ flapLimit ≤ kept + 1 then .isolated else .down

/-- A link loss in UP: a flap (R120). -/
def State.flap (s : State) (p : Port) : State :=
  let kept := recentFlaps s.bayClock (s.port p).flaps
  (s.movePort p (flapState s.settings.flapLimit.toNat kept.length)).modPort p
    (fun u => { u with flaps := appendFlap kept s.bayClock })

/-- Link signal present (R115). -/
def State.linkPresent (s : State) (p : Port) : State :=
  let t := s.modPort p (fun u => { u with signal := true })
  if (s.port p).state = .down then t.movePort p .up else t

/-- Link signal lost (R115). -/
def State.linkLost (s : State) (p : Port) : State :=
  let t := s.modPort p (fun u => { u with signal := false })
  match (s.port p).state with
  | .up => t.flap p
  | .proving => t.movePort p .down
  | .off => t
  | .down => t
  | .isolated => t

/-- LINK_SIGNAL_PRESENT (R115). -/
def execLinkSignalPresent (p : Port) (s : State) : Host.Outcome State Fault Refusal := .next (s.linkPresent p)

/-- LINK_SIGNAL_LOST (R115). -/
def execLinkSignalLost (p : Port) (s : State) : Host.Outcome State Fault Refusal := .next (s.linkLost p)

/-! ## Proving (R125, R126) -/

/-- The proving frame the lane's session makes now (R126). -/
def State.makeProving (s : State) (l : Lane) : List Byte :=
  let v := s.settings
  makeFrame v.probeGroup (v.node.extractLsb' 0 8) v.tagType
    { cls := .probe, origin := v.node.extractLsb' 0 6, hops := 1, epoch := v.epoch.extractLsb' 0 4, stream := provingStream,
      seq := (s.provingOf l).sequence, renewal := 0 }
    (l.code :: timeBytes s.bayClock)

/-- A proving frame is made and offered, and the sequence advances; "proving sent" adds one when its copy is enqueued (R126). -/
def State.sendProving (s : State) (l : Lane) : State :=
  let copies : List Copy := [{ port := .lane l, form := .asStored, handle := none, role := .proving }]
  let answer := s.requestAdmission (s.makeProving l) .trip copies [.lane l]
  answer.1.modProving l (fun r =>
    { r with
      sequence := r.sequence + 1
      sent := if 0 < answeredEnqueued (fun _ => true) copies answer.2 then bump r.sent else r.sent })

/-- PROVE taken on an UP lane (R125): the lane goes to PROVING, its record is cleared, and the session's first frame is made. -/
def State.beginProving (s : State) (l : Lane) : State :=
  let t := s.movePort (.lane l) .proving
  (t.modProving l (fun _ => { ProvingRecord.zero with nextAt := t.bayClock + 1000 })).sendProving l

/-- A proving frame of the lane is due: its session runs and the bay clock has come to its time (R126). -/
def State.provingDue (s : State) (l : Lane) : Bool :=
  (s.port (.lane l)).state == .proving && hasReached s.bayClock (s.provingOf l).nextAt

/-- PROVING_FRAME (R126): the next frame of the lane's session is made. Before its time, or with no session, there is no
occasion (log 2, log 24). -/
def execProvingFrame (l : Lane) (s : State) : Host.Outcome State Fault Refusal :=
  if s.provingDue l then
    .next ((s.sendProving l).modProving l (fun r => { r with nextAt := r.nextAt + 1000 }))
  else .next s

/-! ## PORT COMMAND (R116) -/

/-- ON (R116). -/
def State.turnOn (s : State) (p : Port) : State := s.movePort p (s.port p).onState

/-- OFF (R116): the flap history is emptied. -/
def State.turnOff (s : State) (p : Port) : State := (s.movePort p .off).modPort p (fun u => { u with flaps := [] })

/-- REINSTATE (R116, R121): the flap history is emptied. -/
def State.reinstatePort (s : State) (p : Port) : State :=
  (s.movePort p (s.port p).onState).modPort p (fun u => { u with flaps := [] })

/-- ON on a port: taken in OFF alone (R116). -/
def State.commandOn (s : State) (p : Port) : State × Result :=
  match (s.port p).state with
  | .off => (s.turnOn p, .done)
  | .down => (s, .wrongState)
  | .up => (s, .wrongState)
  | .proving => (s, .wrongState)
  | .isolated => (s, .wrongState)

/-- OFF on a port: refused in OFF alone (R116). -/
def State.commandOff (s : State) (p : Port) : State × Result :=
  match (s.port p).state with
  | .off => (s, .wrongState)
  | .down => (s.turnOff p, .done)
  | .up => (s.turnOff p, .done)
  | .proving => (s.turnOff p, .done)
  | .isolated => (s.turnOff p, .done)

/-- PROVE on a port: a lane only; taken in UP on a node whose NODE is not 0 (R116). -/
def State.commandProve (s : State) (p : Port) : State × Result :=
  match p with
  | .bay _ => (s, .badValue)
  | .lane l =>
    if (s.port p).state = .up ∧ s.settings.node ≠ 0 then (s.beginProving l, .done) else (s, .wrongState)

/-- END PROVE on a port: a lane only; taken in PROVING, which it leaves for UP (R116, R129). -/
def State.commandEndProve (s : State) (p : Port) : State × Result :=
  match p with
  | .bay _ => (s, .badValue)
  | .lane _ => if (s.port p).state = .proving then (s.movePort p .up, .done) else (s, .wrongState)

/-- REINSTATE on a port: taken in ISOLATED alone (R116). -/
def State.commandReinstate (s : State) (p : Port) : State × Result :=
  match (s.port p).state with
  | .off => (s, .wrongState)
  | .down => (s, .wrongState)
  | .up => (s, .wrongState)
  | .proving => (s, .wrongState)
  | .isolated => (s.reinstatePort p, .done)

/-- A PORT COMMAND with a known action on the port a number names; a number above 5 gives BAD_VALUE (R116). -/
def State.portCommand (s : State) (number : Byte) (action : State → Port → State × Result) : State × Result :=
  match portOfNumber number with
  | some p => action s p
  | none => (s, .badValue)

/-! ## Receptions (R9, R62, R117, R146) -/

/-- FRAME_RECEPTION_START (R117): a reception begins on a port that is UP or PROVING; elsewhere the frame is not received. -/
def execFrameReceptionStart (p : Port) (s : State) : Host.Outcome State Fault Refusal :=
  .next (if s.inService p then s.modPort p (fun u => { u with underWay := true }) else s)

/-- The reception under way ends whole: "frames in" adds one and the frame goes to the receive store (R9, R62, R146). -/
def State.receive (s : State) (p : Port) (frame : List Byte) : State :=
  s.modPort p (fun u =>
    { u with
      underWay := false
      counters := { u.counters with framesIn := bump u.counters.framesIn }
      store := u.store ++ [{ bytes := frame, arrival := s.bayClock, inProving := u.state == .proving, maxFrame := s.settings.maxFrame }] })

/-- FRAME_RECEPTION (R146): a frame's reception ends. A frame whose reception did not begin while the port was UP or PROVING, or
under which the port left them, is discarded without a count (R9, R62, R117). -/
def execFrameReception (p : Port) (frame : List Byte) (s : State) : Host.Outcome State Fault Refusal :=
  .next (if (s.port p).underWay && s.inService p then s.receive p frame else s)

end Sys2Proof.Machine
end

