-- ==== Sys2Proof/Machine/Window.lean ====
section
/-! DEFINITION. What an arrival does to its record (spec/03): placement, twin list, legs, deadline, mark, state. Also the
bookkeeping of a one-leg record (R69). -/

namespace Sys2Proof.Machine

/-- What a tagged arrival brings to its record (R38, R39): its leg, its tag's sequence, epoch and renewal, its arrival time. -/
structure Arrival where
  leg : LegId
  seq : Word
  epoch : BitVec 4
  renewal : Byte
  time : Time
  deriving DecidableEq, Repr

/-! ## Legs -/

/-- The other leg (R39). -/
def LegId.other : LegId → LegId
  | .a => .b
  | .b => .a

/-- A record's leg. -/
def Record.leg (r : Record) : LegId → Leg
  | .a => r.legA
  | .b => r.legB

/-- The record with another content of one leg. -/
def Record.setLeg (r : Record) (l : LegId) (x : Leg) : Record :=
  match l with
  | .a => { r with legA := x }
  | .b => { r with legB := x }

/-- SUBSCRIBED and ORIGINATED-PAIR records are two-leg records (R20). -/
def Record.twoLeg (r : Record) : Bool := r.config.kind != .originatedSingle

/-- At least one leg is LOST (R29). -/
def Record.someLegLost (r : Record) : Bool := r.legA.status == .lost || r.legB.status == .lost

/-- The statuses of the two legs differ between the records. -/
def legsDiffer (r r' : Record) : Bool := r.legA.status != r'.legA.status || r.legB.status != r'.legB.status

/-- One more twin miss counted against a leg (R51). -/
def RecCounters.countTwinMiss (c : RecCounters) (l : LegId) : RecCounters :=
  match l with
  | .a => { c with twinMissA := bump c.twinMissA }
  | .b => { c with twinMissB := bump c.twinMissB }

/-- The leg after a miss: one more consecutive miss, stopping at 15, and LOST at or above the threshold (R51). -/
def Leg.miss (x : Leg) (threshold : BitVec 4) : Leg :=
  { x with misses := bump x.misses, status := if threshold.toNat ≤ (bump x.misses).toNat then .lost else x.status }

/-- A miss on a leg (R51). -/
def Record.miss (r : Record) (l : LegId) : Record :=
  { r.setLeg l ((r.leg l).miss r.config.missThreshold) with counters := r.counters.countTwinMiss l }

/-- A leg brought to OK, its consecutive misses 0 (R52). -/
def Leg.heal (x : Leg) : Leg := { x with status := .ok, misses := 0 }

/-! ## Placement (R40 to R46) -/

/-- The distance d of a sequence from H (R40). -/
def Record.distance (r : Record) (seq : Word) : Nat := (seq - r.highest).toNat

/-- The index of a sequence in the window, 0 for H: how far it lies at or behind H. -/
def Record.behind (r : Record) (seq : Word) : Nat := (r.highest - seq).toNat

/-- The sequence is marked seen (R40). -/
def Record.marked (r : Record) (seq : Word) : Bool := decide (r.behind seq < 64) && r.seen.getLsbD (r.behind seq)

/-- The distance is too far to be placed (R40). -/
def wildDistance (d : Nat) : Bool := decide (1025 ≤ d) && decide (d ≤ 65472)

/-- The arrival resynchronises the window (R41). -/
def Record.resyncs (r : Record) (x : Arrival) : Bool :=
  r.state == .armed || r.noHighest || x.epoch != r.epoch
    || (r.state == .silent && !(x.epoch == r.epoch && r.marked x.seq))
    || (wildDistance (r.distance x.seq) && r.wildCount == 3)

/-- The outcomes of placement (R41, R43). -/
inductive Placement
  | resync
  | advance
  | atTop
  | late
  | duplicate
  | wild
  deriving DecidableEq, Repr

/-- The arrival is accepted as a first copy (R42, R43, R45). -/
def Placement.accepted : Placement → Bool
  | .resync => true
  | .advance => true
  | .atTop => true
  | .late => true
  | .duplicate => false
  | .wild => false

/-- Where placement puts an arrival (R41, R43). -/
def Record.place (r : Record) (x : Arrival) : Placement :=
  let d := r.distance x.seq
  if r.resyncs x then .resync
  else if d = 0 then (if r.marked x.seq then .duplicate else .atTop)
  else if d ≤ 1024 then .advance
  else if d ≤ 65472 then .wild
  else if r.marked x.seq then .duplicate
  else .late

/-- The unmarked positions that an advance of `d` pushes out: of H−63 up to H−63+k−1, k the smaller of d and 64 (R44). -/
def pushedOut (seen : BitVec 64) (d : Nat) : Nat :=
  ((List.range (min d 64)).filter (fun j => !seen.getLsbD (63 - j))).length

/-- The sequence numbers that an advance of `d` counts as missed: those pushed out and those that never enter (R44). -/
def missedBy (seen : BitVec 64) (d : Nat) : Nat := pushedOut seen d + (d - 64)

/-- The placement stage (R42 to R46). -/
def Record.applyPlacement (r : Record) (x : Arrival) : Placement → Record
  | .resync =>
    { r with
      seen := 0, highest := x.seq, epoch := x.epoch, noHighest := false, wildCount := 0, twins := []
      counters := { r.counters with resyncs := bump r.counters.resyncs, accepted := bump r.counters.accepted } }
  | .advance =>
    { r with
      highest := x.seq, seen := r.seen <<< r.distance x.seq, wildCount := 0
      counters := { r.counters with
        accepted := bump r.counters.accepted
        missed := bumpBy r.counters.missed (missedBy r.seen (r.distance x.seq)) } }
  | .atTop => { r with wildCount := 0, counters := { r.counters with accepted := bump r.counters.accepted } }
  | .late =>
    { r with
      wildCount := 0
      counters := { r.counters with accepted := bump r.counters.accepted, lateFirst := bump r.counters.lateFirst } }
  | .duplicate => { r with wildCount := 0, counters := { r.counters with duplicates := bump r.counters.duplicates } }
  | .wild => { r with wildCount := r.wildCount + 1, counters := { r.counters with wild := bump r.counters.wild } }

/-! ## Twins and legs (R47 to R52) -/

/-- The entry of a sequence, if the list holds one. -/
def Record.twinFor (r : Record) (seq : Word) : Option TwinEntry := r.twins.find? (fun e => e.seq == seq)

/-- The entry of a sequence is removed. -/
def Record.dropTwin (r : Record) (seq : Word) : Record := { r with twins := r.twins.filter (fun e => e.seq != seq) }

/-- The entry a first copy makes: awaiting the other leg until the twin window has gone by (R47). -/
def Record.newTwin (r : Record) (x : Arrival) : TwinEntry :=
  { seq := x.seq, awaits := x.leg.other, deadline := x.time + BitVec.ofNat 32 (100 * r.config.twinWindow.toNat) }

/-- An entry appended at the end. -/
def Record.appendTwin (r : Record) (e : TwinEntry) : Record := { r with twins := r.twins ++ [e] }

/-- Room for a new entry: on a list of 4 the oldest is removed and counts a miss on its awaited leg (R50). -/
def Record.makeRoom (r : Record) : Record :=
  match r.twins with
  | [] => r
  | oldest :: rest => if 4 ≤ r.twins.length then { r with twins := rest }.miss oldest.awaits else r

/-- A first copy's leg: the arrival time, consecutive misses 0, status OK (R48). -/
def Record.hearFirst (r : Record) (x : Arrival) : Record :=
  r.setLeg x.leg { lastArrival := x.time, status := .ok, misses := 0 }

/-- A first copy and the twin list (R48). -/
def Record.pairFirst (r : Record) (x : Arrival) : Record :=
  match r.twinFor x.seq with
  | none => r.makeRoom.appendTwin (r.newTwin x)
  | some e => if e.awaits = x.leg then r.dropTwin x.seq else (r.dropTwin x.seq).appendTwin (r.newTwin x)

/-- A duplicate's leg: the arrival time alone (R49). -/
def Record.hearAgain (r : Record) (x : Arrival) : Record :=
  r.setLeg x.leg { r.leg x.leg with lastArrival := x.time }

/-- The duplicate is an echo: its sequence is awaited on the other leg (R49). -/
def Record.isEcho (r : Record) (x : Arrival) : Bool :=
  match r.twinFor x.seq with
  | some e => e.awaits != x.leg
  | none => false

/-- A duplicate and the twin list (R49). -/
def Record.pairAgain (r : Record) (x : Arrival) : Record :=
  match r.twinFor x.seq with
  | some e =>
    if e.awaits = x.leg then (r.dropTwin x.seq).setLeg x.leg (r.leg x.leg).heal
    else { r with counters := { r.counters with echo := bump r.counters.echo } }
  | none => { r with counters := { r.counters with unmatched := bump r.counters.unmatched } }

/-! ## Deadline (R53) -/

/-- The renewal interval in milliseconds: the tag's renewal when it is 1..255 and not above the limit, else the limit (R53). -/
def renewalInterval (renewal : Byte) (limit : Word) : Nat :=
  if renewal = 0 ∨ limit.toNat < renewal.toNat then limit.toNat else renewal.toNat

/-- The deadline set, running (R53). -/
def Record.setDeadline (r : Record) (arrival : Time) (ms : Nat) : Record :=
  { r with deadline := arrival + milliseconds ms, running := true }

/-! ## Stages 1 to 3, 5 and 6 of R38 -/

/-- The outcome of stages 1 to 3: the record, where the arrival was placed, whether it changed a leg's status on its way (log 20),
and whether it was an echo. -/
structure Stage3 where
  record : Record
  placement : Placement
  legChange : Bool
  echo : Bool
  deriving DecidableEq, Repr

/-- Stages 1 to 3 of R38. -/
def Record.stages123 (r : Record) (x : Arrival) : Stage3 :=
  let p := r.place x
  let r1 := r.applyPlacement x p
  match p with
  | .wild => { record := r1, placement := p, legChange := false, echo := false }
  | .duplicate =>
    let r2 := r1.hearAgain x
    let r3 := r2.pairAgain x
    { record := r3, placement := p, legChange := legsDiffer r1 r3, echo := r2.isEcho x }
  | .resync | .advance | .atTop | .late =>
    let r2 := r1.hearFirst x
    let r3 := r2.pairFirst x
    { record := r3.setDeadline x.time (renewalInterval x.renewal r3.config.renewalLimit), placement := p,
      legChange := legsDiffer r1 r2 || legsDiffer r2 r3, echo := false }

/-- The sequence is marked seen (R58). -/
def Record.mark (r : Record) (seq : Word) : Record := { r with seen := r.seen ||| (1#64 <<< r.behind seq) }

/-- "refused" adds one (R58). -/
def Record.refuse (r : Record) : Record := { r with counters := { r.counters with refused := bump r.counters.refused } }

/-- "injected" adds one (R68, R74). -/
def Record.inject (r : Record) : Record := { r with counters := { r.counters with injected := bump r.counters.injected } }

/-- Stage 5 for an accepted first copy that had `wanted` copies to make, of which `got` were enqueued, `injected` of them onto
lanes (R58, R59, R74). -/
def Record.settle (r : Record) (seq : Word) (wanted got injected : Nat) : Record :=
  let t := if wanted = 0 ∨ 0 < got then r.mark seq else r.refuse
  if 0 < injected then t.inject else t

/-- The state the leg statuses give: a two-leg record with a leg LOST is SINGLE, any other LIVE (R29). -/
def Record.stateAnew (r : Record) : RecState := if r.twoLeg && r.someLegLost then .single else .live

/-- The state after a grant that changed a leg's status or accepted a frame (R29). -/
def Record.stateAfter (r : Record) (legChange accepted : Bool) : RecState :=
  match r.state with
  | .live => if legChange then r.stateAnew else .live
  | .single => if legChange then r.stateAnew else .single
  | .armed => if accepted then r.stateAnew else .armed
  | .silent => if accepted then r.stateAnew else .silent
  | .free => .free
  | .retiring => .retiring

/-- An arrival puts its record in the attention set (R60). -/
def joinsAttention (before : Record) (r : Record) (o : Stage3) : Bool :=
  r.state != before.state || o.legChange || o.placement == .resync || (o.echo && !before.echoNoted)

/-- Stage 6 of R38: the state, the echo-noted mark and the place in the attention set. -/
def Record.stage6 (r : Record) (before : Record) (o : Stage3) : Record :=
  let t := { r with state := r.stateAfter o.legChange o.placement.accepted }
  { t with
    inAttention := t.inAttention || joinsAttention before t o
    echoNoted := t.echoNoted || o.echo }

/-! ## A one-leg record's bookkeeping (R69) -/

/-- The leg, the deadline and "accepted" of an ORIGINATED-SINGLE record that takes a frame (R68, R69). -/
def Record.takeFrame (r : Record) (arrival : Time) : Record :=
  { r with
    legA := { lastArrival := arrival, status := .ok, misses := r.legA.misses }
    counters := { r.counters with accepted := bump r.counters.accepted } }.setDeadline arrival r.config.renewalLimit.toNat

/-- The state and the place in the attention set of an ORIGINATED-SINGLE record that has taken a frame (R69). -/
def Record.settleSingle (r : Record) (before : Record) : Record :=
  let st := r.stateAfter (legsDiffer before r) true
  { r with state := st, inAttention := r.inAttention || (st != before.state || legsDiffer before r) }

end Sys2Proof.Machine
end

