-- ==== Sys2Proof/Machine/Intake.lean ====
section
/-! DEFINITION. The intakes and the forwarding unit (spec/01, spec/04): lane and bay intake, lookups, pattern searches, copies. -/

namespace Sys2Proof.Machine

/-! ## Settling frames (R9, R62, R146) -/

/-- The frame the intake has settled leaves the receive store, and its claim with it (R146). -/
def PortUnit.settled (u : PortUnit) : PortUnit := { u with store := u.store.drop 1, claim := none }

/-- The intake of a port has settled its frame. -/
def State.settleFrame (s : State) (p : Port) : State := s.modPort p PortUnit.settled

/-- The frame is discarded and counted. -/
def State.discard (s : State) (p : Port) (f : PortCounters → PortCounters) : State := (s.settleFrame p).count p f

/-- The intake claims the table arbiter for its frame (R31). -/
def State.claimTable (s : State) (p : Port) (c : IntakeClaim) : State := s.modPort p (fun u => { u with claim := some c })

/-- The frame the port's intake takes next: none while the port takes no frames (log 15), while the intake waits for a grant, or
when the store is empty (R9, R62). -/
def State.nextFrame (s : State) (p : Port) : Option RxFrame :=
  if s.inService p && (s.port p).claim.isNone then (s.port p).store.head? else none

/-! ## Counter events -/

/-- "FCS/length errors" (R10, R63). -/
def PortCounters.fcsError (c : PortCounters) : PortCounters := { c with fcsErrors := bump c.fcsErrors }

/-- "tag errors" (R11, R71). -/
def PortCounters.tagError (c : PortCounters) : PortCounters := { c with tagErrors := bump c.tagErrors }

/-- "untagged on lane" (R11, R71). -/
def PortCounters.untaggedFrame (c : PortCounters) : PortCounters := { c with untagged := bump c.untagged }

/-- "unexpected tag" (R64, R71). -/
def PortCounters.unexpected (c : PortCounters) : PortCounters := { c with unexpectedTag := bump c.unexpectedTag }

/-- "unclaimed" (R64, R71). -/
def PortCounters.noRecord (c : PortCounters) : PortCounters := { c with unclaimed := bump c.unclaimed }

/-- "returned" (R13). -/
def PortCounters.cameHome (c : PortCounters) : PortCounters := { c with returned := bump c.returned }

/-- "hop-expired" (R15). -/
def PortCounters.expired (c : PortCounters) : PortCounters := { c with hopExpired := bump c.hopExpired }

/-! ## Copies of a lane frame (R14, R17) -/

/-- The transit copy of a lane frame, when its hops left is 1 or more and the other lane is UP (R14). -/
def State.transitCopies (s : State) (l : Lane) (frame : List Byte) : List Copy :=
  let hops := (tagOf frame).hops
  if hops ≠ 0 ∧ s.isUp (.lane l.other) then
    [{ port := .lane l.other, form := .hopsRewritten (hops - 1), handle := none, role := .transit }]
  else []

/-- A lane frame with no copies but its transit copy goes to the buffer manager (R17). -/
def State.sendTransit (s : State) (l : Lane) (frame : List Byte) : State :=
  (s.requestAdmission frame (tagOf frame).cls.dataClass (s.transitCopies l frame) [.lane l]).1

/-! ## Lane intake (R9 to R16, R127, R128) -/

/-- The reflection of a proving frame, made while its arrival lane is UP or PROVING (R117, R127). -/
def State.reflect (s : State) (l : Lane) (frame : List Byte) : State :=
  if s.inService (.lane l) then
    (s.requestAdmission frame .trip
      [{ port := .lane l, form := .hopsRewritten 0, handle := none, role := .reflection }] [.lane l]).1
  else s

/-- An own proving frame comes home on a lane in PROVING (R128). -/
def ProvingRecord.countReturn (r : ProvingRecord) (arrival : Time) (frame : List Byte) : ProvingRecord :=
  let trip := arrival - timeAt frame 23
  { r with returned := bump r.returned, lastTrip := trip, longestTrip := if r.longestTrip < trip then trip else r.longestTrip }

/-- Step 4 for a proving frame (R12, R127, R128). Whether the lane is in PROVING is judged as its reception ended (R9; log 16), and
a return counts in the record of the session that is running when the intake takes it (DESIGN CHOICE, log 36). -/
def State.provingArrival (s : State) (l : Lane) (f : RxFrame) : State :=
  let tag := tagOf f.bytes
  if s.settings.node = 0 then s
  else if tag.origin.toNat = s.settings.node.toNat then
    if tag.hops = 0 ∧ f.inProving then s.modProving l (fun r => r.countReturn f.arrival f.bytes) else s
  else if tag.hops = 0 then s
  else s.reflect l f.bytes

/-- Step 5: a frame whose origin is in the own-origin set is removed (R13). -/
def State.removeFrame (s : State) (l : Lane) (f : RxFrame) : State :=
  let tag := tagOf f.bytes
  if tag.stream = probeStream ∧ tag.origin.toNat = s.settings.node.toNat then s.probeReturn l f.bytes
  else s.count (.lane l) PortCounters.cameHome

/-- Step 6: transit and consumption (R14 to R16). A data frame on a node with a number claims a lookup and waits for its grant;
any other frame is settled here. -/
def State.laneStep6 (s : State) (l : Lane) (f : RxFrame) : State :=
  let tag := tagOf f.bytes
  let t := if tag.hops = 0 then s.count (.lane l) PortCounters.expired else s
  if tag.stream = probeStream then ((t.settleFrame (.lane l)).hearProbe l f.arrival f.bytes).sendTransit l f.bytes
  else if s.settings.node = 0 then (t.settleFrame (.lane l)).sendTransit l f.bytes
  else t.claimTable (.lane l) .lookup

/-- The lane intake's steps 1 to 6 on the frame it takes (R9 to R16). -/
def State.laneSteps (s : State) (l : Lane) (f : RxFrame) : State :=
  let p : Port := .lane l
  let tag := tagOf f.bytes
  if !lengthAndFcsPass f.bytes f.maxFrame.toNat then s.discard p PortCounters.fcsError
  else if !isTagged s.settings.tagType f.bytes then s.discard p PortCounters.untaggedFrame
  else if !tagValid f.bytes then s.discard p PortCounters.tagError
  else if tag.stream = provingStream then (s.settleFrame p).provingArrival l f
  else if f.inProving then s.settleFrame p
  else if s.settings.ownOrigin tag.origin.toNat then (s.settleFrame p).removeFrame l f
  else s.laneStep6 l f

/-- LANE_INTAKE (R9). With no frame to take there is no occasion (log 2). -/
def execLaneIntake (l : Lane) (s : State) : Host.Outcome State Fault Refusal :=
  match s.nextFrame (.lane l) with
  | some f => .next (s.laneSteps l f)
  | none => .next s

/-! ## Bay intake (R62 to R64, R71) -/

/-- The path of an unpaired port (R63, R64). -/
def State.unpairedSteps (s : State) (p : BayPort) (f : RxFrame) : State :=
  if !lengthAndFcsPass f.bytes (f.maxFrame.toNat - 10) then s.discard (.bay p) PortCounters.fcsError
  else if isTagged s.settings.tagType f.bytes then s.discard (.bay p) PortCounters.unexpected
  else if s.settings.node = 0 then s.discard (.bay p) PortCounters.noRecord
  else s.claimTable (.bay p) .search

/-- The path of a port of an enabled pair (R63, R71). -/
def State.pairedSteps (s : State) (p : BayPort) (f : RxFrame) : State :=
  let tag := tagOf f.bytes
  if !lengthAndFcsPass f.bytes f.maxFrame.toNat then s.discard (.bay p) PortCounters.fcsError
  else if !isTagged s.settings.tagType f.bytes then s.discard (.bay p) PortCounters.untaggedFrame
  else if !tagValid f.bytes then s.discard (.bay p) PortCounters.tagError
  else if tag.cls = .probe then s.discard (.bay p) PortCounters.unexpected
  else if tag.origin.toNat ≠ (s.settings.attached p.pair).toNat then s.discard (.bay p) PortCounters.unexpected
  else if s.settings.node = 0 then s.discard (.bay p) PortCounters.noRecord
  else s.claimTable (.bay p) .lookup

/-- BAY_INTAKE (R62). With no frame to take there is no occasion (log 2). -/
def execBayIntake (p : BayPort) (s : State) : Host.Outcome State Fault Refusal :=
  match s.nextFrame (.bay p) with
  | some f => .next (if s.settings.paired p then s.pairedSteps p f else s.unpairedSteps p f)
  | none => .next s

/-! ## Delivery and injection copies (R55, R56, R67, R73) -/

/-- The form of a delivery copy of a tagged frame: tagged to a port of an enabled pair, else untagged (R56). -/
def State.deliveryForm (s : State) (p : BayPort) : Form := if s.settings.paired p then .asStored else .tagRemoved

/-- The delivery copies of a record: one on each UP port of its delivery set that is not struck from it (R55, R67, R73). -/
def State.deliveryCopies (s : State) (h : Nat) (c : StreamConfig) (struck : BayPort → Bool) : List Copy :=
  (bayPorts.filter (fun p => c.delivery.getLsbD p.index && !struck p && s.isUp (.bay p))).map
    (fun p => { port := .bay p, form := s.deliveryForm p, handle := some h, role := .delivery })

/-- The injection copies of a record: one on each UP lane (R67, R73). -/
def State.injectionCopies (s : State) (h : Nat) (form : Form) : List Copy :=
  s.upLanes.map (fun p => { port := p, form := form, handle := some h, role := .injection })

/-- The copy carries a handle. -/
def Copy.carriesHandle (c : Copy) : Bool := c.handle.isSome

/-- The copy is an injection copy. -/
def Copy.isInjection (c : Copy) : Bool := c.role == .injection

/-! ## Lookup by key (R34, R38) -/

/-- A record that holds the key, in a state that lookup searches (R21, R34). -/
def Record.holds (r : Record) (origin : BitVec 6) (stream : BitVec 14) : Bool :=
  r.state.occupied && r.config.origin == origin && r.config.stream == stream

/-- The handle of the record holding a key (R34). -/
def State.findKey (s : State) (origin : BitVec 6) (stream : BitVec 14) : Option Nat :=
  (s.table.find? (fun e => e.2.holds origin stream)).map (·.1)

/-- The leg a tagged arrival comes on, by its port (R39). -/
def legOfPort : Port → LegId
  | .lane .a => .a
  | .lane .b => .b
  | .bay .p0 => .a
  | .bay .p1 => .b
  | .bay .p2 => .a
  | .bay .p3 => .b

/-- What a taken frame brings to a record (R38, R39). -/
def arrivalOf (p : Port) (f : RxFrame) : Arrival :=
  let tag := tagOf f.bytes
  { leg := legOfPort p, seq := tag.seq, epoch := tag.epoch, renewal := tag.renewal, time := f.arrival }

/-- The arrival of a tagged frame handled whole on the record of handle `h` (R38): `always` are the copies it has whatever the
record says (its transit copy), `own` those of a first copy on an unheld record. -/
def State.handleArrival (s : State) (h : Nat) (p : Port) (f : RxFrame) (always own : List Copy) : State :=
  let r := s.record h
  let x := arrivalOf p f
  let o := r.stages123 x
  let mine := if o.placement.accepted && !r.held then own else []
  let copies := always ++ mine
  let answer := s.requestAdmission f.bytes (tagOf f.bytes).cls.dataClass copies [p]
  let got := answeredEnqueued Copy.carriesHandle copies answer.2
  let injected := answeredEnqueued Copy.isInjection copies answer.2
  let r5 := if o.placement.accepted then o.record.settle x.seq mine.length got injected else o.record
  let r6 := r5.stage6 r o
  (answer.1.putRecord h r6).raiseIf (joinsAttention r r6 o) .attention

/-- What a lane's arrival is on the record its key has found: taken by a SUBSCRIBED record, else treated as no record (R16, R34). NODE
was asked as the lookup was claimed and is not asked again at the grant (DESIGN CHOICE, log 34). -/
def State.laneLookup (s : State) (l : Lane) (f : RxFrame) : State :=
  let tag := tagOf f.bytes
  match s.findKey tag.origin tag.stream with
  | some h =>
    if (s.record h).config.kind = .subscribed then
      s.handleArrival h (.lane l) f (s.transitCopies l f.bytes)
        (s.deliveryCopies h (s.record h).config (fun _ => false))
    else s.sendTransit l f.bytes
  | none => s.sendTransit l f.bytes

/-- A record of the pair: ORIGINATED-PAIR with the pair's leg mode (R34). -/
def StreamConfig.isPair (c : StreamConfig) (k : Pair) : Bool := c.kind == .originatedPair && c.legMode == .pair k

/-- What a pair port's arrival is on the record its key has found: taken by the pair's own record, else "unclaimed" (R34, R72). NODE
is not asked again at the grant (DESIGN CHOICE, log 34), nor are PAIR ENABLE and ATTACHED NODE (DESIGN CHOICE, log 39). -/
def State.pairLookup (s : State) (p : BayPort) (f : RxFrame) : State :=
  let tag := tagOf f.bytes
  match s.findKey tag.origin tag.stream with
  | some h =>
    if (s.record h).config.isPair p.pair then
      s.handleArrival h (.bay p) f []
        (s.injectionCopies h (.hopsRewritten (s.settings.hopLimit.extractLsb' 0 6))
          ++ s.deliveryCopies h (s.record h).config (fun q => q.pair == p.pair))
    else s.count (.bay p) PortCounters.noRecord
  | none => s.count (.bay p) PortCounters.noRecord

/-- The lookup of a port's frame (R34). -/
def State.lookupOn (s : State) (p : Port) (f : RxFrame) : State :=
  match p with
  | .lane l => s.laneLookup l f
  | .bay q => s.pairLookup q f

/-- LOOKUP_BY_KEY (R34): the arbiter grants the lookup of this port's intake. Out of its turn there is no occasion (log 2, log 3). A
claim made before NODE was written 0 is granted and handled as any other (DESIGN CHOICE, log 34), and so is one made before the port's
pairing was changed (DESIGN CHOICE, log 39). -/
def execLookupByKey (p : Port) (s : State) : Host.Outcome State Fault Refusal :=
  match (s.port p).store.head? with
  | some f => .next (if s.granted p .lookup then ((s.settleFrame p).rotate p).lookupOn p f else s)
  | none => .next s

/-! ## Pattern search and single origination (R35, R36, R65 to R70) -/

/-- The frame's destination address agrees with the record's, but for bit 1 of its first byte when that is ignored (R25, R35). -/
def StreamConfig.destMatches (c : StreamConfig) (dest : BitVec 48) : Bool :=
  let ignored : BitVec 48 := if c.ignoreLocal then 0x020000000000 else 0
  (dest ||| ignored) == (c.dest ||| ignored)

/-- The record matches the untagged frame on the port (R35). -/
def Record.matches (r : Record) (p : BayPort) (frame : List Byte) : Bool :=
  let c := r.config
  r.state.occupied && c.kind == .originatedSingle && c.legMode == .single p
    && (!c.matchPresent
      || (c.destMatches (addressAt frame 0) && typeWordOf frame == c.frameType
        && (c.appTag == 0 || wordAt frame 14 == c.appTag)))

/-- The lowest handle whose record matches (R36). -/
def State.findPattern (s : State) (p : BayPort) (frame : List Byte) : Option Nat :=
  (s.table.find? (fun e => e.2.matches p frame)).map (·.1)

/-- The tag a record writes into a frame (R65). -/
def State.tagFor (s : State) (r : Record) : Tag :=
  { cls := tagClassOf r.config.cls, origin := r.config.origin, hops := s.settings.hopLimit.extractLsb' 0 6,
    epoch := s.settings.epoch.extractLsb' 0 4, stream := r.config.stream, seq := r.sendCounter,
    renewal := if r.config.announcedPresent then r.config.announced else 0 }

/-- The copies of a frame a record has tagged (R67). -/
def State.originationCopies (s : State) (h : Nat) (c : StreamConfig) (p : BayPort) : List Copy :=
  s.injectionCopies h .asStored ++ s.deliveryCopies h c (fun q => q == p)

/-- "refused" and "injected" of a single origination (R68). -/
def Record.settleOrigination (r : Record) (wanted got injected : Nat) : Record :=
  let t := if wanted ≠ 0 ∧ got = 0 then r.refuse else r
  if 0 < injected then t.inject else t

/-- A frame taken by the ORIGINATED-SINGLE record of handle `h`: tagged, sent and counted when the record is not held (R65 to R69);
bookkeeping alone when it is held (R70). NODE is not asked again at the grant of its search (DESIGN CHOICE, log 34). -/
def State.originate (s : State) (h : Nat) (p : BayPort) (f : RxFrame) : State :=
  let r := s.record h
  let taken := r.takeFrame f.arrival
  if r.held then
    let r' := taken.settleSingle r
    (s.putRecord h r').raiseIf (r'.state != r.state || legsDiffer r r') .attention
  else
    let copies := s.originationCopies h r.config p
    let frame := insertTag s.settings.tagType (s.tagFor r) f.bytes
    let answer := s.requestAdmission frame r.config.cls copies [.bay p]
    let got := answeredEnqueued Copy.carriesHandle copies answer.2
    let injected := answeredEnqueued Copy.isInjection copies answer.2
    let r1 := { taken with sendCounter := taken.sendCounter + 1 }.settleOrigination copies.length got injected
    let r' := r1.settleSingle r
    (answer.1.putRecord h r').raiseIf (r'.state != r.state || legsDiffer r r') .attention

/-- The pattern search of a port's frame (R36). The port's pairing is not asked again: a frame taken while the port was unpaired is compared
and originated though its pair has been enabled since (DESIGN CHOICE, log 39). -/
def State.searchOn (s : State) (p : BayPort) (f : RxFrame) : State :=
  match s.findPattern p f.bytes with
  | some h => s.originate h p f
  | none => s.count (.bay p) PortCounters.noRecord

/-- PATTERN_SEARCH (R36): the arbiter grants the search of this port's intake. Out of its turn there is no occasion (log 2, log 3). A
claim made before NODE was written 0 is granted and handled as any other (DESIGN CHOICE, log 34), and so is one made before the port's
pair was enabled (DESIGN CHOICE, log 39). -/
def execPatternSearch (p : BayPort) (s : State) : Host.Outcome State Fault Refusal :=
  match (s.port (.bay p)).store.head? with
  | some f => .next (if s.granted (.bay p) .search then ((s.settleFrame (.bay p)).rotate (.bay p)).searchOn p f else s)
  | none => .next s

end Sys2Proof.Machine
end

