-- ==== Sys2Proof/Machine/Operands.lean ====
section
/-! DEFINITION. The record images: the staging image as a configuration (R94, R95, R179), the judgement of R22 and R23, and the
view image (R105, 12.3). -/

namespace Sys2Proof.Machine

/-! ## The staging image (12.3) -/

/-- The kind a code names; 3 is out of range (12.3, R178). -/
def kindOfCode (code : BitVec 2) : Option Kind :=
  if code = 0 then some .subscribed else if code = 1 then some .originatedSingle
  else if code = 2 then some .originatedPair else none

/-- The leg mode a code names; 7 is out of range (12.3, R178). -/
def legModeOfCode (code : BitVec 3) : Option LegMode :=
  if code = 0 then some .ring else if code = 1 then some (.single .p0) else if code = 2 then some (.single .p1)
  else if code = 3 then some (.single .p2) else if code = 4 then some (.single .p3)
  else if code = 5 then some (.pair .pair0) else if code = 6 then some (.pair .pair1) else none

/-- The class a code names; PROBE is out of range (12.3). -/
def classOfCode (code : BitVec 2) : Option DataClass :=
  if code = 0 then some .trip else if code = 1 then some .sample else if code = 2 then some .status else none

/-- The code of a leg mode (12.3). -/
def LegMode.code : LegMode → BitVec 3
  | .ring => 0
  | .single .p0 => 1
  | .single .p1 => 2
  | .single .p2 => 3
  | .single .p3 => 4
  | .pair .pair0 => 5
  | .pair .pair1 => 6

/-- The configuration a staging image spells, the fields that R95 leaves unjudged for its kind stored as 0 (R22, R179); none
when its kind, leg mode, class or stream number is out of range. The presence marks are kept for every kind, so that R23 judges
them. On ORIGINATED-SINGLE the match part bytes are kept as staged (log 25). -/
def readConfig (image : List Byte) : Option StreamConfig :=
  let b0 := byteAt image 0
  let b1 := byteAt image 1
  let b4 := byteAt image 4
  match kindOfCode (b0.extractLsb' 6 2), legModeOfCode (b0.extractLsb' 3 3), classOfCode (b1.extractLsb' 6 2) with
  | some kind, some legMode, some cls =>
    if 16381 < (wordAt image 2).toNat then none
    else
      let oneLeg := kind == .originatedSingle
      some {
        kind := kind, legMode := legMode, cls := cls, origin := b1.extractLsb' 0 6,
        stream := (wordAt image 2).extractLsb' 0 14, delivery := b4.extractLsb' 4 4,
        missThreshold := if oneLeg then 0 else b4.extractLsb' 0 4,
        renewalLimit := wordAt image 5,
        twinWindow := if oneLeg then 0 else byteAt image 7,
        matchPresent := b0.getLsbD 2,
        ignoreLocal := oneLeg && b0.getLsbD 1,
        dest := if oneLeg then addressAt image 8 else 0,
        frameType := if oneLeg then wordAt image 14 else 0,
        appTag := if oneLeg then wordAt image 16 else 0,
        announcedPresent := b0.getLsbD 0,
        announced := if oneLeg && b0.getLsbD 0 then byteAt image 7 else 0 }
  | _, _, _ => none

/-! ## Well-formedness (R22, R23) -/

/-- The fields lie in their ranges by R22. Kind, leg mode, class and stream number were judged when the image was read. -/
def StreamConfig.inRange (c : StreamConfig) : Bool :=
  decide (1 ≤ c.origin.toNat) && decide (c.origin.toNat ≤ 60)
    && decide (1 ≤ c.renewalLimit.toNat) && decide (c.renewalLimit.toNat ≤ 10000)
    && (c.kind == .originatedSingle || (decide (1 ≤ c.twinWindow.toNat) && decide (1 ≤ c.missThreshold.toNat)))

/-- Kind and leg mode agree (R20), and the kind's own conditions of R23 hold under the settings. -/
def StreamConfig.kindOk (v : Settings) (c : StreamConfig) : Bool :=
  match c.kind, c.legMode with
  | .subscribed, .ring => !v.ownOrigin c.origin.toNat
  | .originatedSingle, .single p => v.node != 0 && c.origin.toNat == v.node.toNat && !v.paired p
  | .originatedPair, .pair k => v.pairEnabled k && v.attached k != 0 && c.origin.toNat == (v.attached k).toNat
  | _, _ => false

/-- For an enabled pair the delivery set names both of its ports or neither (R23). -/
def StreamConfig.deliveryOk (v : Settings) (c : StreamConfig) (k : Pair) : Bool :=
  !v.pairEnabled k || (c.delivery.getLsbD k.first.index == c.delivery.getLsbD k.second.index)

/-- The configuration is well-formed under the settings (R23). -/
def StreamConfig.wellFormed (v : Settings) (c : StreamConfig) : Bool :=
  c.inRange && c.kindOk v && c.deliveryOk v .pair0 && c.deliveryOk v .pair1
    && (c.kind == .originatedSingle || (!c.matchPresent && !c.announcedPresent))

/-- The configuration a staging image presents, when it is well-formed (R22, R23). -/
def presented (v : Settings) (image : List Byte) : Option StreamConfig :=
  match readConfig image with
  | some c => if c.wellFormed v then some c else none
  | none => none

/-! ## The view image (12.3) -/

/-- The 18 bytes of a configuration (12.3). -/
def configBytes (c : StreamConfig) : List Byte :=
  [c.kind.code ++ c.legMode.code ++ BitVec.ofBool c.matchPresent ++ BitVec.ofBool c.ignoreLocal
      ++ BitVec.ofBool c.announcedPresent,
    c.cls.code ++ c.origin] ++ wordBytes (c.stream.setWidth 16)
  ++ [c.delivery ++ c.missThreshold] ++ wordBytes c.renewalLimit
  ++ [if c.kind = .originatedSingle then c.announced else c.twinWindow]
  ++ timeBytes (c.dest.extractLsb' 16 32) ++ wordBytes (c.dest.extractLsb' 0 16) ++ wordBytes c.frameType
  ++ wordBytes c.appTag

/-- Byte `26 + j` of a view: the mark of H−i is bit 7−(i mod 8) of byte 26+(i div 8) (12.3). -/
def seenByte (seen : BitVec 64) (j : Nat) : Byte :=
  let m := fun k => BitVec.ofBool (seen.getLsbD (8 * j + k))
  m 0 ++ m 1 ++ m 2 ++ m 3 ++ m 4 ++ m 5 ++ m 6 ++ m 7

/-- A leg's byte in a view (12.3); bits 5–4, which no field names, are sent as 0 (DESIGN CHOICE, log 37). -/
def legByte (l : Leg) : Byte := l.status.code ++ 0#2 ++ l.misses

/-- The awaited-leg code of twin entry `i`, 0 when the place is empty (12.3). -/
def twinCode (twins : List TwinEntry) (i : Nat) : BitVec 2 :=
  match twins[i]? with
  | some e => e.awaits.code
  | none => 0

/-- The six bytes of twin entry `i`, 0 when the place is empty (12.3). -/
def twinBytes (twins : List TwinEntry) (i : Nat) : List Byte :=
  match twins[i]? with
  | some e => wordBytes e.seq ++ timeBytes e.deadline
  | none => List.replicate 6 0

/-- The thirteen counters, two bytes each, in the order of R27 (12.3). -/
def counterBytes (c : RecCounters) : List Byte :=
  [c.accepted, c.duplicates, c.lateFirst, c.missed, c.wild, c.resyncs, c.echo, c.unmatched, c.twinMissA, c.twinMissB,
    c.silences, c.refused, c.injected].flatMap wordBytes

/-- The 96 bytes of the view of handle `h` (12.3). A one-leg record shows its send counter where a two-leg record shows H.
Bit 2 of byte 2, which no field names, is sent as 0 (DESIGN CHOICE, log 37). -/
def viewImage (h : Nat) (r : Record) : List Byte :=
  let head : Word :=
    BitVec.ofNat 9 h ++ r.state.code ++ BitVec.ofBool r.held ++ BitVec.ofBool r.inAttention ++ BitVec.ofBool r.echoNoted
      ++ BitVec.ofBool r.noHighest
  wordBytes head
  ++ [BitVec.ofBool r.running ++ r.epoch ++ 0#1 ++ r.wildCount, legByte r.legA, legByte r.legB,
      twinCode r.twins 0 ++ twinCode r.twins 1 ++ twinCode r.twins 2 ++ twinCode r.twins 3]
  ++ configBytes r.config
  ++ wordBytes (if r.config.kind = .originatedSingle then r.sendCounter else r.highest)
  ++ [0, 1, 2, 3, 4, 5, 6, 7].map (seenByte r.seen)
  ++ [0, 1, 2, 3].flatMap (twinBytes r.twins)
  ++ timeBytes r.legA.lastArrival ++ timeBytes r.legB.lastArrival ++ timeBytes r.deadline ++ counterBytes r.counters

end Sys2Proof.Machine
end

