-- ==== Sys2Proof/Machine/Sweep.lean ====
section
/-! DEFINITION. The supervision sweep (spec/05): periods, passes, visits, overruns. -/

namespace Sys2Proof.Machine

/-! ## Passes (R80, R81, R91) -/

/-- The first handle at or above `h`, of the `n` from `h` on, whose segment SWEEP MASK does not name; 512 when there is none
(R81, R90). Masked handles are passed over at once, so the position stands at a claimed handle (log 23). -/
def Settings.unmaskedAmong (v : Settings) : Nat → Nat → Nat
  | 0, _ => Config.handles
  | n + 1, h => if v.masked h then v.unmaskedAmong n (h + 1) else h

/-- The handle a pass that comes to `h` claims the visit of; 512 when it has dealt with handle 511 (R80, R81). -/
def Settings.nextVisit (v : Settings) (h : Nat) : Nat := v.unmaskedAmong (Config.handles - h) h

/-- A change to the sweep's items. -/
def State.modSweep (s : State) (f : Sweep → Sweep) : State := { s with sweep := f s.sweep }

/-- A pass begins at handle 0 (R80). -/
def State.startPass (s : State) : State := s.modSweep (fun w => { w with position := s.settings.nextVisit 0 })

/-- A pass is running (R78): its position is not 512. -/
def Sweep.running (w : Sweep) : Bool := decide (w.position < Config.handles)

/-- The pass goes on after handle `h`; a pass that ends with a pass owed begins it at once (R80, R91). -/
def State.passOn (s : State) (h : Nat) : State :=
  let t := s.modSweep (fun w => { w with position := s.settings.nextVisit (h + 1) })
  if t.sweep.running then t
  else if t.sweep.passOwed then (t.modSweep (fun w => { w with passOwed := false })).startPass
  else t

/-! ## Periods (R79, R91, R93) -/

/-- The bay-clock time at which the present period ends (R79). -/
def Sweep.periodEnd (w : Sweep) : Time := w.periodStart + w.periodLength

/-- The sweep runs once the image load has ended (R93), and the bay clock has come to the end of the present period (R79). -/
def State.sweepDue (s : State) : Bool := s.ready && hasReached s.bayClock s.sweep.periodEnd

/-- The next period begins where the present one ends, with the length of the code in force (R79). -/
def State.nextPeriod (s : State) : State :=
  s.modSweep (fun w => { w with periodStart := w.periodEnd, periodLength := s.settings.sweepLength })

/-- An overrun (R91). -/
def State.overrun (s : State) : State :=
  (s.modSweep (fun w => { w with passOwed := true, overruns := bump w.overruns })).raise .overrun

/-- A period boundary: a pass begins when none is running, else it is an overrun (R80, R91). -/
def State.sweepBoundary (s : State) : State :=
  if s.sweep.running then s.nextPeriod.overrun else s.nextPeriod.startPass

/-- SWEEP_PERIOD_BOUNDARY (R79). Before the period's end, or with the sweep stopped, there is no occasion (log 2, log 24). -/
def execSweepPeriodBoundary (s : State) : Host.Outcome State Fault Refusal :=
  .next (if s.sweepDue then s.sweepBoundary else s)

/-- The sweep starts at the end of the image load (R93). -/
def State.startSweep (s : State) : State :=
  (s.modSweep (fun w => { w with periodStart := s.bayClock, periodLength := s.settings.sweepLength })).startPass

/-! ## One visit (R82 to R87) -/

/-- Step 1: each lapsed entry is removed and counts a miss on its awaited leg, in list order (R84). -/
def Record.lapseTwins (r : Record) (now : Time) : Record :=
  if r.twoLeg then
    (r.twins.filter (fun e => hasPassed now e.deadline)).foldl (fun t e => t.miss e.awaits)
      { r with twins := r.twins.filter (fun e => !hasPassed now e.deadline) }
  else r

/-- The port on which a leg of a record arrives; none for a leg the record does not have (R85). -/
def LegMode.port : LegMode → LegId → Option Port
  | .ring, .a => some (.lane .a)
  | .ring, .b => some (.lane .b)
  | .single p, .a => some (.bay p)
  | .single _, .b => none
  | .pair k, .a => some (.bay k.first)
  | .pair k, .b => some (.bay k.second)

/-- Step 2 on one leg: it becomes LOST when its port is not UP; its consecutive misses stay (R85). -/
def State.legByPort (s : State) (port : Option Port) (x : Leg) : Leg :=
  match port with
  | some p => if s.isUp p then x else { x with status := .lost }
  | none => x

/-- Step 2 (R85). -/
def State.loseLegs (s : State) (r : Record) : Record :=
  { r with
    legA := s.legByPort (r.config.legMode.port .a) r.legA
    legB := s.legByPort (r.config.legMode.port .b) r.legB }

/-- The state is LIVE or SINGLE: its deadline runs (R26). -/
def RecState.arriving : RecState → Bool
  | .free => false
  | .armed => false
  | .live => true
  | .single => true
  | .silent => false
  | .retiring => false

/-- Step 3: a LIVE or SINGLE record whose deadline has passed becomes SILENT (R86). -/
def Record.judgeDeadline (r : Record) (now : Time) : Record :=
  if r.state.arriving && r.running && hasPassed now r.deadline then
    { r with
      state := .silent, twins := [], running := false
      counters := { r.counters with silences := bump r.counters.silences } }
  else r

/-- Steps 1 to 3 of a visit at the visit time (R82). -/
def State.visitSteps (s : State) (r : Record) : Record := (s.loseLegs (r.lapseTwins s.bayClock)).judgeDeadline s.bayClock

/-- A visit's record before step 4's attention: the state set anew where a leg of a LIVE or SINGLE record changed (R87, R29). -/
def State.visitState (s : State) (r : Record) : Record :=
  let t := s.visitSteps r
  if t.state.arriving && legsDiffer r t then { t with state := t.stateAnew } else t

/-- A visit changed the record's state or a leg's status, for which it joins the attention set (R87). -/
def visitJoins (before after : Record) : Bool := after.state != before.state || legsDiffer before after

/-- The record a visit leaves (R82 to R87). -/
def State.visitRecord (s : State) (r : Record) : Record :=
  let t := s.visitState r
  { t with inAttention := t.inAttention || visitJoins r t }

/-- The visit of handle `h` judges its record when it is ARMED, LIVE, SINGLE or SILENT, and does nothing to any other (R81, R82). -/
def State.visit (s : State) (h : Nat) : State :=
  let r := s.record h
  if r.state.occupied then (s.putRecord h (s.visitRecord r)).raiseIf (visitJoins r (s.visitState r)) .attention
  else s

/-- SWEEP_VISIT (R82): the visit acts, granted now or in hand since the waiting timed operation's claim (R96). Out of its turn there is
no occasion (log 2, log 3, log 35). -/
def execSweepVisit (s : State) : Host.Outcome State Fault Refusal :=
  .next (if s.visitTurn then (s.endInHand.visit s.sweep.position).passOn s.sweep.position else s)

end Sys2Proof.Machine
end

