-- ==== Sys2Proof/Machine/Records.lean ====
section
/-! DEFINITION. The seven timed record operations at their grants (spec/06), and the grant of a tally-zero notice (R30). -/

namespace Sys2Proof.Machine

/-! ## Notices (R30) -/

/-- The notice of handle `h` acts: a RETIRING record with tally 0 becomes FREE, its fields cleared (R30). -/
def State.freeIfDrained (s : State) (h : Nat) : State :=
  if (s.record h).state = .retiring ∧ s.tally h = 0 then s.putRecord h Record.free else s

/-- NOTICE_GRANT (R30): the oldest notice acts, granted now or in hand since a timed operation's claim (R96). Out of its turn
there is no occasion (log 2, log 3, log 35). -/
def execNoticeGrant (s : State) : Host.Outcome State Fault Refusal :=
  match s.noticeTurn with
  | some h => .next (({ s.endInHand with notices := s.notices.drop 1 } : State).freeIfDrained h)
  | none => .next s

/-! ## The life of a timed operation (R96) -/

/-- At the grant the result is written, BUSY ends and DONE is set (R96, R161). It follows any grant in hand (R32). -/
def State.postResult (s : State) (r : Result) : State :=
  ({ s with lastResult := r, inFlight := none, inHand := none } : State).raise .done

/-- The grant of the timed operation in flight, when it is of this kind and its turn has come: the operation answers the state
and the result it gives for the operation's handle and staging copy. Out of its turn there is no occasion (log 2, log 3). -/
def State.grantTimed (s : State) (kind : TimedKind) (op : State → Nat → List Byte → State × Result) : State :=
  match s.inFlight with
  | some o =>
    if s.turn = .timed ∧ o.kind = kind then
      let answer := op s o.handle.toNat o.copy
      answer.1.postResult answer.2
    else s
  | none => s

/-! ## INSTALL (R98, R99) -/

/-- A record as it stands at installation (R26, R99). -/
def Record.installed (c : StreamConfig) : Record := { Record.free with state := .armed, config := c, noHighest := true }

/-- Some record in ARMED, LIVE, SINGLE or SILENT holds the key (R21). -/
def State.keyHeld (s : State) (origin : BitVec 6) (stream : BitVec 14) : Bool := (s.findKey origin stream).isSome

/-- The checks of R98 in order, and the installation of R99. -/
def State.installOp (s : State) (h : Nat) (copy : List Byte) : State × Result :=
  if 511 < h then (s, .noSuchRecord)
  else if s.settings.frozen h then (s, .frozen)
  else if (s.record h).state ≠ .free then (s, .slotTaken)
  else match presented s.settings copy with
    | none => (s, .badValue)
    | some c => if s.keyHeld c.origin c.stream then (s, .keyInUse) else (s.putRecord h (.installed c), .done)

/-- INSTALL_GRANT (R98). -/
def execInstallGrant (s : State) : Host.Outcome State Fault Refusal := .next (s.grantTimed .install State.installOp)

/-! ## AMEND (R100, R101) -/

/-- Kind, leg mode, origin and stream number equal the record's (R100, check 4). -/
def StreamConfig.sameStream (c c' : StreamConfig) : Bool :=
  c.kind == c'.kind && c.legMode == c'.legMode && c.origin == c'.origin && c.stream == c'.stream

/-- The configuration an AMEND's copy presents for a record, when it names the same stream and is well-formed (R100). Both
failures give BAD_VALUE. -/
def State.amendment (s : State) (r : Record) (copy : List Byte) : Option StreamConfig :=
  (presented s.settings copy).filter (fun c => c.sameStream r.config)

/-- The checks of R100 in order, and the replacement of R101. -/
def State.amendOp (s : State) (h : Nat) (copy : List Byte) : State × Result :=
  let r := s.record h
  if 511 < h ∨ r.state = .free then (s, .noSuchRecord)
  else if s.settings.frozen h then (s, .frozen)
  else if r.state = .retiring then (s, .wrongState)
  else match s.amendment r copy with
    | none => (s, .badValue)
    | some c => (s.putRecord h { r with config := c }, .done)

/-- AMEND_GRANT (R100). -/
def execAmendGrant (s : State) : Host.Outcome State Fault Refusal := .next (s.grantTimed .amend State.amendOp)

/-! ## RETIRE (R102) -/

/-- What a RETIRE leaves of a record whose tally is `tally` (R102). -/
def Record.retired (r : Record) (tally : Nat) : Record :=
  if tally = 0 then Record.free
  else { r with state := .retiring, twins := [], running := false, inAttention := false }

/-- The checks of R102 in order, and its effect. -/
def State.retireOp (s : State) (h : Nat) (_copy : List Byte) : State × Result :=
  let r := s.record h
  if 511 < h ∨ r.state = .free then (s, .noSuchRecord)
  else if s.settings.frozen h then (s, .frozen)
  else if r.state = .retiring then (s, .wrongState)
  else (s.putRecord h (r.retired (s.tally h)), .done)

/-- RETIRE_GRANT (R102). -/
def execRetireGrant (s : State) : Host.Outcome State Fault Refusal := .next (s.grantTimed .retire State.retireOp)

/-! ## HOLD and RELEASE (R104) -/

/-- The checks of R104 in order, and the held flag set or cleared. -/
def State.heldOp (held : Bool) (s : State) (h : Nat) (_copy : List Byte) : State × Result :=
  let r := s.record h
  if 511 < h ∨ r.state = .free then (s, .noSuchRecord)
  else if r.state = .retiring then (s, .wrongState)
  else (s.putRecord h { r with held := held }, .done)

/-- HOLD_GRANT (R104). -/
def execHoldGrant (s : State) : Host.Outcome State Fault Refusal := .next (s.grantTimed .hold (State.heldOp true))

/-- RELEASE_GRANT (R104). -/
def execReleaseGrant (s : State) : Host.Outcome State Fault Refusal := .next (s.grantTimed .release (State.heldOp false))

/-! ## Snapshots (R106 to R108) -/

/-- The image of a record is copied into the back view and the views are exchanged (R106). -/
def State.takeView (s : State) (h : Nat) : State :=
  { s with frontView := viewImage h (s.record h), backView := s.frontView }

/-- What a snapshot leaves of an installed record: out of the attention set, its echo-noted mark clear (R106). -/
def Record.seenBySnapshot (r : Record) : Record := { r with inAttention := false, echoNoted := false }

/-- The thirteen counters set to 0 (R107). -/
def Record.clearCounters (r : Record) : Record := { r with counters := RecCounters.zero }

/-- SNAPSHOT and SNAPSHOT CLEAR: the check of R106, the view, and the change to an installed record; a FREE or RETIRING record is
not changed (R108). -/
def State.snapshotOp (change : Record → Record) (s : State) (h : Nat) (_copy : List Byte) : State × Result :=
  let r := s.record h
  if 511 < h then (s, .noSuchRecord)
  else if r.state.occupied then ((s.takeView h).putRecord h (change r), .done)
  else (s.takeView h, .done)

/-- SNAPSHOT_GRANT (R106). -/
def execSnapshotGrant (s : State) : Host.Outcome State Fault Refusal :=
  .next (s.grantTimed .snapshot (State.snapshotOp Record.seenBySnapshot))

/-- SNAPSHOT_CLEAR_GRANT (R107). -/
def execSnapshotClearGrant (s : State) : Host.Outcome State Fault Refusal :=
  .next (s.grantTimed .snapshotClear (State.snapshotOp (fun r => r.seenBySnapshot.clearCounters)))

end Sys2Proof.Machine
end

