-- ==== Sys2Proof/Machine/Loader.lean ====
section
/-! DEFINITION. The three starts and the image loader (spec/11). -/

namespace Sys2Proof.Machine

/-! ## The three starts (R130, R167, R169, R170) -/

/-- The link signal marks as they stand. -/
def State.signals (s : State) : PortMap Bool :=
  ⟨s.ports.laneA.signal, s.ports.laneB.signal, s.ports.p0.signal, s.ports.p1.signal, s.ports.p2.signal, s.ports.p3.signal⟩

/-- Every port at its reset values, each link signal mark as the far end's signal gives it (R130). -/
def portsReset (signal : PortMap Bool) : PortMap PortUnit :=
  ⟨.reset signal.laneA, .reset signal.laneB, .reset signal.p0, .reset signal.p1, .reset signal.p2, .reset signal.p3⟩

/-- The loader at its beginning (R170). While the RESET_N pin is held the load, and with it the bus clear, waits for the pin (R171). -/
def Loader.atStart (held : Bool) : Loader := { Loader.reset with busOut := if held then [] else busClear }

/-- The part started afresh with the RESET_N pin held or not: every block at its reset values, the load at its beginning (R170). The
queue of commands and the count of free values drawn are not the part's to reset (log 4, log 6). -/
def State.freshStart (s : State) (signal : PortMap Bool) (held : Bool) : State :=
  { State.reset with
    pending := s.pending, draws := s.draws, resetHeld := held, ports := portsReset signal, loader := .atStart held }

/-- POWER_ON (R170), with the far ends' signals at that moment (R130; log 5). It does not move the RESET_N pin (log 6). -/
def execPowerOn (signal : PortMap Bool) (s : State) : Host.Outcome State Fault Refusal := .next (s.freshStart signal s.resetHeld)

/-- RESET_N_LOW (R170): the part is held in reset. -/
def execResetNLow (s : State) : Host.Outcome State Fault Refusal :=
  .next (s.freshStart s.signals true)

/-- RESET_N_HIGH (R170): the load begins, the bay clock at 0. With the pin already high there is no occasion (log 2). -/
def execResetNHigh (s : State) : Host.Outcome State Fault Refusal :=
  .next (if s.resetHeld then { s with resetHeld := false, bayClock := 0, loader := .reset } else s)

/-- The settings after FULL RESET: FREEZE and EPOCH are kept (R167). -/
def Settings.afterFullReset (v : Settings) : Settings := { Settings.reset with freeze := v.freeze, epoch := v.epoch }

/-- FULL RESET acts at its frame's end (R167). While RESET_N is held the load that follows stays the pin's (log 6). -/
def State.fullReset (s : State) : State :=
  { s.freshStart s.signals s.resetHeld with
    settings := s.settings.afterFullReset
    loader := { Loader.atStart s.resetHeld with afterFullReset := !s.resetHeld }
    spiOut := [s.statusByte] }

/-- FULL_RESET (R167): taken while the load runs. -/
def execFullReset (s : State) : Host.Outcome State Fault Refusal := .next s.fullReset

/-! ## The parts of the image (R171, 12.5) -/

/-- The number of standing records a header gives (12.5). -/
def recordCount (store : List Byte) : Nat := (wordAt store 4).toNat

/-- The size of the part of the image whose transfer comes next, by what the load store holds (R171, 12.5). -/
def partSize (store : List Byte) : Nat :=
  if store.length < 8 then 8
  else if store.length < 54 then 46
  else if store.length < 54 + 34 * recordCount store then 34
  else 2

/-- A value of the settings block, by its setting number (12.5). -/
def blockValue (store : List Byte) (number : Nat) : Word := wordAt store (8 + 2 * number)

/-- The values of the settings block (12.5); the FREEZE place holds the image's freeze bits. -/
def blockSettings (store : List Byte) : Settings :=
  { node := blockValue store 0, epoch := blockValue store 1, hopLimit := blockValue store 2, tagType := blockValue store 3,
    probeGroup0 := blockValue store 4, probeGroup1 := blockValue store 5, probeGroup2 := blockValue store 6,
    probePeriod := blockValue store 7, probeMissLimit := blockValue store 8, sweepPeriod := blockValue store 9,
    sweepMask := blockValue store 10, freeze := blockValue store 11, pairEnable := blockValue store 12,
    attachedNode0 := blockValue store 13, attachedNode1 := blockValue store 14, maxFrame := blockValue store 15,
    queueCapTrip := blockValue store 16, queueCapSample := blockValue store 17, queueCapStatus := blockValue store 18,
    statusQuota := blockValue store 19, flapLimit := blockValue store 20, attnMask := blockValue store 21 }

/-- The port enable word (12.5). -/
def portEnableWord (store : List Byte) : Word := wordAt store 52

/-- The target handle of standing record `k` (12.5). -/
def standingHandle (store : List Byte) (k : Nat) : Nat := (wordAt store (54 + 34 * k)).toNat

/-- The staging image of standing record `k` (12.5). -/
def standingImage (store : List Byte) (k : Nat) : List Byte := (store.drop (56 + 34 * k)).take 32

/-! ## The judgement of the image (R172) -/

/-- The header check: the signature "BW62", format 1, at most 64 standing records (R172). -/
def headerPasses (store : List Byte) : Bool :=
  store.take 4 == [0x42, 0x57, 0x36, 0x32] && wordAt store 6 == 1 && decide (recordCount store ≤ 64)

/-- The 16-bit words of a list of bytes, most significant byte first. -/
def wordsOf : List Byte → List Word
  | hi :: lo :: rest => wordOf hi lo :: wordsOf rest
  | _ => []

/-- Ones'-complement addition: a carry out of the top bit is added back in at the bottom (R172). -/
def onesAdd (x y : Word) : Word := if x.toNat + y.toNat < 65536 then x + y else x + y + 1

/-- The checksum over an image's bytes before the checksum (R172). -/
def onesSum (bytes : List Byte) : Word := (wordsOf bytes).foldl onesAdd 0

/-- The checksum check: the sum of all words before the checksum equals it (R172). -/
def checksumPasses (store : List Byte) : Bool :=
  onesSum (store.take (store.length - 2)) == wordAt store (store.length - 2)

/-- A pair's ATTACHED NODE is nonzero and equals NODE (R5, R6, R122; log 13). -/
def Settings.nodeClash (v : Settings) (k : Pair) : Bool := v.attached k != 0 && v.attached k == v.node

/-- Both ATTACHED NODE values are the same nonzero number and a pair is enabled (R6, R122; log 13). -/
def Settings.pairClash (v : Settings) : Bool :=
  v.attachedNode0 != 0 && v.attachedNode0 == v.attachedNode1 && (v.pairEnabled .pair0 || v.pairEnabled .pair1)

/-- The settings block check: every value in range, NODE and the ATTACHED NODE values free of clashes (R172). -/
def Settings.blockPasses (v : Settings) : Bool :=
  allSettings.all (fun n => n.inRange (v.get n)) && !v.nodeClash .pair0 && !v.nodeClash .pair1 && !v.pairClash

/-! ## The end of a load (R175, R176) -/

/-- A change to the image loader. -/
def State.modLoader (s : State) (f : Loader → Loader) : State := { s with loader := f s.loader }

/-- The load ends: READY and LOADED are set, the sweep and the probe unit start (R175, R176). -/
def State.endLoad (s : State) (outcome : LoadState) : State :=
  (((s.modLoader (fun l => { l with state := outcome })).raise .loaded).startSweep).startProbes

/-- The ports are given an ON, one after another (R116, R175, R176). -/
def State.turnOnAll (s : State) (ps : List Port) : State := ps.foldl (fun t p => (t.commandOn p).1) s

/-- The load fails: both lanes are given an ON (R176). -/
def State.failLoad (s : State) : State := (s.turnOnAll [.lane .a, .lane .b]).endLoad .failed

/-! ## Applying the image (R173 to R175) -/

/-- The settings block written into the settings: FREEZE waits, and after FULL RESET EPOCH is kept and incremented (R173, R7). -/
def Settings.applyBlock (v block : Settings) (afterFullReset : Bool) : Settings :=
  { block with
    freeze := v.freeze
    epoch := if afterFullReset then (v.epoch + 1) &&& 0x000F else block.epoch }

/-- The configuration a standing record installs, when it passes the four checks of R174. -/
def State.standingConfig (s : State) (h : Nat) (image : List Byte) : Option StreamConfig :=
  if 511 < h then none
  else if (s.record h).state ≠ .free then none
  else (presented s.settings image).filter (fun c => !s.keyHeld c.origin c.stream)

/-- A standing record is installed, or skipped with the skipped count raised (R174). -/
def State.installStanding (s : State) (h : Nat) (image : List Byte) : State :=
  match s.standingConfig h image with
  | some c => s.putRecord h (.installed c)
  | none => s.modLoader (fun l => { l with skipped := l.skipped + 1 })

/-- The standing records in image order (R174). -/
def State.installAll (s : State) (store : List Byte) : State :=
  (List.range (recordCount store)).foldl (fun t k => t.installStanding (standingHandle store k) (standingImage store k)) s

/-- The ports whose bit is set in the port enable word, in port number order (R175); its other bits are not read (log 12). -/
def enabledPorts (word : Word) : List Port :=
  [(0, Port.lane .a), (1, Port.lane .b), (2, Port.bay .p0), (3, Port.bay .p1), (4, Port.bay .p2), (5, Port.bay .p3)].filterMap
    (fun e => if word.getLsbD e.1 then some e.2 else none)

/-- FREEZE takes the image's freeze bits beside its own (R175). -/
def State.addFreeze (s : State) (bits : Word) : State := s.putSetting .freeze (s.settings.freeze ||| bits)

/-- APPLYING, from the settings block to the end of the load (R173 to R175). -/
def State.applyImage (s : State) (store : List Byte) : State :=
  let block := blockSettings store
  let t := s.modLoader (fun l => { l with state := .applying })
  let t := { t with settings := t.settings.applyBlock block t.loader.afterFullReset }
  (((t.installAll store).addFreeze block.freeze).turnOnAll (enabledPorts (portEnableWord store))).endLoad .loaded

/-! ## Transfers (R171) -/

/-- The tries count at a try: 1 at the first of a transfer, one more at each further one (R171; log 10). -/
def Loader.tried (l : Loader) : Nat := if l.retrying then l.tries + 1 else 1

/-- The EEPROM address of the part whose transfer comes next: the parts stand one after another from 0x0000 upward (R171, 12.5). -/
def partAddress (store : List Byte) : Word := BitVec.ofNat 16 store.length

/-- What a try sends up to its last address byte: steps 1 and 2, and step 3 with the repeated start (R171). -/
def addressItems (address : Word) : List BusItem :=
  [.start, .device Config.eepromDevice .write] ++ (wordBytes address).map BusItem.byte
    ++ [.repeatedStart, .device Config.eepromDevice .read]

/-- How many of those items a try has sent when it comes to an address byte. -/
def itemsSent : AddressByte → Nat
  | .deviceToWrite => 2
  | .partHigh => 3
  | .partLow => 4
  | .deviceToRead => 6

/-- What a try sends that fails at an address byte: the items up to it, then a stop condition (R171). -/
def failedItems (address : Word) (which : AddressByte) : List BusItem := (addressItems address).take (itemsSent which) ++ [.stop]

/-- What a try sends that reads `n` bytes: each acknowledged but the last one, then a stop condition (R171, step 4). -/
def readItems (address : Word) (n : Nat) : List BusItem :=
  addressItems address ++ List.replicate (n - 1) .acknowledge ++ [.noAcknowledge, .stop]

/-- A try that was not acknowledged: the same transfer is tried again, and after a third failed try the load fails (R171). -/
def State.failedTry (s : State) (which : AddressByte) : State :=
  let t := s.modLoader (fun l =>
    { l with tries := l.tried, retrying := true, busOut := failedItems (partAddress l.store) which })
  if 3 ≤ s.loader.tried then t.failLoad else t

/-- A transfer has succeeded and its bytes stand in the load store; `size` is its part's. The header and, after the checksum, the
whole image are judged (R172). -/
def State.judgePart (s : State) (size : Nat) : State :=
  let store := s.loader.store
  if size = 8 then (if headerPasses store then s else s.failLoad)
  else if size = 2 then
    (if checksumPasses store && (blockSettings store).blockPasses then s.applyImage store else s.failLoad)
  else s

/-- A try that brought the bytes of the part (R171). -/
def State.goodTry (s : State) (bytes : List Byte) : State :=
  (s.modLoader (fun l =>
    { l with
      tries := l.tried, retrying := false, store := l.store ++ bytes
      busOut := readItems (partAddress l.store) bytes.length })).judgePart (partSize s.loader.store)

/-- The outcome of a try: bytes that are not the part's in number have no meaning and change nothing (log 11). -/
def State.transferOutcome (s : State) (outcome : TryOutcome) : State :=
  match outcome with
  | .notAcknowledged which => s.failedTry which
  | .acknowledged bytes => if bytes.length = partSize s.loader.store then s.goodTry bytes else s

/-- A transfer is under way: the loader reads, and RESET_N is not held. -/
def State.reading (s : State) : Bool := s.loader.state == .reading && !s.resetHeld

/-- TRANSFER (R171): a try ends. With no load reading there is no occasion (log 2). -/
def execTransfer (outcome : TryOutcome) (s : State) : Host.Outcome State Fault Refusal :=
  .next (if s.reading then s.transferOutcome outcome else s)

end Sys2Proof.Machine
end

