-- ==== Sys2Proof/Machine/Clock.lean ====
section
/-! DEFINITION. The bay clock and the units that act by it, when no command waits (R170, R79, R126, R132; log 1). -/

namespace Sys2Proof.Machine

/-- The bay clock counts one microsecond; it stays at 0 while RESET_N is held low (R170). -/
def State.tick (s : State) : State := if s.resetHeld then s else { s with bayClock := s.bayClock + 1 }

/-- What the part does while no command waits (log 1): a unit whose bay-clock time has come acts, the sweep first, then the probe
unit, then the lanes' proving sessions; with none due the clock counts one microsecond. -/
def State.idle (s : State) : Host.Outcome State Fault Refusal :=
  if s.sweepDue then execSweepPeriodBoundary s
  else if s.probeDue.isSome then execProbeBoundary s
  else if s.provingDue .a then execProvingFrame .a s
  else if s.provingDue .b then execProvingFrame .b s
  else .next s.tick

end Sys2Proof.Machine
end

