-- ==== Sys2Proof/Machine/Command.lean ====
section
/-! DEFINITION. The command port (spec/10): how a frame is judged, and every command but the two starts FULL RESET makes
(Loader.lean) and the grants of the timed operations (Records.lean). One step is one whole command frame (log 8). -/

namespace Sys2Proof.Machine

/-! ## Frames (R156 to R160) -/

/-- A frame that is refused with a result, or posts one without data: the status byte went out as it stood when chip select went
low, and 0x00 after it (R156, R160). -/
def State.post (s : State) (r : Result) : State := { s with spiOut := [s.statusByte], lastResult := r }

/-- A frame that has acted: from `s`, the port as the frame found it, to `t`. Its data follow the status byte and a 0x00 for each
argument byte (R156), and its result is written at the frame's end (R159). -/
def State.answer (s t : State) (argBytes : Nat) (r : Result) (data : List Byte) : State :=
  { t with spiOut := s.statusByte :: (List.replicate argBytes 0 ++ data), lastResult := r }

/-- An immediate command, judged by R160: NOT_READY while the load runs, BAD_VALUE when its frame is cut short, else the
command's own checks and effect on its arguments. -/
def State.immediate {α : Type} (s : State) (arg : FrameArg α) (argBytes : Nat) (act : α → State × Result × List Byte) : State :=
  if s.ready then
    match arg with
    | .whole x => s.answer (act x).1 argBytes (act x).2.1 (act x).2.2
    | .cut => s.post .badValue
  else s.post .notReady

/-- A command that returns no data. -/
def silently (answer : State × Result) : State × Result × List Byte := (answer.1, answer.2, [])

/-- A timed command, judged by R160 and R161: the claim writes no result; its result comes at the grant. A notice or a visit whose turn
it is may be the grant in hand at the claim, unless one is in hand still (R31, R96; log 35). -/
def State.claimTimed (s : State) (kind : TimedKind) (handle : FrameArg Word) (copy : List Byte) : State :=
  if s.ready then
    match handle with
    | .whole h =>
      if s.isBusy then s.post .busy
      else { s with spiOut := [s.statusByte], inFlight := some ⟨kind, h, copy⟩, inHand := s.inHand.or s.lowTurn }
    | .cut => s.post .badValue
  else s.post .notReady

/-! ## STATUS READ and the flags (R162, R165) -/

/-- The data of STATUS READ (R162, 12.4). -/
def State.statusData (s : State) : List Byte :=
  wordBytes s.sweep.overruns ++ [BitVec.ofNat 8 s.loader.skipped, BitVec.ofNat 8 s.loader.tries]

/-- STATUS_READ (R162): taken while the load runs; writes no last result. -/
def execStatusRead (s : State) : Host.Outcome State Fault Refusal :=
  .next { s with spiOut := s.statusByte :: s.statusData }

/-- FLAGS_READ (R165): writes no last result, refused or not (R159; log 33). -/
def execFlagsRead (s : State) : Host.Outcome State Fault Refusal :=
  .next { s with spiOut := s.statusByte :: (if s.ready then wordBytes s.flagsWord else []) }

/-- Each flag whose bit is 1 in the word is cleared (R165). -/
def State.clearFlags (s : State) (word : Word) : State := { s with flags := s.flags &&& ~~~ (word.extractLsb' 0 9) }

/-- FLAGS_CLEAR (R165). -/
def execFlagsClear (word : FrameArg Word) (s : State) : Host.Outcome State Fault Refusal :=
  .next (s.immediate word 2 (fun w => (s.clearFlags w, .done, [])))

/-! ## Settings (R163) -/

/-- SETTING READ of a number (R163). -/
def State.readSetting (s : State) (number : Byte) : State × Result × List Byte :=
  match settingOfNumber number with
  | some n => (s, .done, wordBytes (s.settings.get n))
  | none => (s, .badValue, [])

/-- SETTING_READ (R163). -/
def execSettingRead (number : FrameArg Byte) (s : State) : Host.Outcome State Fault Refusal :=
  .next (s.immediate number 1 s.readSetting)

/-- The port is OFF. -/
def State.isOff (s : State) (p : Port) : Bool := (s.port p).state == .off

/-- Both ports of a pair are OFF (R6, R122). -/
def State.pairOff (s : State) (k : Pair) : Bool := s.isOff (.bay k.first) && s.isOff (.bay k.second)

/-- The value is nonzero and equals the ATTACHED NODE of the pair while that pair is enabled (R5, R6). -/
def Settings.clashesWithPair (v : Settings) (k : Pair) (x : Word) : Bool := x != 0 && v.pairEnabled k && x == v.attached k

/-- SETTING WRITE of NODE, its conditions in the order of R5; a write reaches the probe unit (R142). -/
def State.writeNode (s : State) (x : Word) : State × Result :=
  if !(s.isOff (.lane .a) && s.isOff (.lane .b)) then (s, .wrongState)
  else if 60 < x.toNat then (s, .badValue)
  else if s.settings.clashesWithPair .pair0 x || s.settings.clashesWithPair .pair1 x then (s, .badValue)
  else ((s.putSetting .node x).restartProbes, .done)

/-- SETTING WRITE of a pair's ATTACHED NODE, its conditions in the order of R6. A claim of the pair's ports that waits through their OFF
(R31) does not hinder it, though R62 says that no frame of theirs is then in an intake (DESIGN CHOICE, log 39). -/
def State.writeAttached (s : State) (k : Pair) (x : Word) : State × Result :=
  if !s.pairOff k then (s, .wrongState)
  else if 60 < x.toNat then (s, .badValue)
  else if x ≠ 0 ∧ x = s.settings.node then (s, .badValue)
  else if s.settings.clashesWithPair k.other x then (s, .badValue)
  else (s.putSetting (attachedSetting k) x, .done)

/-- The write changes the bit of a pair that has a port not OFF (R122). -/
def State.pairBlocked (s : State) (k : Pair) (x : Word) : Bool :=
  x.getLsbD k.index != s.settings.pairEnabled k && !s.pairOff k

/-- The write enables a pair whose ATTACHED NODE is nonzero and equals NODE (R122). -/
def Settings.enablesNode (v : Settings) (k : Pair) (x : Word) : Bool :=
  x.getLsbD k.index && !v.pairEnabled k && v.attached k != 0 && v.attached k == v.node

/-- SETTING WRITE of PAIR ENABLE, its conditions in the order of R122. A claim of the pair's ports that waits through their OFF (R31) does
not hinder it, though R122 says that no frame of theirs is then in an intake (DESIGN CHOICE, log 39). -/
def State.writePairEnable (s : State) (x : Word) : State × Result :=
  if 3 < x.toNat then (s, .badValue)
  else if s.pairBlocked .pair0 x || s.pairBlocked .pair1 x then (s, .wrongState)
  else if s.settings.enablesNode .pair0 x || s.settings.enablesNode .pair1 x then (s, .badValue)
  else if x = 3 ∧ s.settings.attachedNode0 ≠ 0 ∧ s.settings.attachedNode0 = s.settings.attachedNode1 then (s, .badValue)
  else (s.putSetting .pairEnable x, .done)

/-- SETTING WRITE of FREEZE: bits are added and none is cleared (R111). -/
def State.writeFreeze (s : State) (x : Word) : State × Result :=
  if 0xFF < x.toNat then (s, .badValue) else (s.putSetting .freeze (s.settings.freeze ||| x), .done)

/-- SETTING WRITE of PROBE MISS LIMIT: the ring state is set anew at the write (R137). -/
def State.writeMissLimit (s : State) (x : Word) : State × Result :=
  if SettingId.probeMissLimit.inRange x then ((s.putSetting .probeMissLimit x).judgeRing, .done) else (s, .badValue)

/-- SETTING WRITE of a setting with no rule beyond its range, ATTN MASK among them (R163, R166). -/
def State.writePlain (s : State) (n : SettingId) (x : Word) : State × Result :=
  if n.inRange x then (s.putSetting n x, .done) else (s, .badValue)

/-- SETTING WRITE of a setting, by the rule that owns it (R163). -/
def State.writeById (s : State) (n : SettingId) (x : Word) : State × Result :=
  match n with
  | .node => s.writeNode x
  | .attachedNode0 => s.writeAttached .pair0 x
  | .attachedNode1 => s.writeAttached .pair1 x
  | .pairEnable => s.writePairEnable x
  | .freeze => s.writeFreeze x
  | .probeMissLimit => s.writeMissLimit x
  | .epoch | .hopLimit | .tagType | .probeGroup0 | .probeGroup1 | .probeGroup2 | .probePeriod | .sweepPeriod | .sweepMask
  | .maxFrame | .queueCapTrip | .queueCapSample | .queueCapStatus | .statusQuota | .flapLimit | .attnMask => s.writePlain n x

/-- SETTING WRITE of a setting number; one above 0x15 gives BAD_VALUE (R163). -/
def State.writeSetting (s : State) (number : Byte) (x : Word) : State × Result :=
  match settingOfNumber number with
  | some n => s.writeById n x
  | none => (s, .badValue)

/-- SETTING_WRITE (R163). -/
def execSettingWrite (arg : FrameArg (Byte × Word)) (s : State) : Host.Outcome State Fault Refusal :=
  .next (s.immediate arg 3 (fun x => silently (s.writeSetting x.1 x.2)))

/-- NODE_WRITE (R5). -/
def execNodeWrite (value : Word) (s : State) : Host.Outcome State Fault Refusal :=
  .next (s.immediate (.whole value) 3 (fun x => silently (s.writeNode x)))

/-- ATTACHED_NODE_WRITE (R6). -/
def execAttachedNodeWrite (k : Pair) (value : Word) (s : State) : Host.Outcome State Fault Refusal :=
  .next (s.immediate (.whole value) 3 (fun x => silently (s.writeAttached k x)))

/-- PAIR_ENABLE_WRITE (R122). -/
def execPairEnableWrite (value : Word) (s : State) : Host.Outcome State Fault Refusal :=
  .next (s.immediate (.whole value) 3 (fun x => silently (s.writePairEnable x)))

/-- FREEZE_WRITE (R111). -/
def execFreezeWrite (value : Word) (s : State) : Host.Outcome State Fault Refusal :=
  .next (s.immediate (.whole value) 3 (fun x => silently (s.writeFreeze x)))

/-- PROBE_MISS_LIMIT_WRITE (R137). -/
def execProbeMissLimitWrite (value : Word) (s : State) : Host.Outcome State Fault Refusal :=
  .next (s.immediate (.whole value) 3 (fun x => silently (s.writeMissLimit x)))

/-- ATTN_MASK_WRITE (R166). -/
def execAttnMaskWrite (value : Word) (s : State) : Host.Outcome State Fault Refusal :=
  .next (s.immediate (.whole value) 3 (fun x => silently (s.writePlain .attnMask x)))

/-! ## Staging and views (R94, R105) -/

/-- Bytes written from an offset on; those that would fall past the end are ignored (R94). -/
def overlay (old : List Byte) (offset : Nat) (data : List Byte) : List Byte :=
  old.take offset ++ data.take (old.length - offset) ++ old.drop (offset + data.length)

/-- STAGE WRITE of data from an offset (R94). -/
def State.writeStage (s : State) (offset : Byte) (data : List Byte) : State :=
  { s with staging := overlay s.staging offset.toNat data }

/-- STAGE_WRITE (R94). -/
def execStageWrite (arg : FrameArg (Byte × List Byte)) (s : State) : Host.Outcome State Fault Refusal :=
  .next (s.immediate arg 1 (fun x => (s.writeStage x.1 x.2, .done, [])))

/-- STAGE_READ (R94). -/
def execStageRead (s : State) : Host.Outcome State Fault Refusal :=
  .next (s.immediate (.whole ()) 0 (fun _ => (s, .done, s.staging)))

/-- `length` bytes of a view from an offset; a byte past its end is 0x00 (R105). -/
def viewBytes (view : List Byte) (offset length : Nat) : List Byte :=
  (List.range length).map (fun i => byteAt view (offset + i))

/-- VIEW_READ (R105). -/
def execViewRead (arg : FrameArg (Byte × Byte)) (s : State) : Host.Outcome State Fault Refusal :=
  .next (s.immediate arg 2 (fun x => (s, .done, viewBytes s.frontView x.1.toNat x.2.toNat)))

/-! ## ATTENTION READ (R110) -/

/-- The handles an ATTENTION READ chooses: up to 16, upward from the cursor and then from 0 (R110). -/
def State.chosenHandles (s : State) : List Nat :=
  let set := s.attentionSet
  (set.filter (fun h => decide (s.cursor ≤ h)) ++ set.filter (fun h => decide (h < s.cursor))).take 16

/-- The cursor after a read: the handle after the last one chosen, 0 after 511; unchanged when none is chosen (R110). -/
def cursorAfter (cursor : Nat) (chosen : List Nat) : Nat :=
  match chosen.getLast? with
  | some h => (h + 1) % Config.handles
  | none => cursor

/-- The data of an ATTENTION READ: the count, then the handles (12.4). -/
def handleBytes (chosen : List Nat) : List Byte :=
  BitVec.ofNat 8 chosen.length :: chosen.flatMap (fun h => wordBytes (BitVec.ofNat 16 h))

/-- ATTENTION_READ (R110). -/
def execAttentionRead (s : State) : Host.Outcome State Fault Refusal :=
  .next (s.immediate (.whole ()) 0 (fun _ =>
    ({ s with cursor := cursorAfter s.cursor s.chosenHandles }, .done, handleBytes s.chosenHandles)))

/-! ## Ports (R116, R124) -/

/-- The twelve counters, four bytes each, in the order of R123 (12.4). -/
def portCounterBytes (c : PortCounters) : List Byte :=
  [c.framesIn, c.fcsErrors, c.tagErrors, c.untagged, c.unexpectedTag, c.unclaimed, c.returned, c.hopExpired, c.queueDrops,
    c.poolRefusals, c.flushed, c.framesOut].flatMap timeBytes

/-- The proving part of a port's block: the session mark, set while the lane is in PROVING, and the record (R125, 12.4). -/
def provingBytes (st : PortState) (r : ProvingRecord) : List Byte :=
  [if st = .proving then 1 else 0] ++ wordBytes r.sequence ++ wordBytes r.sent ++ wordBytes r.returned ++ timeBytes r.lastTrip
    ++ timeBytes r.longestTrip

/-- The proving part of any port's block; for a bay port it reads as 0 (R124). -/
def State.provingPart (s : State) (p : Port) : List Byte :=
  match p with
  | .lane l => provingBytes (s.port p).state (s.provingOf l)
  | .bay _ => List.replicate 15 0

/-- The port read block (R124, 12.4); bits 6–3 of its first byte, which no field names, are sent as 0 (DESIGN CHOICE, log 37). -/
def State.portBlock (s : State) (p : Port) : List Byte :=
  let u := s.port p
  [BitVec.ofBool u.signal ++ 0#4 ++ u.state.code, BitVec.ofNat 8 (recentFlaps s.bayClock u.flaps).length]
    ++ portCounterBytes u.counters ++ s.provingPart p

/-- PORT READ of a port number, and what it does to the port it names (R124). -/
def State.readPort (s : State) (number : Byte) (after : State → Port → State) : State × Result × List Byte :=
  match portOfNumber number with
  | some p => (after s p, .done, s.portBlock p)
  | none => (s, .badValue, [])

/-- PORT_READ (R124): nothing is cleared. -/
def execPortRead (port : FrameArg Byte) (s : State) : Host.Outcome State Fault Refusal :=
  .next (s.immediate port 2 (fun n => s.readPort n (fun t _ => t)))

/-- The twelve counters of a port are set to 0 (R124). -/
def State.clearCounters (s : State) (p : Port) : State := s.count p (fun _ => PortCounters.zero)

/-- PORT_READ_CLEAR (R124). -/
def execPortReadClear (port : Byte) (s : State) : Host.Outcome State Fault Refusal :=
  .next (s.immediate (.whole port) 2 (fun n => s.readPort n State.clearCounters))

/-- PORT_ON (R116). -/
def execPortOn (port : FrameArg Byte) (s : State) : Host.Outcome State Fault Refusal :=
  .next (s.immediate port 2 (fun n => silently (s.portCommand n State.commandOn)))

/-- PORT_OFF (R116). -/
def execPortOff (port : Byte) (s : State) : Host.Outcome State Fault Refusal :=
  .next (s.immediate (.whole port) 2 (fun n => silently (s.portCommand n State.commandOff)))

/-- PROVE (R116, R125). -/
def execProve (port : Byte) (s : State) : Host.Outcome State Fault Refusal :=
  .next (s.immediate (.whole port) 2 (fun n => silently (s.portCommand n State.commandProve)))

/-- END_PROVE (R116, R129). -/
def execEndProve (port : Byte) (s : State) : Host.Outcome State Fault Refusal :=
  .next (s.immediate (.whole port) 2 (fun n => silently (s.portCommand n State.commandEndProve)))

/-- REINSTATE (R116, R121). -/
def execReinstate (port : Byte) (s : State) : Host.Outcome State Fault Refusal :=
  .next (s.immediate (.whole port) 2 (fun n => silently (s.portCommand n State.commandReinstate)))

/-! ## The ring and the roster (R143, R144) -/

/-- The ring block (R143, 12.4). -/
def State.ringBlock (s : State) : List Byte :=
  let u := s.probe
  [u.ring.code.setWidth 8, u.missA.setWidth 8, u.missB.setWidth 8, BitVec.ofNat 8 u.serials.length]
    ++ [0, 1, 2, 3].flatMap (fun i => wordBytes (u.serials.getD i 0)) ++ wordBytes u.clashes

/-- RING_READ (R143). -/
def execRingRead (s : State) : Host.Outcome State Fault Refusal :=
  .next (s.immediate (.whole ()) 0 (fun _ => (s, .done, s.ringBlock)))

/-- The five bytes of a lane's evidence: distance and last heard time; 0 without evidence (12.4). -/
def evidenceBytes : Option Evidence → List Byte
  | some v => v.distance :: timeBytes v.lastHeard
  | none => List.replicate 5 0

/-- The 13 bytes of a roster entry (12.4). -/
def rosterBytes (k : Nat) (e : RosterEntry) : List Byte :=
  [BitVec.ofNat 8 k, e.status.setWidth 8, e.ring.code ++ e.laneA.code ++ e.laneB.code] ++ evidenceBytes e.heardA
    ++ evidenceBytes e.heardB

/-- The node numbers a ROSTER READ covers: `n` from `first` on, none above 60 (R144). -/
def rosterNumbers (first n : Nat) : List Nat := ((List.range n).map (fun i => first + i)).filter (fun k => decide (k ≤ 60))

/-- ROSTER READ of `n` entries from `first` (R144). -/
def State.readRoster (s : State) (first n : Nat) : State × Result × List Byte :=
  if 1 ≤ first ∧ first ≤ 60 ∧ 1 ≤ n ∧ n ≤ 60 then
    (s, .done, timeBytes s.bayClock ++ (rosterNumbers first n).flatMap (fun k => rosterBytes k (s.rosterEntry k)))
  else (s, .badValue, [])

/-- ROSTER_READ (R144). -/
def execRosterRead (arg : FrameArg (Byte × Byte)) (s : State) : Host.Outcome State Fault Refusal :=
  .next (s.immediate arg 2 (fun x => s.readRoster x.1.toNat x.2.toNat))

/-! ## Timed commands (R95, R161) -/

/-- INSTALL (R161): it takes a copy of the staging record (R95). -/
def execInstall (handle : FrameArg Word) (s : State) : Host.Outcome State Fault Refusal :=
  .next (s.claimTimed .install handle s.staging)

/-- AMEND (R161): it takes a copy of the staging record (R95). -/
def execAmend (handle : FrameArg Word) (s : State) : Host.Outcome State Fault Refusal :=
  .next (s.claimTimed .amend handle s.staging)

/-- RETIRE (R161). -/
def execRetire (handle : FrameArg Word) (s : State) : Host.Outcome State Fault Refusal :=
  .next (s.claimTimed .retire handle [])

/-- HOLD (R161). -/
def execHold (handle : FrameArg Word) (s : State) : Host.Outcome State Fault Refusal :=
  .next (s.claimTimed .hold handle [])

/-- RELEASE (R161). -/
def execRelease (handle : FrameArg Word) (s : State) : Host.Outcome State Fault Refusal :=
  .next (s.claimTimed .release handle [])

/-- SNAPSHOT (R161). -/
def execSnapshot (handle : FrameArg Word) (s : State) : Host.Outcome State Fault Refusal :=
  .next (s.claimTimed .snapshot handle [])

/-- SNAPSHOT_CLEAR (R161). -/
def execSnapshotClear (handle : FrameArg Word) (s : State) : Host.Outcome State Fault Refusal :=
  .next (s.claimTimed .snapshotClear handle [])

/-! ## CONTROL RESET and frames that spell no command (R156, R160, R168) -/

/-- What CONTROL RESET leaves of the command port (R168). A notice or visit in hand is not withdrawn: it completes (R32, R82, R97). -/
def State.resetPort (s : State) : State :=
  ({ s with
    inFlight := none, lastResult := .done, staging := stagingReset, frontView := viewCleared, backView := viewCleared,
    cursor := 0 } : State).lower .done

/-- CONTROL_RESET (R168): refused with NOT_READY while the load runs. -/
def execControlReset (s : State) : Host.Outcome State Fault Refusal :=
  .next (s.immediate (.whole ()) 0 (fun _ => (s.resetPort, .done, [])))

/-- The result of a frame that spells none of the other commands (R116, R160). -/
def strayResult : StrayFrame → Option Result
  | .commandByte _ => some .unknownCommand
  | .portAction _ _ => some .badValue
  | .noByte => none

/-- UNKNOWN_COMMAND (R160): the frame has no effect but its result; one that ends before its command byte posts nothing (R156). -/
def execUnknownCommand (frame : StrayFrame) (s : State) : Host.Outcome State Fault Refusal :=
  .next (match strayResult frame with
    | some r => if s.ready then s.post r else s.post .notReady
    | none => s)

end Sys2Proof.Machine
end

