-- ==== Sys2Proof/Machine/Dispatch.lean ====
section
/-! DEFINITION. The meaning of every command: one arm per constructor of Instr. -/

namespace Sys2Proof.Machine

def exec (i : Instr) (s : State) : Host.Outcome State Fault Refusal :=
  match i with
  | .powerOn signal => Sys2Proof.Machine.execPowerOn signal s
  | .resetNLow => Sys2Proof.Machine.execResetNLow s
  | .resetNHigh => Sys2Proof.Machine.execResetNHigh s
  | .fullReset => Sys2Proof.Machine.execFullReset s
  | .controlReset => Sys2Proof.Machine.execControlReset s
  | .transfer outcome => Sys2Proof.Machine.execTransfer outcome s
  | .linkSignalPresent p => Sys2Proof.Machine.execLinkSignalPresent p s
  | .linkSignalLost p => Sys2Proof.Machine.execLinkSignalLost p s
  | .frameReception p frame => Sys2Proof.Machine.execFrameReception p frame s
  | .laneIntake l => Sys2Proof.Machine.execLaneIntake l s
  | .bayIntake p => Sys2Proof.Machine.execBayIntake p s
  | .lookupByKey p => Sys2Proof.Machine.execLookupByKey p s
  | .patternSearch p => Sys2Proof.Machine.execPatternSearch p s
  | .noticeGrant => Sys2Proof.Machine.execNoticeGrant s
  | .sweepPeriodBoundary => Sys2Proof.Machine.execSweepPeriodBoundary s
  | .sweepVisit => Sys2Proof.Machine.execSweepVisit s
  | .probeBoundary => Sys2Proof.Machine.execProbeBoundary s
  | .provingFrame l => Sys2Proof.Machine.execProvingFrame l s
  | .transmissionEnd p => Sys2Proof.Machine.execTransmissionEnd p s
  | .statusRead => Sys2Proof.Machine.execStatusRead s
  | .flagsRead => Sys2Proof.Machine.execFlagsRead s
  | .flagsClear word => Sys2Proof.Machine.execFlagsClear word s
  | .settingRead number => Sys2Proof.Machine.execSettingRead number s
  | .settingWrite arg => Sys2Proof.Machine.execSettingWrite arg s
  | .nodeWrite value => Sys2Proof.Machine.execNodeWrite value s
  | .attachedNodeWrite k value => Sys2Proof.Machine.execAttachedNodeWrite k value s
  | .pairEnableWrite value => Sys2Proof.Machine.execPairEnableWrite value s
  | .freezeWrite value => Sys2Proof.Machine.execFreezeWrite value s
  | .probeMissLimitWrite value => Sys2Proof.Machine.execProbeMissLimitWrite value s
  | .attnMaskWrite value => Sys2Proof.Machine.execAttnMaskWrite value s
  | .stageWrite arg => Sys2Proof.Machine.execStageWrite arg s
  | .stageRead => Sys2Proof.Machine.execStageRead s
  | .install handle => Sys2Proof.Machine.execInstall handle s
  | .amend handle => Sys2Proof.Machine.execAmend handle s
  | .retire handle => Sys2Proof.Machine.execRetire handle s
  | .hold handle => Sys2Proof.Machine.execHold handle s
  | .release handle => Sys2Proof.Machine.execRelease handle s
  | .snapshot handle => Sys2Proof.Machine.execSnapshot handle s
  | .snapshotClear handle => Sys2Proof.Machine.execSnapshotClear handle s
  | .installGrant => Sys2Proof.Machine.execInstallGrant s
  | .amendGrant => Sys2Proof.Machine.execAmendGrant s
  | .retireGrant => Sys2Proof.Machine.execRetireGrant s
  | .holdGrant => Sys2Proof.Machine.execHoldGrant s
  | .releaseGrant => Sys2Proof.Machine.execReleaseGrant s
  | .snapshotGrant => Sys2Proof.Machine.execSnapshotGrant s
  | .snapshotClearGrant => Sys2Proof.Machine.execSnapshotClearGrant s
  | .viewRead arg => Sys2Proof.Machine.execViewRead arg s
  | .attentionRead => Sys2Proof.Machine.execAttentionRead s
  | .portRead port => Sys2Proof.Machine.execPortRead port s
  | .portReadClear port => Sys2Proof.Machine.execPortReadClear port s
  | .portOn port => Sys2Proof.Machine.execPortOn port s
  | .portOff port => Sys2Proof.Machine.execPortOff port s
  | .prove port => Sys2Proof.Machine.execProve port s
  | .endProve port => Sys2Proof.Machine.execEndProve port s
  | .reinstate port => Sys2Proof.Machine.execReinstate port s
  | .ringRead => Sys2Proof.Machine.execRingRead s
  | .rosterRead arg => Sys2Proof.Machine.execRosterRead arg s
  | .unknownCommand frame => Sys2Proof.Machine.execUnknownCommand frame s
  | .frameReceptionStart p => Sys2Proof.Machine.execFrameReceptionStart p s

end Sys2Proof.Machine
end

