-- ==== Sys2Proof/Machine/Step.lean ====
section
/-! DEFINITION. One step: the command at the front of the queue, or the bay clock's work when no command waits. -/

namespace Sys2Proof.Machine

/-- One step of the part: the command at the front of the queue acts on the state with the queue's rest; with no command waiting,
the units that the bay clock drives act, or the clock counts one microsecond (log 1). -/
def step (s : State) : Host.Outcome State Fault Refusal :=
  match s.pending with
  | [] => s.idle
  | c :: rest => exec c { s with pending := rest }

/-- The state with the command a table word spells put at the front of its queue; unchanged where the word spells none, as no
table word does (log 7). -/
def State.withFetchWord (s : State) (nbits w : Nat) : State :=
  match decodeTableWord nbits w with
  | some c => { s with pending := c :: s.pending }
  | none => s

end Sys2Proof.Machine
end

