-- ==== Sys2Proof/Safety.lean ====
section
/-! DEFINITION. The laws the spec says hold at all times, as propositions about a state, and the words in which statements
speak of what a step changes. -/

namespace Sys2Proof.Machine

/-! ## The settings (R6, R163) -/

/-- Every setting lies in its range (R163). -/
def Settings.inRange (v : Settings) : Bool := allSettings.all (fun n => n.inRange (v.get n))

/-- The numbers of the own-origin set are distinct (R6). -/
def Settings.originsDistinct (v : Settings) : Bool :=
  !(v.pairEnabled .pair0 && v.nodeClash .pair0) && !(v.pairEnabled .pair1 && v.nodeClash .pair1)
    && !(v.pairEnabled .pair0 && v.pairEnabled .pair1 && v.attachedNode0 != 0 && v.attachedNode0 == v.attachedNode1)

/-- The law of the settings. -/
def SettingsLaw (s : State) : Prop := s.settings.inRange = true ∧ s.settings.originsDistinct = true

/-! ## The stream table (R19 to R30, R109) -/

/-- Kind and leg mode go together (R20). -/
def StreamConfig.legModeFits (c : StreamConfig) : Bool :=
  match c.kind, c.legMode with
  | .subscribed, .ring => true
  | .originatedSingle, .single _ => true
  | .originatedPair, .pair _ => true
  | _, _ => false

/-- A FREE record's fields are all 0 (R19), and no record stands in the attention set unless it is ARMED, LIVE, SINGLE or SILENT
(R109). -/
def Record.presenceLawful (r : Record) : Bool := (r.state != .free || r == Record.free) && (!r.inAttention || r.state.occupied)

/-- The deadline runs in LIVE and SINGLE and in no other state (R26). -/
def Record.deadlineLawful (r : Record) : Bool := r.running == r.state.arriving

/-- In LIVE and SINGLE the state is the one the leg statuses give (R29). -/
def Record.stateLawful (r : Record) : Bool := !r.state.arriving || r.state == r.stateAnew

/-- The twin list holds at most four entries, of distinct sequences (R47), and none outside LIVE and SINGLE (R84, R102). -/
def Record.twinsLawful (r : Record) : Bool :=
  decide (r.twins.length ≤ 4) && decide (r.twins.map TwinEntry.seq).Nodup && (r.state.arriving || r.twins.isEmpty)

/-- A one-leg record keeps no twin list and no miss counts, and its leg B stays as installed (R20, R26). -/
def Record.oneLegLawful (r : Record) : Bool := r.twoLeg || (r.twins.isEmpty && r.legA.misses == 0 && r.legB == Leg.zero)

/-- The laws of one record. -/
def Record.lawful (r : Record) : Bool :=
  r.presenceLawful && r.deadlineLawful && r.stateLawful && r.twinsLawful && r.oneLegLawful && r.config.legModeFits

/-- The law of the stream table: its list is canonical, its handles lie in 0..511, and every record is lawful. -/
def TableLaw (s : State) : Prop :=
  Sparse.wf Record.free s.table = true ∧ ∀ e ∈ s.table, e.1 < Config.handles ∧ e.2.lawful = true

/-- Two records hold the same key (R21). -/
def Record.sameKey (r r' : Record) : Prop := r.config.origin = r'.config.origin ∧ r.config.stream = r'.config.stream

/-- No two records hold the same key (R21). -/
def KeyLaw (s : State) : Prop :=
  ∀ h k, (s.record h).state.occupied = true → (s.record k).state.occupied = true → (s.record h).sameKey (s.record k) → h = k

/-! ## Pool, queues and tallies (R145, R148, R154) -/

/-- Every descriptor of the part: queued or in transmission. -/
def State.descriptors (s : State) : List Descriptor := allPorts.flatMap (fun p => (s.port p).descriptors)

/-- The cells held by frames stored under the classes `which` names. -/
def State.heldBy (s : State) (which : DataClass → Bool) : Nat := heldCells (s.pool.filter (fun f => which f.cls))

/-- Free cells and held cells make 384, SAMPLE and STATUS frames hold at most 352 and STATUS frames at most 288 (R145, R148). -/
def CellLaw (s : State) : Prop :=
  heldCells s.pool ≤ 384 ∧ s.heldBy (fun c => c != .trip) ≤ 352 ∧ s.heldBy (fun c => c == .status) ≤ 288

/-- Every stored frame has as many copies outstanding as descriptors name it, and at least one; every descriptor names a stored
frame; names are not used twice (R145). -/
def PoolLaw (s : State) : Prop :=
  (s.pool.map StoredFrame.name).Nodup ∧ (∀ f ∈ s.pool, f.name < s.nextName)
    ∧ (∀ f ∈ s.pool, 0 < f.outstanding ∧ f.outstanding = s.descriptors.countP (fun d => d.frame == f.name))
    ∧ ∀ d ∈ s.descriptors, ∃ f ∈ s.pool, f.name = d.frame

/-- Every handle's tally is the number of copies queued or in transmission that carry it (R154). -/
def TallyLaw (s : State) : Prop :=
  Sparse.wf 0 s.tallies = true ∧ ∀ h, s.tally h = s.descriptors.countP (fun d => d.handle == some h)

/-! ## Ports (R114, R117, R118, R120) -/

/-- A port out of service has no descriptor, no quota count and no reception under way (R9, R118); its flap history holds at most 15
times (R120); a waiting claim has its frame in the store (R31, R146). -/
def PortUnit.lawful (u : PortUnit) : Bool :=
  (u.state.inService || (u.descriptors.isEmpty && u.quota == 0 && !u.underWay)) && decide (u.flaps.length ≤ 15)
    && (u.claim.isNone || !u.store.isEmpty)

/-- The law of the ports: a bay port is never in PROVING (R114). -/
def PortLaw (s : State) : Prop :=
  (∀ p, (s.port p).lawful = true) ∧ ∀ p : BayPort, (s.port (.bay p)).state ≠ .proving

/-! ## The probe unit (R131, R135, R137, R138, R140) -/

/-- While the unit runs, the ring state is the one the table of R137 gives; both miss counts are 15 while NODE is not 0 and a lane
is not UP (R135), and all is clear while NODE is 0 (R138). While it is stopped the ring state is NONE, the counts are 0, the answered
marks clear and the serial list empty (R131). -/
def RingLaw (s : State) : Prop :=
  (s.probe.boundary.isSome = true → s.probe.ring = s.ringNow)
    ∧ (s.probe.boundary = none → s.probe.ring = .noRing ∧ s.probe.missA = 0 ∧ s.probe.missB = 0 ∧ s.probe.answeredA = false
        ∧ s.probe.answeredB = false ∧ s.probe.serials = [])
    ∧ (s.probe.boundary.isSome = true → s.settings.node ≠ 0 → s.lanesUp = false → s.probe.missA = 15 ∧ s.probe.missB = 15)
    ∧ (s.settings.node = 0 → s.probe.missA = 0 ∧ s.probe.missB = 0 ∧ s.probe.answeredA = false ∧ s.probe.answeredB = false
        ∧ s.probe.serials = [])

/-- The roster is a canonical list of entries 1 to 60, and the serial list holds at most four serials (R131, R140). -/
def RosterLaw (s : State) : Prop :=
  Sparse.wf RosterEntry.absent s.probe.roster = true ∧ (∀ e ∈ s.probe.roster, 1 ≤ e.1 ∧ e.1 ≤ 60) ∧ s.probe.serials.length ≤ 4

/-! ## The command port, the sweep and the loader -/

/-- The staging record has 32 bytes, each view 96, and the attention cursor lies in 0..511 (R94, R105, R110). -/
def BufferLaw (s : State) : Prop :=
  s.staging.length = 32 ∧ s.frontView.length = 96 ∧ s.backView.length = 96 ∧ s.cursor < Config.handles

/-- The sweep position lies in 0..512 (R78), and the notice list holds each handle at most once (R30). -/
def SweepLaw (s : State) : Prop := s.sweep.position ≤ Config.handles ∧ s.notices.Nodup

/-- While the load runs every port is OFF, the table is all FREE, no timed operation is in flight, and the sweep and the probe unit
are stopped (R170); once it has ended they run (R175). While the RESET_N pin is held the load has not ended (R170). -/
def StartLaw (s : State) : Prop :=
  (s.ready = false → (∀ p, (s.port p).state = .off) ∧ s.table = [] ∧ s.inFlight = none ∧ s.sweep.position = Config.handles
      ∧ s.probe.boundary = none)
    ∧ (s.ready = true → s.probe.boundary.isSome = true) ∧ (s.resetHeld = true → s.ready = false)

/-- The load state is READING, LOADED or FAILED between steps, for APPLYING passes within one (R173). While it is READING the load
store holds a header that passed, if any, and no record has been skipped (R172, R174). The tries and skipped counts lie in their
ranges (R162). -/
def LoaderLaw (s : State) : Prop :=
  s.loader.state ≠ .applying
    ∧ (s.loader.state = .reading → s.loader.skipped = 0 ∧ (s.loader.store = [] ∨ headerPasses s.loader.store = true))
    ∧ (s.loader.state = .reading → s.loader.retrying = true → s.loader.tries ≤ 2)
    ∧ s.loader.tries ≤ 3 ∧ s.loader.skipped ≤ 64

/-! ## Words for statements -/

/-- A port whose queues a flush has emptied and whose transmission it has abandoned, each copy counted (R118, R155). -/
def PortUnit.emptied (u : PortUnit) : PortUnit :=
  { u with
    trip := [], sample := [], status := [], sending := none, quota := 0
    counters := { u.counters with flushed := bumpBy u.counters.flushed u.descriptors.length } }

/-- A port after a change of its state: flushed on the way out of UP or PROVING (R118), the reception under way discarded when it no
longer takes frames (R9, R62). -/
def PortUnit.after (u : PortUnit) (new : PortState) : PortUnit :=
  { (if u.state.inService then u.emptied else u) with state := new, underWay := u.underWay && new.inService }

/-- Every port but `p` is as it was. -/
def State.otherPortsKept (s t : State) (p : Port) : Prop := ∀ q, q ≠ p → t.port q = s.port q

/-- Every record but that of handle `h` is as it was. -/
def State.otherRecordsKept (s t : State) (h : Nat) : Prop := ∀ k, k ≠ h → t.record k = s.record k

/-- Nothing but the ports, the pool, the tallies, the notice list, the flags and the probe unit differs: all that a change of a
port's state can reach (R115, R118, R135, R155). -/
def State.onlyPortsMove (s t : State) : Prop :=
  t = { s with
    ports := t.ports, pool := t.pool, tallies := t.tallies, notices := t.notices, flags := t.flags, probe := t.probe }

/-- Nothing but the ports, the pool, the tallies, the model's frame names and the flags differs: all that an admission request can
reach (R148, R149, R154). -/
def State.onlyTrafficMoves (s t : State) : Prop :=
  t = { s with ports := t.ports, pool := t.pool, nextName := t.nextName, tallies := t.tallies, flags := t.flags }

/-- A copy offered now is flushed at once: its port is neither UP nor PROVING, or is PROVING and the copy is neither a proving frame nor
a reflection (R149). -/
def State.flushesAtOnce (s : State) (c : Copy) : Bool :=
  !(s.isUp c.port || ((s.port c.port).state == .proving && (c.role == .proving || c.role == .reflection)))

/-- The port's queue of the class holds as many descriptors as its capacity or more (R149, R151). -/
def State.queueFull (s : State) (p : Port) (cls : DataClass) : Bool :=
  decide (s.settings.queueCap cls ≤ ((s.port p).queue cls).length)

/-- The pool once the copies `ds` have left it: each takes one from its frame's outstanding copies, and a frame with none left holds no
cell (R145, R155). -/
def State.poolWithout (s : State) (ds : List Descriptor) : List StoredFrame :=
  (s.pool.map (fun g => { g with outstanding := g.outstanding - ds.countP (fun d => d.frame == g.name) })).filter
    (fun g => decide (0 < g.outstanding))

/-- The copies `ds` have left between the states: each is gone from its frame's outstanding copies and from its handle's tally, and a
tally that has fallen to 0 has its notice on the list (R154, R155). In the pool every frame has a copy outstanding, as PoolLaw says. -/
def State.copiesLeave (s t : State) (ds : List Descriptor) : Prop :=
  ((∀ g ∈ s.pool, 0 < g.outstanding) → t.pool = s.poolWithout ds)
    ∧ (∀ h, t.tally h = s.tally h - ds.countP (fun d => d.handle == some h))
    ∧ ∀ h, h ∈ t.notices ↔ h ∈ s.notices ∨ (0 < s.tally h ∧ s.tally h ≤ ds.countP (fun d => d.handle == some h))

/-- No copy has left and none has entered between the states. -/
def State.copiesStay (s t : State) : Prop := t.pool = s.pool ∧ t.tallies = s.tallies ∧ t.notices = s.notices

/-- What the probe unit makes of a lane's change of state on a started unit (R135, R137): both counts 15 when the lane left UP on a
node with a number, the ring state by the table of R137, and RING set on its change. -/
def State.ringFollows (s t : State) (leftUp : Bool) : Prop :=
  s.probe.boundary.isSome = true →
    t.probe.ring = t.ringNow
      ∧ (leftUp = true → s.settings.node ≠ 0 → t.probe.missA = 15 ∧ t.probe.missB = 15)
      ∧ t.flag .ring = (s.flag .ring || t.probe.ring != s.probe.ring)

/-- The arbiter grants the port's lookup; its frame is `f`, and the record of handle `h` is found for it and takes it (R31, R34). -/
def State.lookupTakes (s : State) (p : Port) (f : RxFrame) (h : Nat) : Prop :=
  s.granted p .lookup = true ∧ (s.port p).store.head? = some f
    ∧ s.findKey (tagOf f.bytes).origin (tagOf f.bytes).stream = some h
    ∧ match p with
      | .lane _ => (s.record h).config.kind = .subscribed
      | .bay q => (s.record h).config.isPair q.pair = true

/-- The arbiter grants the port's search; its frame is `f`, and the record of handle `h` is chosen (R31, R36). -/
def State.searchTakes (s : State) (p : BayPort) (f : RxFrame) (h : Nat) : Prop :=
  s.granted (.bay p) .search = true ∧ (s.port (.bay p)).store.head? = some f ∧ s.findPattern p f.bytes = some h

/-- Only what the grant of a lookup or search can reach differs: one record, what an admission reaches, the rotation, and the mark of
a grant in hand, which is over (R31, R32). -/
def State.onlyGrantMoves (s t : State) (p : Port) : Prop :=
  t = { s with
    table := t.table, rotation := nextInRotation p, inHand := none, ports := t.ports, pool := t.pool, nextName := t.nextName
    tallies := t.tallies, flags := t.flags }

/-- The timed operation of this kind on handle `h` is granted (R31, R96). -/
def State.timedTurn (s : State) (kind : TimedKind) (h : Nat) (copy : List Byte) : Prop :=
  s.turn = .timed ∧ ∃ o, s.inFlight = some o ∧ o.kind = kind ∧ o.handle.toNat = h ∧ o.copy = copy

/-- The state after a timed operation has ended with a result: BUSY is over and DONE set (R96, R161), and
no grant is in hand (R32). -/
def State.ended (s : State) (r : Result) : State :=
  { s with lastResult := r, inFlight := none, inHand := none, flags := s.flags ||| Flag.done.mask }

/-- The state after an immediate command: the status byte it found, a 0x00 for each argument byte and its data have gone out, and
its result stands (R156, R159). -/
def State.replied (s t : State) (argBytes : Nat) (r : Result) (data : List Byte) : State :=
  { t with spiOut := s.statusByte :: (List.replicate argBytes 0x00 ++ data), lastResult := r }

end Sys2Proof.Machine
end

