-- ==== Sys2Proof/Certificates/Slice0/Obligations.lean ====
section
/-! DEFINITION. The statements for the provers. -/

open Sys2Proof Sys2Proof.Machine

/-! ## The step and the queue -/

/-- A step with a command waiting is the meaning of the command at the front, on the state with the queue's rest. -/
def Obligations.StepRunsFrontCommand : Prop :=
  ∀ (c : Instr) (rest : List Instr) (s : State), s.pending = c :: rest → step s = exec c { s with pending := rest }

/-- With no command waiting, a step runs the unit whose bay-clock time has come, in the order sweep, probe unit, Lane A's and Lane
B's proving session; with none due the bay clock counts one microsecond, and stays while RESET_N is held (R170). The choice of
what an idle step does is the model's (log 1). -/
def Obligations.IdleStepRunsADueUnitOrCountsAMicrosecond : Prop :=
  ∀ s : State, s.pending = [] →
    (s.sweepDue = true → step s = exec .sweepPeriodBoundary s)
    ∧ (s.sweepDue = false → s.probeDue.isSome = true → step s = exec .probeBoundary s)
    ∧ (s.sweepDue = false → s.probeDue = none → s.provingDue .a = true → step s = exec (.provingFrame .a) s)
    ∧ (s.sweepDue = false → s.probeDue = none → s.provingDue .a = false → s.provingDue .b = true →
        step s = exec (.provingFrame .b) s)
    ∧ (s.sweepDue = false → s.probeDue = none → s.provingDue .a = false → s.provingDue .b = false →
        step s = .next (if s.resetHeld then s else { s with bayClock := s.bayClock + 1 }))

/-- Every command has an outcome on every state: no step faults and none is refused. An event commanded when it has no occasion changes
nothing: an intake with no frame to take, a grant out of its turn, a boundary before its time, the end of a transmission that is not
under way. That is the model's choice (log 2), as is the half range in which a time counts as reached (log 24). A notice and a visit
have an occasion in their turn, and as the grant in hand at the claim of a timed operation that waits (log 35). -/
def Obligations.EveryCommandHasAnOutcomeAndNoOccasionNoEffect : Prop :=
  (∀ s : State, ∃ t, step s = .next t)
  ∧ (∀ s : State,
      (∀ l, s.nextFrame (.lane l) = none → exec (.laneIntake l) s = .next s)
      ∧ (∀ p, s.nextFrame (.bay p) = none → exec (.bayIntake p) s = .next s)
      ∧ (∀ p, s.granted p .lookup = false → exec (.lookupByKey p) s = .next s)
      ∧ (∀ p, s.granted (.bay p) .search = false → exec (.patternSearch p) s = .next s)
      ∧ (s.noticeTurn = none → exec .noticeGrant s = .next s)
      ∧ (s.visitTurn = false → exec .sweepVisit s = .next s)
      ∧ (s.turn ≠ .timed → ∀ i ∈ [Instr.installGrant, .amendGrant, .retireGrant, .holdGrant, .releaseGrant, .snapshotGrant,
          .snapshotClearGrant], exec i s = .next s)
      ∧ (s.sweepDue = false → exec .sweepPeriodBoundary s = .next s)
      ∧ (s.probeDue = none → exec .probeBoundary s = .next s)
      ∧ (∀ l, s.provingDue l = false → exec (.provingFrame l) s = .next s)
      ∧ (∀ p, (s.port p).sending = none → exec (.transmissionEnd p) s = .next s)
      ∧ (s.resetHeld = false → exec .resetNHigh s = .next s)
      ∧ (s.reading = false → ∀ o, exec (.transfer o) s = .next s))

/-- The shortest frame that spells a command of the command port is read as that command, for every well-formed command and every
value of its arguments (12.4). Which row of the table spells a frame cut short before its arguments are complete (one kind of command
has one such row), a PORT COMMAND with an action that is none of the five, and a frame that ends before a whole command byte, is the
model's choice and no word of 12.4 (log 9). -/
def Obligations.CommandFrameReadsBackAsItsCommand : Prop :=
  ∀ (i : Instr) (frame : List Byte), i.wellFormed = true → frameOfCommand i = some frame → commandOfFrame frame = i

/-! ## The three starts and the image load (spec/11) -/

/-- What power-on leaves, for the state the spec gives reset values: the settings of R163, the flags and the status byte 0 (R158,
R165), the table all FREE, its lists empty and no grant in hand (R37), the sweep stopped (R78), the ports OFF and their counters 0 (R123, R130), the pool free (R145), the tallies 0 (R154), the probe unit stopped and the roster ABSENT (R131), the loader READING (R170). That
State.reset stands for power-on, with the pin high and every link signal mark clear, is the model's choice (log 4), and so is that the
bus clear of R171 has gone out as the load begins (log 38); the model's own fields (log 22) are left out. -/
def Obligations.ResetLeavesTheSpecsValues : Prop :=
  State.reset.settings = ⟨0, 0, 40, 0x9B1E, 0x01B6, 0x2E00, 0x0001, 10, 3, 1, 0, 0, 0, 0, 0, 1536, 32, 64, 32, 16, 8, 0x01FF⟩
    ∧ State.reset.flags = 0 ∧ State.reset.statusByte = 0x00 ∧ State.reset.inFlight = none ∧ State.reset.inHand = none
    ∧ State.reset.staging = List.replicate 7 0 ++ [20] ++ List.replicate 24 0
    ∧ State.reset.frontView = List.replicate 96 0 ∧ State.reset.backView = List.replicate 96 0 ∧ State.reset.cursor = 0
    ∧ (∀ h, State.reset.record h = Record.free) ∧ State.reset.attentionSet = [] ∧ State.reset.notices = []
    ∧ State.reset.rotation = .lane .a
    ∧ State.reset.sweep.position = 512 ∧ State.reset.sweep.periodStart = 0 ∧ State.reset.sweep.passOwed = false
    ∧ State.reset.sweep.overruns = 0
    ∧ (∀ p, (State.reset.port p).state = .off ∧ (State.reset.port p).counters = PortCounters.zero
        ∧ (State.reset.port p).flaps = [] ∧ (State.reset.port p).store = [] ∧ (State.reset.port p).descriptors = []
        ∧ (State.reset.port p).quota = 0)
    ∧ (∀ l, (State.reset.provingOf l).sequence = 0 ∧ (State.reset.provingOf l).sent = 0 ∧ (State.reset.provingOf l).returned = 0
        ∧ (State.reset.provingOf l).lastTrip = 0 ∧ (State.reset.provingOf l).longestTrip = 0)
    ∧ State.reset.freeCells = 384 ∧ (∀ h, State.reset.tally h = 0)
    ∧ State.reset.probe.ring = .noRing ∧ State.reset.probe.missA = 0 ∧ State.reset.probe.missB = 0
    ∧ State.reset.probe.serials = [] ∧ State.reset.probe.clashes = 0 ∧ State.reset.probe.boundary = none
    ∧ (∀ k, State.reset.rosterEntry k = RosterEntry.absent)
    ∧ State.reset.loader.state = .reading ∧ State.reset.loader.store = [] ∧ State.reset.loader.tries = 0
    ∧ State.reset.loader.skipped = 0 ∧ State.reset.loader.busOut = [.clockPulses 9, .stop] ∧ State.reset.bayClock = 0

/-- POWER_ON starts the part afresh with each link signal mark as the far end gives it (R130, R170). RESET_N_LOW does so with the marks
as they stand and holds the part, and RESET_N_HIGH lets the load begin at bay clock 0. FULL RESET does so but keeps FREEZE and EPOCH,
whatever the load is doing (R167); while RESET_N is held the load that follows stays the pin's. Each load begins by clearing the
two-wire bus: nine clock pulses, then a stop condition (R171). What becomes of the queue, the count of free values, the pin itself and
the fields the model adds is the model's choice, and so is that the bus clear goes out in the step that begins the load (log 4, log 5,
log 6, log 22, log 38). -/
def Obligations.EveryStartPutsThePartAtItsResetValues : Prop :=
  (∀ (signal : PortMap Bool) (s : State),
      exec (.powerOn signal) s = .next { State.reset with
          pending := s.pending, draws := s.draws, resetHeld := s.resetHeld
          loader := { Loader.reset with busOut := if s.resetHeld then [] else [.clockPulses 9, .stop] }
          ports := ⟨.reset signal.laneA, .reset signal.laneB, .reset signal.p0, .reset signal.p1, .reset signal.p2,
            .reset signal.p3⟩ }
      ∧ exec .resetNLow s = .next { State.reset with
          pending := s.pending, draws := s.draws, resetHeld := true
          loader := { Loader.reset with busOut := [] }
          ports := ⟨.reset s.ports.laneA.signal, .reset s.ports.laneB.signal, .reset s.ports.p0.signal,
            .reset s.ports.p1.signal, .reset s.ports.p2.signal, .reset s.ports.p3.signal⟩ }
      ∧ (s.resetHeld = true → exec .resetNHigh s = .next { s with
          resetHeld := false, bayClock := 0, loader := { Loader.reset with busOut := [.clockPulses 9, .stop] } }))
  ∧ (∀ s : State,
      exec .fullReset s = .next { State.reset with
          pending := s.pending, draws := s.draws, resetHeld := s.resetHeld
          settings := { Settings.reset with freeze := s.settings.freeze, epoch := s.settings.epoch }
          ports := ⟨.reset s.ports.laneA.signal, .reset s.ports.laneB.signal, .reset s.ports.p0.signal,
            .reset s.ports.p1.signal, .reset s.ports.p2.signal, .reset s.ports.p3.signal⟩
          loader := { Loader.reset with
            afterFullReset := !s.resetHeld, busOut := if s.resetHeld then [] else [.clockPulses 9, .stop] }
          spiOut := [s.statusByte] })

/-- A try that fails counts and is followed by another try of the same transfer; after the third the load fails: READY, LOAD_FAILED
and the LOADED flag are set, each OFF lane goes UP or DOWN by its mark, the settings and the table stay, and the sweep and the
probe unit start at that bay-clock time (R171, R176). A lane that is not OFF, which no reading load has, is left alone. A transfer
that succeeds puts its bytes in the load store; a header must hold "BW62", format 1 and at most 64 records or the load fails at
once, and the parts after it but the checksum are not judged as they come (R171, R172). On the two-wire bus a try sends start, the
device address 0x53 to write, the part's EEPROM address, high byte first, repeated start and 0x53 to read; it stops at the byte that is
not acknowledged, or answers each byte it reads, the last one without an acknowledge, and stops (R171). That the count moves as a try
completes, and the form of what is sent, are the model's (log 10, log 38). -/
def Obligations.TransferTriesAndPartsOfTheImage : Prop :=
  (∀ s : State, s.loader.state = .reading → s.resetHeld = false →
      let tries := if s.loader.retrying then s.loader.tries + 1 else 1
      let address : Word := BitVec.ofNat 16 s.loader.store.length
      let sent (which : AddressByte) : List BusItem := match which with
        | .deviceToWrite => [.start, .device 0x53 .write, .stop]
        | .partHigh => [.start, .device 0x53 .write, .byte (address.extractLsb' 8 8), .stop]
        | .partLow => [.start, .device 0x53 .write, .byte (address.extractLsb' 8 8), .byte (address.extractLsb' 0 8), .stop]
        | .deviceToRead => [.start, .device 0x53 .write, .byte (address.extractLsb' 8 8), .byte (address.extractLsb' 0 8),
            .repeatedStart, .device 0x53 .read, .stop]
      ∀ which : AddressByte,
      (tries < 3 → exec (.transfer (.notAcknowledged which)) s =
          .next { s with loader := { s.loader with tries := tries, retrying := true, busOut := sent which } })
      ∧ (3 ≤ tries → ∃ t, exec (.transfer (.notAcknowledged which)) s = .next t
          ∧ t.loader.busOut = sent which ∧ t.ready = true ∧ t.loadFailed = true ∧ t.flag .loaded = true ∧ t.loader.tries = tries
          ∧ t.settings = s.settings ∧ t.table = s.table
          ∧ (∀ l, (s.port (.lane l)).state = .off →
              (t.port (.lane l)).state = (if (s.port (.lane l)).signal then .up else .down) ∧ t.flag .port = true)
          ∧ (∀ p, t.port (.bay p) = s.port (.bay p))
          ∧ t.sweep.periodStart = s.bayClock
          ∧ t.probe.boundary = some (s.bayClock + milliseconds s.settings.probeInterval)))
  ∧ (∀ (s : State) (bytes : List Byte), s.loader.state = .reading → s.resetHeld = false →
      bytes.length = partSize s.loader.store →
      let address : Word := BitVec.ofNat 16 s.loader.store.length
      let sent : List BusItem :=
        [.start, .device 0x53 .write, .byte (address.extractLsb' 8 8), .byte (address.extractLsb' 0 8), .repeatedStart,
          .device 0x53 .read] ++ List.replicate (bytes.length - 1) .acknowledge ++ [.noAcknowledge, .stop]
      let loader : Loader :=
        { s.loader with
          tries := if s.loader.retrying then s.loader.tries + 1 else 1, retrying := false
          store := s.loader.store ++ bytes, busOut := sent }
      (bytes.length = 46 ∨ bytes.length = 34 →
        exec (.transfer (.acknowledged bytes)) s = .next { s with loader := loader })
      ∧ (bytes.length = 8 → s.loader.store = [] →
          (bytes.take 4 = [0x42, 0x57, 0x36, 0x32] → wordAt bytes 6 = 1 → (wordAt bytes 4).toNat ≤ 64 →
            exec (.transfer (.acknowledged bytes)) s = .next { s with loader := loader })
          ∧ (¬ (bytes.take 4 = [0x42, 0x57, 0x36, 0x32] ∧ wordAt bytes 6 = 1 ∧ (wordAt bytes 4).toNat ≤ 64) →
            ∃ t, exec (.transfer (.acknowledged bytes)) s = .next t ∧ t.loadFailed = true ∧ t.loader.store = bytes
              ∧ t.loader.busOut = sent ∧ t.settings = s.settings ∧ t.table = s.table)))

/-- The checksum transfer ends the load. When the sum agrees and the settings block passes, the settings become the block's, but
FREEZE, which takes the image's bits beside its own, and EPOCH after a FULL RESET, which is kept and incremented modulo 16; the
standing records stand as the loader installs them one by one in image order, as many as the word at byte 4 says, record k with its
target handle at byte 54 + 34k and its 32-byte staging image after it; each OFF port whose bit the port enable word sets goes UP or DOWN
by its mark; the load state is LOADED and the LOADED flag is set (R172, R173, R174, R175, 12.5). Otherwise the load fails with the
settings and the table as they were (R176). Either way the sweep starts: its period begins at the bay clock's reading, of the SWEEP PERIOD then in force,
and a pass begins at handle 0, whose first claim is the lowest handle that SWEEP MASK does not name (R79, R93). And the probe unit starts:
its first boundary falls one interval on, both miss counts become 15 on a node with a number, the answered marks and the serial list stay,
and the ring state is OPEN, or NONE at NODE 0 (R132, R175). The settings block passes when every value lies in its
setting's range (R163), no ATTACHED NODE is a nonzero number equal to NODE (R5, R6), and the two are not the same nonzero number while a
pair is enabled (R6, R122). The model's own in this: bits 15 to 6 of the port enable word are not read (log 12), the clashes are the
union of those R5, R6 and R122 forbid (log 13), the block is judged as the checksum is (log 14), and masked handles are passed over at
once (log 23). -/
def Obligations.ChecksumTransferAppliesTheImageOrFails : Prop :=
  (∀ (s : State) (bytes : List Byte), s.loader.state = .reading → s.resetHeld = false →
    partSize s.loader.store = 2 → bytes.length = 2 →
    let store := s.loader.store ++ bytes
    let value (number : Nat) : Word := wordAt store (8 + 2 * number)
    let block : Settings :=
      { node := value 0, epoch := value 1, hopLimit := value 2, tagType := value 3, probeGroup0 := value 4, probeGroup1 := value 5
        probeGroup2 := value 6, probePeriod := value 7, probeMissLimit := value 8, sweepPeriod := value 9, sweepMask := value 10
        freeze := value 11, pairEnable := value 12, attachedNode0 := value 13, attachedNode1 := value 14, maxFrame := value 15
        queueCapTrip := value 16, queueCapSample := value 17, queueCapStatus := value 18, statusQuota := value 19
        flapLimit := value 20, attnMask := value 21 }
    let enabled (p : Port) : Bool := (wordAt store 52).getLsbD (match p with
      | .lane .a => 0 | .lane .b => 1 | .bay .p0 => 2 | .bay .p1 => 3 | .bay .p2 => 4 | .bay .p3 => 5)
    let applied : Settings :=
      { block with
        freeze := s.settings.freeze
        epoch := if s.loader.afterFullReset then (s.settings.epoch + 1) &&& 0x000F else block.epoch }
    ∃ t, exec (.transfer (.acknowledged bytes)) s = .next t ∧ t.ready = true ∧ t.flag .loaded = true
      ∧ (onesSum s.loader.store = wordAt bytes 0 → block.blockPasses = true →
          t.loader.state = .loaded
          ∧ t.settings = { applied with freeze := s.settings.freeze ||| block.freeze }
          ∧ (∃ u : State, u.settings = applied ∧ u.table = s.table ∧ u.loader.skipped = s.loader.skipped
              ∧ (let w := (List.range (wordAt store 4).toNat).foldl (fun x k =>
                  x.installStanding (wordAt store (54 + 34 * k)).toNat ((store.drop (56 + 34 * k)).take 32)) u
                t.table = w.table ∧ t.loader.skipped = w.loader.skipped))
          ∧ ∀ p, (s.port p).state = .off →
              (t.port p).state = if enabled p then (if (s.port p).signal then .up else .down) else .off)
      ∧ (¬ (onesSum s.loader.store = wordAt bytes 0 ∧ block.blockPasses = true) →
          t.loader.state = .failed ∧ t.settings = s.settings ∧ t.table = s.table)
      ∧ (t.sweep.periodStart = s.bayClock
        ∧ t.sweep.periodLength = (if t.settings.sweepPeriod = 0 then 250 else if t.settings.sweepPeriod = 1 then 500
            else if t.settings.sweepPeriod = 2 then 1000 else 2000)
        ∧ t.sweep.position ≤ 512 ∧ (t.sweep.position < 512 → t.settings.masked t.sweep.position = false)
        ∧ ∀ k, k < t.sweep.position → t.settings.masked k = true)
      ∧ t.probe.boundary = some (s.bayClock + BitVec.ofNat 32 (1000 *
          (if t.settings.node = 0 then 10 else t.settings.probePeriod.toNat)))
      ∧ (t.settings.node ≠ 0 → t.probe.missA = 15 ∧ t.probe.missB = 15)
      ∧ t.probe.answeredA = s.probe.answeredA ∧ t.probe.answeredB = s.probe.answeredB ∧ t.probe.serials = s.probe.serials
      ∧ (t.settings.probeMissLimit.toNat ≤ 15 → t.probe.ring = if t.settings.node = 0 then .noRing else .isOpen))
  ∧ (∀ v : Settings, v.blockPasses = true ↔
      (v.node.toNat ≤ 60 ∧ v.epoch.toNat ≤ 15 ∧ (1 ≤ v.hopLimit.toNat ∧ v.hopLimit.toNat ≤ 63) ∧ 0x0600 ≤ v.tagType.toNat
        ∧ (1 ≤ v.probePeriod.toNat ∧ v.probePeriod.toNat ≤ 100) ∧ (1 ≤ v.probeMissLimit.toNat ∧ v.probeMissLimit.toNat ≤ 15)
        ∧ v.sweepPeriod.toNat ≤ 3 ∧ v.sweepMask.toNat ≤ 0xFF ∧ v.freeze.toNat ≤ 0xFF ∧ v.pairEnable.toNat ≤ 3
        ∧ v.attachedNode0.toNat ≤ 60 ∧ v.attachedNode1.toNat ≤ 60 ∧ (v.maxFrame = 1536 ∨ v.maxFrame = 2048)
        ∧ (1 ≤ v.queueCapTrip.toNat ∧ v.queueCapTrip.toNat ≤ 128) ∧ (1 ≤ v.queueCapSample.toNat ∧ v.queueCapSample.toNat ≤ 128)
        ∧ (1 ≤ v.queueCapStatus.toNat ∧ v.queueCapStatus.toNat ≤ 128) ∧ (1 ≤ v.statusQuota.toNat ∧ v.statusQuota.toNat ≤ 255)
        ∧ v.flapLimit.toNat ≤ 15 ∧ v.attnMask.toNat ≤ 0x01FF)
      ∧ (v.attachedNode0 = 0 ∨ v.attachedNode0 ≠ v.node) ∧ (v.attachedNode1 = 0 ∨ v.attachedNode1 ≠ v.node)
      ∧ (v.attachedNode0 = 0 ∨ v.attachedNode0 ≠ v.attachedNode1
        ∨ (v.pairEnable.getLsbD 0 = false ∧ v.pairEnable.getLsbD 1 = false)))

/-- A standing record whose handle is 511 or below, free, well-formed and of a key no record holds is installed ARMED at its handle;
any other is skipped, changes nothing and adds one to the skipped count. FREEZE is not asked (R174). A staging image presents a
configuration exactly when its fields lie in their ranges and the conditions of R23 hold under the settings (R20, R22, R23, R178); its
fields are those of the 18 bytes of 12.3, and those of no effect for the kind are 0 (R95, R179). That the match bytes of an
ORIGINATED-SINGLE record are kept as staged while its match mark is clear is the model's reading (log 25). -/
def Obligations.StandingRecordAndTheConfigurationOfItsImage : Prop :=
  (∀ (s : State) (h : Nat) (image : List Byte),
    (∀ c, h ≤ 511 → (s.record h).state = .free → presented s.settings image = some c → s.keyHeld c.origin c.stream = false →
      (s.installStanding h image).record h = { Record.free with state := .armed, config := c, noHighest := true }
      ∧ s.otherRecordsKept (s.installStanding h image) h
      ∧ s.installStanding h image = { s with table := (s.installStanding h image).table })
    ∧ (511 < h ∨ (s.record h).state ≠ .free ∨ presented s.settings image = none
        ∨ (∃ c, presented s.settings image = some c ∧ s.keyHeld c.origin c.stream = true) →
      s.installStanding h image = { s with loader := { s.loader with skipped := s.loader.skipped + 1 } }))
  ∧ (∀ (v : Settings) (image : List Byte),
      let b0 := byteAt image 0
      let b1 := byteAt image 1
      let b4 := byteAt image 4
      let kind := (b0.extractLsb' 6 2).toNat
      let mode := (b0.extractLsb' 3 3).toNat
      let origin := (b1.extractLsb' 0 6).toNat
      let own := v.node ≠ 0 ∧ (origin = v.node.toNat
        ∨ (v.pairEnable.getLsbD 0 = true ∧ v.attachedNode0 ≠ 0 ∧ origin = v.attachedNode0.toNat)
        ∨ (v.pairEnable.getLsbD 1 = true ∧ v.attachedNode1 ≠ 0 ∧ origin = v.attachedNode1.toNat))
      ((presented v image).isSome = true ↔
        kind ≤ 2 ∧ (b1.extractLsb' 6 2).toNat ≤ 2 ∧ (1 ≤ origin ∧ origin ≤ 60) ∧ (wordAt image 2).toNat ≤ 16381
        ∧ (1 ≤ (wordAt image 5).toNat ∧ (wordAt image 5).toNat ≤ 10000)
        ∧ (kind ≠ 1 → 1 ≤ (byteAt image 7).toNat ∧ 1 ≤ (b4.extractLsb' 0 4).toNat ∧ b0.getLsbD 2 = false ∧ b0.getLsbD 0 = false)
        ∧ (kind = 0 → mode = 0 ∧ ¬ own)
        ∧ (kind = 1 → 1 ≤ mode ∧ mode ≤ 4 ∧ v.node ≠ 0 ∧ origin = v.node.toNat ∧ v.pairEnable.getLsbD ((mode - 1) / 2) = false)
        ∧ (kind = 2 → (mode = 5 ∧ v.pairEnable.getLsbD 0 = true ∧ v.attachedNode0 ≠ 0 ∧ origin = v.attachedNode0.toNat)
          ∨ (mode = 6 ∧ v.pairEnable.getLsbD 1 = true ∧ v.attachedNode1 ≠ 0 ∧ origin = v.attachedNode1.toNat))
        ∧ (v.pairEnable.getLsbD 0 = true → b4.getLsbD 4 = b4.getLsbD 5)
        ∧ (v.pairEnable.getLsbD 1 = true → b4.getLsbD 6 = b4.getLsbD 7))
      ∧ ∀ c, presented v image = some c →
        c.kind = (if kind = 0 then .subscribed else if kind = 1 then .originatedSingle else .originatedPair)
        ∧ c.legMode = (if mode = 0 then .ring else if mode = 1 then .single .p0 else if mode = 2 then .single .p1
            else if mode = 3 then .single .p2 else if mode = 4 then .single .p3 else if mode = 5 then .pair .pair0 else .pair .pair1)
        ∧ c.cls = (if b1.extractLsb' 6 2 = 0 then .trip else if b1.extractLsb' 6 2 = 1 then .sample else .status)
        ∧ c.origin = b1.extractLsb' 0 6 ∧ c.stream = (wordAt image 2).extractLsb' 0 14 ∧ c.delivery = b4.extractLsb' 4 4
        ∧ c.renewalLimit = wordAt image 5
        ∧ (kind ≠ 1 → c.missThreshold = b4.extractLsb' 0 4 ∧ c.twinWindow = byteAt image 7 ∧ c.matchPresent = false
          ∧ c.ignoreLocal = false ∧ c.dest = 0 ∧ c.frameType = 0 ∧ c.appTag = 0 ∧ c.announcedPresent = false ∧ c.announced = 0)
        ∧ (kind = 1 → c.missThreshold = 0 ∧ c.twinWindow = 0 ∧ c.matchPresent = b0.getLsbD 2 ∧ c.ignoreLocal = b0.getLsbD 1
          ∧ c.dest = addressAt image 8 ∧ c.frameType = wordAt image 14 ∧ c.appTag = wordAt image 16
          ∧ c.announcedPresent = b0.getLsbD 0 ∧ c.announced = if b0.getLsbD 0 then byteAt image 7 else 0))

/-! ## Links, ports and proving (spec/07) -/

/-- Link signal present: the mark is set; a DOWN port goes UP, sets PORT, and as a lane moves the ring state; in every other state
nothing else changes (R115, R137). Link signal lost in UP is a flap: entries of a second and older leave the history, the rest and the
present flap are counted against FLAP LIMIT, and the port goes to ISOLATED or DOWN, flushed, with the present time entered (R118,
R120). Lost elsewhere: a lane in PROVING goes to DOWN, flushed, and enters no flap; in OFF, DOWN and ISOLATED the mark alone is
cleared (R115, R129). A flush takes each queued copy and the one in transmission from its frame's outstanding copies and from its
handle's tally: a frame with none left holds no cell, and a tally that falls to 0 lists its notice (R155). -/
def Obligations.LinkEventsMoveThePort : Prop :=
  (∀ (p : Port) (s : State),
      ((s.port p).state ≠ .down →
        exec (.linkSignalPresent p) s = .next { s with ports := s.ports.set p { s.port p with signal := true } })
      ∧ ((s.port p).state = .down → ∃ t, exec (.linkSignalPresent p) s = .next t
          ∧ t.port p = { s.port p with signal := true, state := .up }
          ∧ s.otherPortsKept t p ∧ t.flag .port = true ∧ s.onlyPortsMove t
          ∧ s.copiesStay t
          ∧ match p with
            | .lane _ => s.ringFollows t false
            | .bay _ => t.probe = s.probe ∧ t.flags = s.flags ||| Flag.port.mask))
  ∧ (∀ (p : Port) (s : State), (s.port p).state = .up →
      let kept := (s.port p).flaps.filter (fun x => decide ((s.bayClock - x).toNat < 1000000))
      let limit := s.settings.flapLimit.toNat
      let new : PortState := if limit ≠ 0 ∧ limit ≤ kept.length + 1 then .isolated else .down
      ∃ t, exec (.linkSignalLost p) s = .next t
        ∧ t.port p = { (s.port p).after new with
            signal := false, flaps := (if 15 ≤ kept.length then kept.drop 1 else kept) ++ [s.bayClock] }
        ∧ s.otherPortsKept t p ∧ t.flag .port = true ∧ s.onlyPortsMove t ∧ s.copiesLeave t (s.port p).descriptors
        ∧ match p with
          | .lane _ => s.ringFollows t true
          | .bay _ => t.probe = s.probe)
  ∧ (∀ (p : Port) (s : State),
      ((s.port p).state = .proving → ∃ t, exec (.linkSignalLost p) s = .next t
          ∧ t.port p = { (s.port p).after .down with signal := false }
          ∧ s.otherPortsKept t p ∧ t.flag .port = true ∧ s.onlyPortsMove t ∧ t.probe = s.probe
          ∧ s.copiesLeave t (s.port p).descriptors)
      ∧ ((s.port p).state = .off ∨ (s.port p).state = .down ∨ (s.port p).state = .isolated →
        exec (.linkSignalLost p) s = .next { s with ports := s.ports.set p { s.port p with signal := false } }))

/-- ON takes an OFF port, and REINSTATE an ISOLATED one, to UP or DOWN by its link signal mark; REINSTATE empties the flap history
(R116, R121). A lane's change moves the ring state on a state that has the ring law. END PROVE takes a lane
in PROVING to UP with its queues flushed, each copy leaving its frame and its handle's tally; the proving record stays as the session
left it (R129, R155). -/
def Obligations.OnReinstateAndEndProveBringAPortBack : Prop :=
  (∀ (n : Byte) (p : Port) (s : State), s.ready = true → portOfNumber n = some p →
      let new : PortState := if (s.port p).signal then .up else .down
      ((s.port p).state = .off → ∃ t, exec (.portOn (.whole n)) s = .next (s.replied t 2 .done [])
          ∧ t.port p = (s.port p).after new ∧ s.otherPortsKept t p ∧ t.flag .port = true ∧ s.onlyPortsMove t
          ∧ s.copiesStay t
          ∧ match p with | .lane _ => RingLaw s → s.ringFollows t false | .bay _ => t.probe = s.probe)
      ∧ ((s.port p).state = .isolated → ∃ t, exec (.reinstate n) s = .next (s.replied t 2 .done [])
          ∧ t.port p = { (s.port p).after new with flaps := [] } ∧ s.otherPortsKept t p ∧ t.flag .port = true
          ∧ s.onlyPortsMove t ∧ s.copiesStay t
          ∧ match p with | .lane _ => RingLaw s → s.ringFollows t false | .bay _ => t.probe = s.probe))
  ∧ (∀ (n : Byte) (l : Lane) (s : State), s.ready = true → portOfNumber n = some (.lane l) →
      (s.port (.lane l)).state = .proving →
      ∃ t, exec (.endProve n) s = .next (s.replied t 2 .done [])
        ∧ t.port (.lane l) = (s.port (.lane l)).after .up ∧ s.otherPortsKept t (.lane l) ∧ t.flag .port = true
        ∧ t.proving = s.proving ∧ s.onlyPortsMove t ∧ s.ringFollows t false
        ∧ s.copiesLeave t (s.port (.lane l)).descriptors)

/-- OFF takes a port in any other state to OFF: flushed out of UP and PROVING, its flap history empty, PORT set (R116, R118). Each flushed
copy leaves its frame, whose cells are free with the last of them, and its handle's tally, whose fall to 0 lists a notice (R155). The
refusals of PORT COMMAND: a port number above 5, and PROVE or END PROVE on a bay port, give BAD_VALUE, a state or a NODE of 0 that
forbids the action gives WRONG_STATE, and a refused command changes nothing (R116). -/
def Obligations.OffFlushesAndRefusedPortCommandsChangeNothing : Prop :=
  (∀ (n : Byte) (p : Port) (s : State), s.ready = true → portOfNumber n = some p → (s.port p).state ≠ .off →
      ∃ t, exec (.portOff n) s = .next (s.replied t 2 .done [])
        ∧ t.port p = { (s.port p).after .off with flaps := [] } ∧ s.otherPortsKept t p ∧ t.flag .port = true
        ∧ s.onlyPortsMove t
        ∧ ((s.port p).state = .up ∨ (s.port p).state = .proving → s.copiesLeave t (s.port p).descriptors)
        ∧ ((s.port p).state = .down ∨ (s.port p).state = .isolated → s.copiesStay t)
        ∧ match p with | .lane _ => RingLaw s → s.ringFollows t (s.isUp p) | .bay _ => t.probe = s.probe)
  ∧ (∀ (n : Byte) (s : State), s.ready = true →
      (5 < n.toNat → exec (.portOn (.whole n)) s = .next (s.replied s 2 .badValue [])
        ∧ exec (.portOff n) s = .next (s.replied s 2 .badValue []) ∧ exec (.prove n) s = .next (s.replied s 2 .badValue [])
        ∧ exec (.endProve n) s = .next (s.replied s 2 .badValue [])
        ∧ exec (.reinstate n) s = .next (s.replied s 2 .badValue []))
      ∧ (∀ q : BayPort, portOfNumber n = some (.bay q) → exec (.prove n) s = .next (s.replied s 2 .badValue [])
          ∧ exec (.endProve n) s = .next (s.replied s 2 .badValue []))
      ∧ ∀ p, portOfNumber n = some p →
          ((s.port p).state ≠ .off → exec (.portOn (.whole n)) s = .next (s.replied s 2 .wrongState []))
          ∧ ((s.port p).state = .off → exec (.portOff n) s = .next (s.replied s 2 .wrongState []))
          ∧ ((s.port p).state ≠ .isolated → exec (.reinstate n) s = .next (s.replied s 2 .wrongState []))
          ∧ ((∃ l, p = .lane l) → (s.port p).state ≠ .up ∨ s.settings.node = 0 →
              exec (.prove n) s = .next (s.replied s 2 .wrongState []))
          ∧ ((∃ l, p = .lane l) → (s.port p).state ≠ .proving → exec (.endProve n) s = .next (s.replied s 2 .wrongState [])))

/-- PROVE takes an UP lane of a node with a number to PROVING: its queues are flushed, each copy leaving its frame and its handle's tally,
its proving record is cleared, and the first proving frame of the session is made; with a cell free and a TRIP capacity of one or more it counts (R116, R125, R126) and goes into
transmission. That an idle transmitter takes it within the same step is the model's deduction from R152 (log 31), and nextAt is the
model's own field (log 22). -/
def Obligations.ProveOpensASessionWithItsFirstFrame : Prop :=
  ∀ (n : Byte) (l : Lane) (s : State), s.ready = true → portOfNumber n = some (.lane l) →
    (s.port (.lane l)).state = .up → s.settings.node ≠ 0 → 0 < s.freeCells → s.settings.queueCapTrip ≠ 0 →
    ∃ t d f, exec (.prove n) s = .next (s.replied t 2 .done [])
      ∧ (t.port (.lane l)).state = .proving ∧ s.otherPortsKept t (.lane l) ∧ t.flag .port = true
      ∧ t.provingOf l = { sequence := 1, sent := 1, returned := 0, lastTrip := 0, longestTrip := 0, nextAt := s.bayClock + 1000 }
      ∧ (t.port (.lane l)).descriptors = [d] ∧ (t.port (.lane l)).sending = some d ∧ d.handle = none ∧ d.form = .asStored
      ∧ f.name = d.frame
      ∧ (∃ u, s.copiesLeave u (s.port (.lane l)).descriptors
          ∧ t.pool = u.pool ++ [f] ∧ t.tallies = u.tallies ∧ t.notices = u.notices)
      ∧ f.bytes = makeFrame s.settings.probeGroup (s.settings.node.extractLsb' 0 8) s.settings.tagType
          { cls := .probe, origin := s.settings.node.extractLsb' 0 6, hops := 1, epoch := s.settings.epoch.extractLsb' 0 4,
            stream := 16382, seq := 0, renewal := 0 }
          ((match l with | .a => 0x00 | .b => 0x01) :: timeBytes s.bayClock)
      ∧ s.ringFollows t true
      ∧ t = { s with
          ports := t.ports, pool := t.pool, nextName := t.nextName, tallies := t.tallies, notices := t.notices
          flags := t.flags, probe := t.probe, proving := s.proving.set l (t.provingOf l) }

/-! ## Receptions and intakes (spec/01, spec/04) -/

/-- A reception begins on a port that is UP or PROVING alone (R117). A reception under way that ends there counts "frames in" and
puts the frame at the receive store's end with its arrival time, the lane's state and MAX FRAME (R9, R10, R62, R146); any other
frame is discarded without a count. -/
def Obligations.ReceptionStoresTheFrameWithItsArrivalTime : Prop :=
  ∀ (p : Port) (frame : List Byte) (s : State),
    exec (.frameReceptionStart p) s =
      .next (if (s.port p).state = .up ∨ (s.port p).state = .proving then
          { s with ports := s.ports.set p { s.port p with underWay := true } }
        else s)
    ∧ exec (.frameReception p frame) s =
      .next (if (s.port p).underWay = true ∧ ((s.port p).state = .up ∨ (s.port p).state = .proving) then
          { s with ports := s.ports.set p { s.port p with
              underWay := false
              counters := { (s.port p).counters with framesIn := bump (s.port p).counters.framesIn }
              store := (s.port p).store ++ [{
                bytes := frame, arrival := s.bayClock, inProving := (s.port p).state == .proving
                maxFrame := s.settings.maxFrame }] } }
        else s)

/-- The lane intake's discards: a frame of a bad FCS or length, an untagged frame and a frame of an invalid tag leave the store, each
counted by its own counter and nothing else (R10, R11). A frame other than a proving frame whose reception ended in PROVING is discarded
and counts nothing (R9). A data frame of another origin claims a lookup on a node with a number and
waits with its frame in the store; with hops left 0 "hop-expired" counts as it claims (R15, R16, R31). A tag is valid exactly when its
check byte is the CRC-8 of the seven bytes it covers, its origin is in 1..60, and it is of class PROBE just when its stream number is
16382 or 16383 (R2). The state of the lane is the one at the end of the frame's reception (log 16). -/
def Obligations.LaneIntakeDiscardsCountsAndClaims : Prop :=
  (∀ (l : Lane) (f : RxFrame) (s : State), s.nextFrame (.lane l) = some f →
      let u := s.port (.lane l)
      let gone (c : PortCounters) : Host.Outcome State Fault Refusal :=
        .next { s with ports := s.ports.set (.lane l) { u with store := u.store.drop 1, claim := none, counters := c } }
      let whole := fcsMatches f.bytes = true ∧ 64 ≤ f.bytes.length ∧ f.bytes.length ≤ f.maxFrame.toNat
      (¬ whole → exec (.laneIntake l) s = gone { u.counters with fcsErrors := bump u.counters.fcsErrors })
      ∧ (whole → typeWordOf f.bytes ≠ s.settings.tagType →
          exec (.laneIntake l) s = gone { u.counters with untagged := bump u.counters.untagged })
      ∧ (whole → typeWordOf f.bytes = s.settings.tagType → tagValid f.bytes = false →
          exec (.laneIntake l) s = gone { u.counters with tagErrors := bump u.counters.tagErrors })
      ∧ (whole → typeWordOf f.bytes = s.settings.tagType → tagValid f.bytes = true → (tagOf f.bytes).stream ≠ 16382 →
          f.inProving = true → exec (.laneIntake l) s = gone u.counters))
  ∧ (∀ (l : Lane) (f : RxFrame) (s : State), s.nextFrame (.lane l) = some f →
      lengthAndFcsPass f.bytes f.maxFrame.toNat = true → isTagged s.settings.tagType f.bytes = true → tagValid f.bytes = true →
      (tagOf f.bytes).stream.toNat ≤ 16381 → f.inProving = false → s.settings.node ≠ 0 →
      s.settings.ownOrigin (tagOf f.bytes).origin.toNat = false →
      let u := s.port (.lane l)
      exec (.laneIntake l) s = .next { s with ports := s.ports.set (.lane l) { u with
        claim := some .lookup
        counters := if (tagOf f.bytes).hops = 0 then { u.counters with hopExpired := bump u.counters.hopExpired } else u.counters } })
  ∧ (∀ frame : List Byte, tagValid frame = true ↔
      crc8 ((frame.drop 14).take 7) = byteAt frame 21 ∧ 1 ≤ (tagOf frame).origin.toNat ∧ (tagOf frame).origin.toNat ≤ 60
        ∧ ((tagOf frame).cls = .probe ↔ (tagOf frame).stream = 16382 ∨ (tagOf frame).stream = 16383))

/-- Frames that come home. A frame whose origin is in the own-origin set is removed: counted "returned" unless it is this node's own
probe (R13). An own probe is a valid return when its serial is listed and both lanes are UP (R136), changes nothing when a lane is
not UP, and is a clash when its serial is not listed (R139). -/
def Obligations.OwnFramesAreRemovedFromTheRing : Prop :=
  ∀ (l : Lane) (f : RxFrame) (s : State), s.nextFrame (.lane l) = some f →
    lengthAndFcsPass f.bytes f.maxFrame.toNat = true → isTagged s.settings.tagType f.bytes = true → tagValid f.bytes = true →
    (tagOf f.bytes).stream ≠ 16382 → f.inProving = false → s.settings.ownOrigin (tagOf f.bytes).origin.toNat = true →
    let u := s.port (.lane l)
    let serial := wordAt f.bytes 22
    let ownProbe := (tagOf f.bytes).stream = 16383 ∧ (tagOf f.bytes).origin.toNat = s.settings.node.toNat
    let settled : State := { s with ports := s.ports.set (.lane l) { u with store := u.store.drop 1, claim := none } }
    (¬ ownProbe → exec (.laneIntake l) s = .next { s with ports := s.ports.set (.lane l) { u with
          store := u.store.drop 1, claim := none, counters := { u.counters with returned := bump u.counters.returned } } })
    ∧ (ownProbe → serial ∉ s.probe.serials → exec (.laneIntake l) s = .next { settled with
          probe := { s.probe with clashes := bump s.probe.clashes }, flags := s.flags ||| Flag.clash.mask })
    ∧ (ownProbe → serial ∈ s.probe.serials → s.lanesUp = false → exec (.laneIntake l) s = .next settled)
    ∧ (ownProbe → serial ∈ s.probe.serials → s.lanesUp = true → ∃ t, exec (.laneIntake l) s = .next t
        ∧ t = { settled with probe := t.probe, flags := t.flags }
        ∧ (l = .b → t.probe = { s.probe with missA := 0, answeredA := true, ring := t.probe.ring })
        ∧ (l = .a → t.probe = { s.probe with missB := 0, answeredB := true, ring := t.probe.ring })
        ∧ s.ringFollows t false)

/-- Proving frames at a lane intake (R12, R127, R128): discarded on a node of NODE 0; an own frame with hops left 0 counts on a lane in
PROVING as a return with its round trip, and is discarded otherwise; another node's frame with hops left 0 is discarded, and with
hops left is reflected: its one copy, hops left 0, stands in that lane's TRIP traffic when a cell is free and the queue has room.
The state of the lane is the one at the end of the frame's reception (R9; log 16). That an own return counts by the mark taken there,
whatever session stands as its intake takes it, also when END PROVE and a new PROVE came in between, is the model's choice (log 36). -/
def Obligations.ProvingFramesAreCountedReflectedOrDiscarded : Prop :=
  ∀ (l : Lane) (f : RxFrame) (s : State), s.nextFrame (.lane l) = some f →
    lengthAndFcsPass f.bytes f.maxFrame.toNat = true → isTagged s.settings.tagType f.bytes = true → tagValid f.bytes = true →
    (tagOf f.bytes).stream = 16382 →
    let u := s.port (.lane l)
    let settled : State := { s with ports := s.ports.set (.lane l) { u with store := u.store.drop 1, claim := none } }
    let own := (tagOf f.bytes).origin.toNat = s.settings.node.toNat
    let trip := f.arrival - timeAt f.bytes 23
    let r := s.provingOf l
    (s.settings.node = 0 → exec (.laneIntake l) s = .next settled)
    ∧ (s.settings.node ≠ 0 → own → (tagOf f.bytes).hops = 0 → f.inProving = true →
        exec (.laneIntake l) s = .next { settled with
          proving := s.proving.set l { r with
            returned := bump r.returned, lastTrip := trip
            longestTrip := if r.longestTrip < trip then trip else r.longestTrip } })
    ∧ (s.settings.node ≠ 0 → own → (tagOf f.bytes).hops ≠ 0 ∨ f.inProving = false → exec (.laneIntake l) s = .next settled)
    ∧ (s.settings.node ≠ 0 → ¬ own → (tagOf f.bytes).hops = 0 → exec (.laneIntake l) s = .next settled)
    ∧ (s.settings.node ≠ 0 → ¬ own → (tagOf f.bytes).hops ≠ 0 → cellsFor f.bytes.length ≤ s.freeCells →
        u.trip.length < s.settings.queueCapTrip.toNat →
        ∃ t, exec (.laneIntake l) s = .next t ∧ s.onlyTrafficMoves t ∧ s.otherPortsKept t (.lane l)
          ∧ t.pool = s.pool ++ [⟨s.nextName, f.bytes, .trip, 1⟩] ∧ t.tallies = s.tallies ∧ t.flags = s.flags
          ∧ ⟨s.nextName, .hopsRewritten 0, none⟩ ∈ (t.port (.lane l)).descriptors)

/-- Another node's ring probe at a lane intake updates the roster entry of its origin, when its payload's hop limit lies in 1..63 and
not below its hops left: the arrival lane is heard at the arrival time, its distance is the hop limit less the hops left plus one,
and the reported states are the payload's (R16, R140). The states are stated for payload codes that 12.2 names (log 21). A payload that
fails that check updates no entry (R140). Whatever the payload, the probe goes on round the ring: with hops left and the other lane UP
its copy, hops left one less, stands in that lane's TRIP traffic when a cell is free and the queue has room; with hops left 0
"hop-expired" counts; and with no copy to make, pool and queues stay (R14, R15, R17). -/
def Obligations.ProbeFromAnotherNodeUpdatesTheRosterAndGoesOn : Prop :=
  (∀ (l : Lane) (f : RxFrame) (s : State), s.nextFrame (.lane l) = some f →
    lengthAndFcsPass f.bytes f.maxFrame.toNat = true → isTagged s.settings.tagType f.bytes = true → tagValid f.bytes = true →
    (tagOf f.bytes).stream = 16383 → f.inProving = false → s.settings.ownOrigin (tagOf f.bytes).origin.toNat = false →
    1 ≤ (byteAt f.bytes 24).toNat → (byteAt f.bytes 24).toNat ≤ 63 → (tagOf f.bytes).hops.toNat ≤ (byteAt f.bytes 24).toNat →
    let k := (tagOf f.bytes).origin.toNat
    let v : Evidence := { lastHeard := f.arrival, distance := byteAt f.bytes 24 - (tagOf f.bytes).hops.setWidth 8 + 1 }
    ∃ t, exec (.laneIntake l) s = .next t
      ∧ ((t.rosterEntry k).heardA = if l = .a then some v else (s.rosterEntry k).heardA)
      ∧ ((t.rosterEntry k).heardB = if l = .b then some v else (s.rosterEntry k).heardB)
      ∧ ((byteAt f.bytes 25).toNat ≤ 3 → (t.rosterEntry k).ring = RingState.ofCode ((byteAt f.bytes 25).extractLsb' 0 2))
      ∧ ((byteAt f.bytes 26).toNat ≤ 4 → (t.rosterEntry k).laneA = PortState.ofCode (byteAt f.bytes 26).toNat)
      ∧ ((byteAt f.bytes 27).toNat ≤ 4 → (t.rosterEntry k).laneB = PortState.ofCode (byteAt f.bytes 27).toNat)
      ∧ (∀ j, j ≠ k → t.rosterEntry j = s.rosterEntry j)
      ∧ t.flag .roster = (s.flag .roster || (t.rosterEntry k).status != (s.rosterEntry k).status)
      ∧ t = { s with
          ports := t.ports, pool := t.pool, nextName := t.nextName, tallies := t.tallies, flags := t.flags
          probe := { s.probe with roster := t.probe.roster }, draws := t.draws })
  ∧ (∀ (l : Lane) (f : RxFrame) (s : State), s.nextFrame (.lane l) = some f →
      lengthAndFcsPass f.bytes f.maxFrame.toNat = true → isTagged s.settings.tagType f.bytes = true → tagValid f.bytes = true →
      (tagOf f.bytes).stream = 16383 → f.inProving = false → s.settings.ownOrigin (tagOf f.bytes).origin.toNat = false →
      let hops := (tagOf f.bytes).hops
      let payloadPasses := 1 ≤ (byteAt f.bytes 24).toNat ∧ (byteAt f.bytes 24).toNat ≤ 63 ∧ hops.toNat ≤ (byteAt f.bytes 24).toNat
      ∃ t, exec (.laneIntake l) s = .next t
        ∧ (t.port (.lane l)).store = (s.port (.lane l)).store.drop 1 ∧ (t.port (.lane l)).claim = none
        ∧ (hops ≠ 0 → s.isUp (.lane l.other) = true → cellsFor f.bytes.length ≤ s.freeCells →
            (s.port (.lane l.other)).trip.length < s.settings.queueCapTrip.toNat →
            ⟨s.nextName, .hopsRewritten (hops - 1), none⟩ ∈ (t.port (.lane l.other)).descriptors
              ∧ t.pool = s.pool ++ [⟨s.nextName, f.bytes, .trip, 1⟩])
        ∧ (hops = 0 ∨ s.isUp (.lane l.other) = false → t.pool = s.pool ∧ ∀ p, (t.port p).descriptors = (s.port p).descriptors)
        ∧ (hops = 0 → (t.port (.lane l)).counters = { (s.port (.lane l)).counters with
            hopExpired := bump (s.port (.lane l)).counters.hopExpired })
        ∧ (¬ payloadPasses → t.probe = s.probe ∧ t.flag .roster = s.flag .roster))

/-- Transit-only: on a node of NODE 0 a data frame claims no lookup and is settled at once; with hops left and the other lane UP its transit
copy, hops left one less, stands in the other lane's traffic of its class when the pool and the queue have room (R14, R17, R18). With
hops left 0 it has no copy and "hop-expired" adds one on its port (R15); with the other lane not UP it has no copy and no other counter
moves (R14). -/
def Obligations.TransitOnlyNodePassesTheFrameOn : Prop :=
  ∀ (l : Lane) (f : RxFrame) (s : State), s.nextFrame (.lane l) = some f →
    lengthAndFcsPass f.bytes f.maxFrame.toNat = true → isTagged s.settings.tagType f.bytes = true → tagValid f.bytes = true →
    (tagOf f.bytes).stream.toNat ≤ 16381 → f.inProving = false → s.settings.node = 0 →
    let hops := (tagOf f.bytes).hops
    let cls := (tagOf f.bytes).cls.dataClass
    let u := s.port (.lane l)
    let settled : PortUnit := { u with store := u.store.drop 1, claim := none }
    (hops ≠ 0 → s.isUp (.lane l.other) = true → admissible cls (cellsFor f.bytes.length) s.freeCells = true →
      ((s.port (.lane l.other)).queue cls).length < s.settings.queueCap cls →
      ∃ t, exec (.laneIntake l) s = .next t ∧ s.onlyTrafficMoves t ∧ t.port (.lane l) = settled
        ∧ (∀ p : BayPort, t.port (.bay p) = s.port (.bay p))
        ∧ t.pool = s.pool ++ [⟨s.nextName, f.bytes, cls, 1⟩] ∧ t.tallies = s.tallies ∧ t.flags = s.flags
        ∧ ⟨s.nextName, .hopsRewritten (hops - 1), none⟩ ∈ (t.port (.lane l.other)).descriptors)
    ∧ (hops = 0 → exec (.laneIntake l) s = .next { s with ports := s.ports.set (.lane l) { settled with
        counters := { u.counters with hopExpired := bump u.counters.hopExpired } } })
    ∧ (hops ≠ 0 → s.isUp (.lane l.other) = false →
        exec (.laneIntake l) s = .next { s with ports := s.ports.set (.lane l) settled })

/-- The bay intake's discards and claims. On an unpaired port: bad FCS or length, tagged, NODE 0 and otherwise a pattern search (R63,
R64). On a paired port: bad FCS or length, untagged, tag not valid, PROBE or a wrong origin, NODE 0 and otherwise a lookup (R71). -/
def Obligations.BayIntakeDiscardsOrClaims : Prop :=
  ∀ (p : BayPort) (f : RxFrame) (s : State), s.nextFrame (.bay p) = some f →
    let u := s.port (.bay p)
    let gone (c : PortCounters) : Host.Outcome State Fault Refusal :=
      .next { s with ports := s.ports.set (.bay p) { u with store := u.store.drop 1, claim := none, counters := c } }
    let claims (c : IntakeClaim) : Host.Outcome State Fault Refusal :=
      .next { s with ports := s.ports.set (.bay p) { u with claim := some c } }
    let whole (upper : Nat) := fcsMatches f.bytes = true ∧ 64 ≤ f.bytes.length ∧ f.bytes.length ≤ upper
    let tagged := typeWordOf f.bytes = s.settings.tagType
    let wrongOrigin := (tagOf f.bytes).cls = .probe ∨ (tagOf f.bytes).origin.toNat ≠ (s.settings.attached p.pair).toNat
    (s.settings.paired p = false →
      exec (.bayIntake p) s =
        if ¬ whole (f.maxFrame.toNat - 10) then gone { u.counters with fcsErrors := bump u.counters.fcsErrors }
        else if tagged then gone { u.counters with unexpectedTag := bump u.counters.unexpectedTag }
        else if s.settings.node = 0 then gone { u.counters with unclaimed := bump u.counters.unclaimed }
        else claims .search)
    ∧ (s.settings.paired p = true →
      exec (.bayIntake p) s =
        if ¬ whole f.maxFrame.toNat then gone { u.counters with fcsErrors := bump u.counters.fcsErrors }
        else if ¬ tagged then gone { u.counters with untagged := bump u.counters.untagged }
        else if tagValid f.bytes = false then gone { u.counters with tagErrors := bump u.counters.tagErrors }
        else if wrongOrigin then gone { u.counters with unexpectedTag := bump u.counters.unexpectedTag }
        else if s.settings.node = 0 then gone { u.counters with unclaimed := bump u.counters.unclaimed }
        else claims .lookup)

/-! ## Grants of arrivals (spec/02, spec/03, spec/04) -/

/-- The arbiter's order: a waiting lookup or search, in rotation from the intake after the last one granted, else the timed operation,
else the oldest notice, else the sweep's visit (R31). The rotation goes Lane A, Lane B, P0, P1, P2, P3 and then Lane A again, and a grant
moves it to the intake after the one granted (R31); that a search moves it as a lookup does is the model's deduction (log 18). A notice
acts in its turn and a visit in its turn; the one of them that is the grant in hand at a timed operation's claim may still act out of its
turn, until the arbiter's next grant, and no other notice or visit may. That this one is what R96 lets be granted meanwhile is the model's
choice (log 35). CONTROL RESET withdraws neither: a visit or a notice that may act before it may act after it, also with lookups waiting
(R82). -/
def Obligations.ArbiterGrantsInTheSpecsOrder : Prop :=
  ∀ s : State,
    (∀ p, s.turn = .intake p ↔ s.nextIntake = some p)
    ∧ (∀ p, s.nextIntake = some p → (s.port p).claim.isSome = true
        ∧ ∀ q, q ∈ (rotationFrom s.rotation).takeWhile (fun x => x != p) → (s.port q).claim = none)
    ∧ (s.nextIntake = none ↔ ∀ p, (s.port p).claim = none)
    ∧ (s.nextIntake = none → s.inFlight.isSome = true → s.turn = .timed)
    ∧ (∀ h rest, s.nextIntake = none → s.inFlight = none → s.notices = h :: rest → s.turn = .notice h)
    ∧ (s.nextIntake = none → s.inFlight = none → s.notices = [] → s.sweep.position < 512 → s.turn = .visit)
    ∧ (∀ h, s.noticeTurn = some h ↔ s.turn = .notice h ∨ (s.inHand = some .notice ∧ s.notices.head? = some h))
    ∧ (s.visitTurn = true ↔ s.turn = .visit ∨ (s.inHand = some .visit ∧ s.sweep.position < 512))
    ∧ (s.lowTurn = some .notice ↔ ∃ h, s.turn = .notice h) ∧ (s.lowTurn = some .visit ↔ s.turn = .visit)
    ∧ (rotationFrom (.lane .a) = [.lane .a, .lane .b, .bay .p0, .bay .p1, .bay .p2, .bay .p3]
      ∧ rotationFrom (.lane .b) = [.lane .b, .bay .p0, .bay .p1, .bay .p2, .bay .p3, .lane .a]
      ∧ rotationFrom (.bay .p0) = [.bay .p0, .bay .p1, .bay .p2, .bay .p3, .lane .a, .lane .b]
      ∧ rotationFrom (.bay .p1) = [.bay .p1, .bay .p2, .bay .p3, .lane .a, .lane .b, .bay .p0]
      ∧ rotationFrom (.bay .p2) = [.bay .p2, .bay .p3, .lane .a, .lane .b, .bay .p0, .bay .p1]
      ∧ rotationFrom (.bay .p3) = [.bay .p3, .lane .a, .lane .b, .bay .p0, .bay .p1, .bay .p2])
    ∧ (∀ p, (s.port p).store ≠ [] → s.granted p .lookup = true →
        ∃ t, exec (.lookupByKey p) s = .next t ∧ (rotationFrom p)[1]? = some t.rotation ∧ t.inHand = none)
    ∧ (∀ q, (s.port (.bay q)).store ≠ [] → s.granted (.bay q) .search = true →
        ∃ t, exec (.patternSearch q) s = .next t ∧ (rotationFrom (.bay q))[1]? = some t.rotation ∧ t.inHand = none)
    ∧ (s.ready = true → ∃ t, exec .controlReset s = .next t ∧ t.inHand = s.inHand ∧ t.isBusy = false
        ∧ (s.visitTurn = true → t.visitTurn = true) ∧ ∀ h, s.noticeTurn = some h → t.noticeTurn = some h)

/-- Where an arrival that does not resynchronise is placed, by its distance from H and the mark of its sequence (R40, R43). When an
arrival resynchronises the window: an ARMED record, the no-highest marker, another epoch, a SILENT record unless the epoch is the
record's and the sequence is marked, or a fourth wild arrival in a row (R41). -/
def Obligations.WhereAnArrivalIsPlaced : Prop :=
  (∀ (r : Record) (x : Arrival), r.resyncs x = false →
      let d := (x.seq - r.highest).toNat
      let marked := (r.highest - x.seq).toNat < 64 ∧ r.seen.getLsbD (r.highest - x.seq).toNat = true
      (d = 0 → r.place x = if r.seen.getLsbD 0 then .duplicate else .atTop)
      ∧ (1 ≤ d → d ≤ 1024 → r.place x = .advance)
      ∧ (1025 ≤ d → d ≤ 65472 → r.place x = .wild)
      ∧ (65473 ≤ d → marked → r.place x = .duplicate)
      ∧ (65473 ≤ d → ¬ marked → r.place x = .late))
  ∧ (∀ (r : Record) (x : Arrival),
      r.place x = .resync ↔
        (r.state = .armed ∨ r.noHighest = true ∨ x.epoch ≠ r.epoch
          ∨ (r.state = .silent ∧ ¬ (x.epoch = r.epoch ∧ (r.highest - x.seq).toNat < 64
              ∧ r.seen.getLsbD (r.highest - x.seq).toNat = true))
          ∨ (1025 ≤ (x.seq - r.highest).toNat ∧ (x.seq - r.highest).toNat ≤ 65472 ∧ r.wildCount = 3)))

/-- An advance: H becomes the arrival's sequence, a sequence of the new window other than H keeps the mark the old window gave it and is
unmarked when it was not in it, and "missed" adds the unmarked positions pushed out and the numbers that never enter (R44). -/
def Obligations.AdvanceMovesTheWindowAndCountsTheMissed : Prop :=
  ∀ (r : Record) (x : Arrival), r.resyncs x = false →
    let d := (x.seq - r.highest).toNat
    1 ≤ d → d ≤ 1024 →
    let r' := r.applyPlacement x .advance
    let pushed := ((List.range (min d 64)).filter (fun j => !r.seen.getLsbD (63 - j))).length
    r'.highest = x.seq ∧ r'.wildCount = 0
      ∧ (∀ i, 1 ≤ i → i < 64 → r'.seen.getLsbD i = (decide (d ≤ i) && r.seen.getLsbD (i - d)))
      ∧ r'.counters = { r.counters with
          accepted := bump r.counters.accepted, missed := bumpBy r.counters.missed (pushed + (d - 64)) }

/-- A tagged frame's lookup that finds a record that takes it: the frame is settled, the rotation moves on, and of the table only that
record changes, its configuration and held flag kept (R31, R32, R34, R38). A lookup that finds no record, or one of another kind,
changes no record: a lane frame keeps its transit alone, and a pair port counts "unclaimed" (R16, R34). Whatever the lookup finds, a lane
frame with hops left goes on: with the other lane UP its transit copy, hops left one less and of no handle, stands in that lane's
traffic of its class when the pool and the queue have room; with hops left 0 or the other lane not UP there is none (R14, R17). NODE is
not asked again at the grant, nor a pair port's pairing, which is the model's choice (log 34, log 39). -/
def Obligations.LookupChangesAtMostTheRecordFound : Prop :=
  (∀ (p : Port) (f : RxFrame) (h : Nat) (s : State), s.lookupTakes p f h →
      ∃ t, exec (.lookupByKey p) s = .next t ∧ s.onlyGrantMoves t p ∧ s.otherRecordsKept t h
        ∧ (t.record h).config = (s.record h).config ∧ (t.record h).held = (s.record h).held
        ∧ (t.port p).store = (s.port p).store.drop 1 ∧ (t.port p).claim = none)
  ∧ (∀ (p : Port) (f : RxFrame) (s : State), s.granted p .lookup = true → (s.port p).store.head? = some f →
      (∀ h, s.findKey (tagOf f.bytes).origin (tagOf f.bytes).stream = some h → ¬ s.lookupTakes p f h) →
      ∃ t, exec (.lookupByKey p) s = .next t ∧ t.table = s.table ∧ t.tallies = s.tallies ∧ s.onlyGrantMoves t p
        ∧ match p with
          | .lane l => t.ports = (((s.settleFrame p).rotate p).sendTransit l f.bytes).ports
          | .bay q => t.ports = s.ports.set (.bay q) { s.port p with
              store := (s.port p).store.drop 1, claim := none
              counters := { (s.port p).counters with unclaimed := bump (s.port p).counters.unclaimed } })
  ∧ (∀ (l : Lane) (f : RxFrame) (s : State), s.granted (.lane l) .lookup = true → (s.port (.lane l)).store.head? = some f →
      let hops := (tagOf f.bytes).hops
      let cls := (tagOf f.bytes).cls.dataClass
      ∃ t, exec (.lookupByKey (.lane l)) s = .next t
        ∧ (hops ≠ 0 → s.isUp (.lane l.other) = true → admissible cls (cellsFor f.bytes.length) s.freeCells = true →
            ((s.port (.lane l.other)).queue cls).length < s.settings.queueCap cls →
            ⟨s.nextName, .hopsRewritten (hops - 1), none⟩ ∈ (t.port (.lane l.other)).descriptors
              ∧ ∃ g ∈ t.pool, g.name = s.nextName ∧ g.bytes = f.bytes ∧ g.cls = cls)
        ∧ (hops = 0 ∨ s.isUp (.lane l.other) = false → t.port (.lane l.other) = s.port (.lane l.other)))

/-- A wild arrival adds one to "wild" and to the wild count and changes nothing else on its record (R46). A duplicate makes no copies of
its record, leaves H, the marks, the epoch and the deadline, sets its leg's last arrival time and the wild count 0, and adds one to
"duplicates" and, by its twin entry, to nothing, "echo" or "unmatched duplicates" (R43, R49). A twin that changes its leg's status puts
its record in the attention set and sets ATTENTION, and a LIVE or SINGLE record's state is set anew by its legs (R29, R52, R60). The
first echo while the echo-noted mark is clear sets the mark, joins the set and sets the flag; any other duplicate does neither (R60). -/
def Obligations.WildAndDuplicateArrivalsYieldNoCopies : Prop :=
  (∀ (p : Port) (f : RxFrame) (h : Nat) (s : State), s.lookupTakes p f h →
      let r := s.record h
      r.state.occupied = true → r.place (arrivalOf p f) = .wild →
      ∃ t, exec (.lookupByKey p) s = .next t
        ∧ t.record h = { r with
            wildCount := r.wildCount + 1, counters := { r.counters with wild := bump r.counters.wild } }
        ∧ t.flag .attention = s.flag .attention ∧ t.tallies = s.tallies)
  ∧ (∀ (p : Port) (f : RxFrame) (h : Nat) (s : State), s.lookupTakes p f h →
      let r := s.record h
      let x := arrivalOf p f
      r.place x = .duplicate →
      ∃ t, exec (.lookupByKey p) s = .next t ∧ t.tallies = s.tallies
        ∧ (t.record h).highest = r.highest ∧ (t.record h).seen = r.seen ∧ (t.record h).epoch = r.epoch
        ∧ (t.record h).deadline = r.deadline ∧ (t.record h).running = r.running ∧ (t.record h).wildCount = 0
        ∧ ((t.record h).leg x.leg).lastArrival = f.arrival ∧ (t.record h).leg x.leg.other = r.leg x.leg.other
        ∧ (let joins := (t.record h).inAttention = true ∧ t.flag .attention = true
          let joinsNot := (t.record h).inAttention = r.inAttention ∧ t.flag .attention = s.flag .attention
          let stays := (t.record h).state = r.state
          match r.twinFor x.seq with
          | none => joinsNot ∧ stays ∧ (t.record h).echoNoted = r.echoNoted ∧ (t.record h).twins = r.twins ∧ ((t.record h).leg x.leg).misses = (r.leg x.leg).misses
              ∧ ((t.record h).leg x.leg).status = (r.leg x.leg).status
              ∧ (t.record h).counters = { r.counters with
                  duplicates := bump r.counters.duplicates, unmatched := bump r.counters.unmatched }
          | some e =>
            if e.awaits = x.leg then
              (t.record h).twins = r.twins.filter (fun e => e.seq != x.seq) ∧ ((t.record h).leg x.leg).misses = 0
                ∧ ((t.record h).leg x.leg).status = .ok ∧ (t.record h).echoNoted = r.echoNoted
                ∧ ((r.leg x.leg).status = .ok → joinsNot ∧ stays)
                ∧ ((r.leg x.leg).status ≠ .ok → joins
                    ∧ ((r.state = .live ∨ r.state = .single) → (t.record h).state =
                        if (t.record h).legA.status = .lost ∨ (t.record h).legB.status = .lost then .single else .live)
                    ∧ (r.state ≠ .live → r.state ≠ .single → stays))
                ∧ (t.record h).counters = { r.counters with duplicates := bump r.counters.duplicates }
            else
              (t.record h).twins = r.twins ∧ ((t.record h).leg x.leg).misses = (r.leg x.leg).misses
                ∧ ((t.record h).leg x.leg).status = (r.leg x.leg).status ∧ (t.record h).echoNoted = true ∧ stays
                ∧ (r.echoNoted = false → joins) ∧ (r.echoNoted = true → joinsNot)
                ∧ (t.record h).counters = { r.counters with
                    duplicates := bump r.counters.duplicates, echo := bump r.counters.echo }))

/-- An accepted first copy: "accepted" adds one, the deadline is the arrival time plus the renewal interval and runs, and its leg has the
arrival time and is OK with no misses, unless this same arrival's eviction counted one against it (R43, R48, R53). Its twin is then
awaited: an entry for its sequence that awaits its own leg is removed and none is made; one that awaits the other leg is removed and made
anew at the list's end; with none a new one is appended (R48). A new entry on a list of four evicts the oldest, which counts a miss: its
awaited leg has one more consecutive miss, stopping at 15, and is LOST at or above MISS THRESHOLD, and that leg's twin-miss counter adds
one (R50, R51). A resync clears the marks, takes the arrival's sequence, epoch and a marker that is clear, discards every old entry and
adds one to "resyncs", and keeps the other leg (R42); "late-first" adds one on a late first copy alone, which leaves H (R45). No other
counter moves but "missed" on an advance, "refused" and "injected". The record is LIVE or SINGLE by the leg statuses it leaves (R29);
a resync, a change of state or of a leg's status puts it in the attention set and sets ATTENTION, and an arrival that does none of these
joins nothing (R60). On a held record no copies are made and the sequence is marked seen (R54, R58). -/
def Obligations.FirstCopyIsAccepted : Prop :=
  ∀ (p : Port) (f : RxFrame) (h : Nat) (s : State), s.lookupTakes p f h →
    let r := s.record h
    let x := arrivalOf p f
    let ms := if x.renewal = 0 ∨ r.config.renewalLimit.toNat < x.renewal.toNat then r.config.renewalLimit.toNat else x.renewal.toNat
    let new : TwinEntry :=
      { seq := x.seq, awaits := x.leg.other, deadline := f.arrival + BitVec.ofNat 32 (100 * r.config.twinWindow.toNat) }
    let others := r.twins.filter (fun e => e.seq != x.seq)
    let evicts := 4 ≤ r.twins.length ∧ r.twinFor x.seq = none ∧ r.place x ≠ .resync
    (r.place x).accepted = true →
    ∃ t, exec (.lookupByKey p) s = .next t
      ∧ (t.record h).counters = { r.counters with
          accepted := bump r.counters.accepted
          lateFirst := if r.place x = .late then bump r.counters.lateFirst else r.counters.lateFirst
          resyncs := if r.place x = .resync then bump r.counters.resyncs else r.counters.resyncs
          missed := if r.place x = .advance then (t.record h).counters.missed else r.counters.missed
          twinMissA := (t.record h).counters.twinMissA, twinMissB := (t.record h).counters.twinMissB
          refused := (t.record h).counters.refused, injected := (t.record h).counters.injected }
      ∧ (t.record h).deadline = f.arrival + BitVec.ofNat 32 (1000 * ms) ∧ (t.record h).running = true
      ∧ ((t.record h).leg x.leg).lastArrival = f.arrival ∧ (t.record h).wildCount = 0
      ∧ (r.place x ≠ .late → (t.record h).highest = x.seq) ∧ (r.place x = .late → (t.record h).highest = r.highest)
      ∧ (¬ evicts → (t.record h).leg x.leg = { lastArrival := f.arrival, status := .ok, misses := 0 }
          ∧ (t.record h).leg x.leg.other = r.leg x.leg.other
          ∧ (t.record h).counters.twinMissA = r.counters.twinMissA ∧ (t.record h).counters.twinMissB = r.counters.twinMissB)
      ∧ (r.place x = .resync → (t.record h).twins = [new] ∧ (t.record h).epoch = x.epoch ∧ (t.record h).noHighest = false
          ∧ (∀ i, 1 ≤ i → (t.record h).seen.getLsbD i = false))
      ∧ (r.place x ≠ .resync → (t.record h).epoch = r.epoch ∧ (t.record h).noHighest = r.noHighest
          ∧ (∀ e, r.twinFor x.seq = some e → e.awaits = x.leg → (t.record h).twins = others)
          ∧ (∀ e, r.twinFor x.seq = some e → e.awaits ≠ x.leg → (t.record h).twins = others ++ [new])
          ∧ (r.twinFor x.seq = none → r.twins.length < 4 → (t.record h).twins = r.twins ++ [new]))
      ∧ (evicts → ∀ oldest rest, r.twins = oldest :: rest →
          let before : Leg := if oldest.awaits = x.leg then { lastArrival := f.arrival, status := .ok, misses := 0 } else r.leg oldest.awaits
          (t.record h).twins = rest ++ [new]
          ∧ ((t.record h).leg oldest.awaits).misses = bump before.misses
          ∧ ((t.record h).leg oldest.awaits).status =
              (if r.config.missThreshold.toNat ≤ (bump before.misses).toNat then .lost else before.status)
          ∧ (oldest.awaits ≠ x.leg → (t.record h).leg x.leg = { lastArrival := f.arrival, status := .ok, misses := 0 })
          ∧ (oldest.awaits = x.leg → (t.record h).leg x.leg.other = r.leg x.leg.other)
          ∧ (t.record h).counters.twinMissA = (if oldest.awaits = .a then bump r.counters.twinMissA else r.counters.twinMissA)
          ∧ (t.record h).counters.twinMissB = (if oldest.awaits = .b then bump r.counters.twinMissB else r.counters.twinMissB))
      ∧ (r.state.occupied = true → r.stateLawful = true →
          (t.record h).state = if (t.record h).legA.status = .lost ∨ (t.record h).legB.status = .lost then .single else .live)
      ∧ (r.place x = .resync ∨ (t.record h).state ≠ r.state ∨ (t.record h).legA.status ≠ r.legA.status
          ∨ (t.record h).legB.status ≠ r.legB.status → (t.record h).inAttention = true ∧ t.flag .attention = true)
      ∧ (r.place x ≠ .resync → ¬ evicts → (t.record h).state = r.state → (r.leg x.leg).status = .ok →
          (t.record h).inAttention = r.inAttention ∧ t.flag .attention = s.flag .attention)
      ∧ (t.record h).echoNoted = r.echoNoted
      ∧ (r.held = true → (t.record h).marked x.seq = true ∧ t.tallies = s.tallies
          ∧ (t.record h).counters.refused = r.counters.refused ∧ (t.record h).counters.injected = r.counters.injected)

/-- A first copy on an unheld SUBSCRIBED record is delivered: each UP port of its delivery set has a copy of the stored frame that carries
the record's handle, untagged to an unpaired port and as it arrived to a port of an enabled pair, when the pool and that port's queue
have room; and the sequence is then marked seen (R55 to R58). On an unheld ORIGINATED-PAIR record, by either port of its pair, each UP
lane has an injection copy, hops left rewritten to HOP LIMIT, and "injected" adds one; each UP port of the delivery set but the pair's
own two has a delivery copy; and the sequence is marked seen when some copy is enqueued (R72 to R74). -/
def Obligations.FirstCopyIsDeliveredAndAPairsInjected : Prop :=
  (∀ (l : Lane) (f : RxFrame) (h : Nat) (q : BayPort) (s : State), s.lookupTakes (.lane l) f h →
    let r := s.record h
    let x := arrivalOf (.lane l) f
    let cls := (tagOf f.bytes).cls.dataClass
    (r.place x).accepted = true → r.held = false → r.config.delivery.getLsbD q.index = true → s.isUp (.bay q) = true →
    admissible cls (cellsFor f.bytes.length) s.freeCells = true →
    ((s.port (.bay q)).queue cls).length < s.settings.queueCap cls →
    ∃ t, exec (.lookupByKey (.lane l)) s = .next t
      ∧ ⟨s.nextName, if s.settings.paired q then .asStored else .tagRemoved, some h⟩ ∈ (t.port (.bay q)).descriptors
      ∧ (∃ g ∈ t.pool, g.name = s.nextName ∧ g.bytes = f.bytes ∧ g.cls = cls)
      ∧ (t.record h).marked x.seq = true ∧ (t.record h).counters.refused = r.counters.refused)
  ∧ (∀ (p : BayPort) (f : RxFrame) (h : Nat) (s : State), s.lookupTakes (.bay p) f h →
      let r := s.record h
      let x := arrivalOf (.bay p) f
      let cls := (tagOf f.bytes).cls.dataClass
      let hasRoom (port : Port) := s.isUp port = true ∧ admissible cls (cellsFor f.bytes.length) s.freeCells = true
        ∧ ((s.port port).queue cls).length < s.settings.queueCap cls
      (r.place x).accepted = true → r.held = false →
      ∃ t, exec (.lookupByKey (.bay p)) s = .next t
        ∧ (∀ l : Lane, hasRoom (.lane l) →
            ⟨s.nextName, .hopsRewritten (s.settings.hopLimit.extractLsb' 0 6), some h⟩ ∈ (t.port (.lane l)).descriptors
              ∧ (t.record h).counters.injected = bump r.counters.injected)
        ∧ (∀ q : BayPort, q.pair ≠ p.pair → r.config.delivery.getLsbD q.index = true → hasRoom (.bay q) →
            ⟨s.nextName, if s.settings.paired q then .asStored else .tagRemoved, some h⟩ ∈ (t.port (.bay q)).descriptors)
        ∧ ((∃ l : Lane, hasRoom (.lane l))
            ∨ (∃ q : BayPort, q.pair ≠ p.pair ∧ r.config.delivery.getLsbD q.index = true ∧ hasRoom (.bay q)) →
            (∃ g ∈ t.pool, g.name = s.nextName ∧ g.bytes = f.bytes ∧ g.cls = cls)
              ∧ (t.record h).marked x.seq = true ∧ (t.record h).counters.refused = r.counters.refused)
        ∧ (∀ q : BayPort, q.pair = p.pair → (t.port (.bay q)).descriptors = (s.port (.bay q)).descriptors)
        ∧ ((∀ l : Lane, s.isUp (.lane l) = false) → (t.record h).counters.injected = r.counters.injected))

/-- A first copy whose frame the pool refuses while its record had copies to make is left unmarked and counted "refused"; POOL is set and
the arrival port's "pool refusals" adds one; no descriptor and no tally changes (R17, R58, R59, R148). So is a pair's, which had an
injection copy or a delivery copy to make, and "injected" stays (R74). The same when the frame is admitted and each of those copies meets
a full queue: "refused" adds one and the sequence is left unmarked, "queue drops" adds one on each of their ports, no such port's
descriptors change, no tally does, and POOL stays; a frame with no transit copy enqueued either holds no cell (R58, R149). -/
def Obligations.RefusedFirstCopyIsLeftUnmarked : Prop :=
  (∀ (l : Lane) (f : RxFrame) (h : Nat) (q : BayPort) (s : State), s.lookupTakes (.lane l) f h →
    let r := s.record h
    let x := arrivalOf (.lane l) f
    let cls := (tagOf f.bytes).cls.dataClass
    (r.place x).accepted = true → r.held = false → r.config.delivery.getLsbD q.index = true → s.isUp (.bay q) = true →
    admissible cls (cellsFor f.bytes.length) s.freeCells = false →
    ∃ t, exec (.lookupByKey (.lane l)) s = .next t
      ∧ (t.record h).counters.refused = bump r.counters.refused
      ∧ (r.place x ≠ .late → (t.record h).seen.getLsbD 0 = false) ∧ (r.place x = .late → (t.record h).seen = r.seen)
      ∧ t.pool = s.pool ∧ t.tallies = s.tallies ∧ t.flag .pool = true
      ∧ (t.port (.lane l)).counters.poolRefusals = bump (s.port (.lane l)).counters.poolRefusals
      ∧ ∀ p, (t.port p).descriptors = (s.port p).descriptors)
  ∧ (∀ (p : BayPort) (f : RxFrame) (h : Nat) (s : State), s.lookupTakes (.bay p) f h →
      let r := s.record h
      let x := arrivalOf (.bay p) f
      (r.place x).accepted = true → r.held = false →
      (∃ l : Lane, s.isUp (.lane l) = true)
        ∨ (∃ q : BayPort, q.pair ≠ p.pair ∧ r.config.delivery.getLsbD q.index = true ∧ s.isUp (.bay q) = true) →
      admissible (tagOf f.bytes).cls.dataClass (cellsFor f.bytes.length) s.freeCells = false →
      ∃ t, exec (.lookupByKey (.bay p)) s = .next t
        ∧ (t.record h).counters.refused = bump r.counters.refused ∧ (t.record h).counters.injected = r.counters.injected
        ∧ (r.place x ≠ .late → (t.record h).seen.getLsbD 0 = false) ∧ (r.place x = .late → (t.record h).seen = r.seen)
        ∧ t.pool = s.pool ∧ t.tallies = s.tallies ∧ t.flag .pool = true
        ∧ (t.port (.bay p)).counters.poolRefusals = bump (s.port (.bay p)).counters.poolRefusals
        ∧ ∀ q, (t.port q).descriptors = (s.port q).descriptors)
  ∧ (∀ (l : Lane) (f : RxFrame) (h : Nat) (s : State), s.lookupTakes (.lane l) f h →
      let r := s.record h
      let x := arrivalOf (.lane l) f
      let hops := (tagOf f.bytes).hops
      let cls := (tagOf f.bytes).cls.dataClass
      let wanted (q : BayPort) := r.config.delivery.getLsbD q.index = true ∧ s.isUp (.bay q) = true
      (r.place x).accepted = true → r.held = false → admissible cls (cellsFor f.bytes.length) s.freeCells = true →
      (∃ q, wanted q) → (∀ q, wanted q → s.queueFull (.bay q) cls = true) →
      ∃ t, exec (.lookupByKey (.lane l)) s = .next t
        ∧ (t.record h).counters.refused = bump r.counters.refused ∧ (t.record h).counters.injected = r.counters.injected
        ∧ (r.place x ≠ .late → (t.record h).seen.getLsbD 0 = false) ∧ (r.place x = .late → (t.record h).seen = r.seen)
        ∧ (∀ k, t.tally k = s.tally k) ∧ t.flag .pool = s.flag .pool
        ∧ (∀ q, wanted q →
            (t.port (.bay q)).counters.queueDrops = bump (s.port (.bay q)).counters.queueDrops
              ∧ ∀ d, d ∈ (t.port (.bay q)).descriptors ↔ d ∈ (s.port (.bay q)).descriptors)
        ∧ (∀ q, ¬ wanted q → t.port (.bay q) = s.port (.bay q))
        ∧ (hops = 0 ∨ s.isUp (.lane l.other) = false ∨ s.queueFull (.lane l.other) cls = true → t.pool = s.pool)
        ∧ (hops ≠ 0 → s.isUp (.lane l.other) = true → s.queueFull (.lane l.other) cls = false →
            ⟨s.nextName, .hopsRewritten (hops - 1), none⟩ ∈ (t.port (.lane l.other)).descriptors
              ∧ t.pool = s.pool ++ [⟨s.nextName, f.bytes, cls, 1⟩]))
  ∧ (∀ (p : BayPort) (f : RxFrame) (h : Nat) (s : State), s.lookupTakes (.bay p) f h →
      let r := s.record h
      let x := arrivalOf (.bay p) f
      let cls := (tagOf f.bytes).cls.dataClass
      let wanted (port : Port) := s.isUp port = true ∧ match port with
        | .lane _ => True
        | .bay q => q.pair ≠ p.pair ∧ r.config.delivery.getLsbD q.index = true
      (r.place x).accepted = true → r.held = false → admissible cls (cellsFor f.bytes.length) s.freeCells = true →
      (∃ port, wanted port) → (∀ port, wanted port → s.queueFull port cls = true) →
      ∃ t, exec (.lookupByKey (.bay p)) s = .next t
        ∧ (t.record h).counters.refused = bump r.counters.refused ∧ (t.record h).counters.injected = r.counters.injected
        ∧ (r.place x ≠ .late → (t.record h).seen.getLsbD 0 = false) ∧ (r.place x = .late → (t.record h).seen = r.seen)
        ∧ (∀ k, t.tally k = s.tally k) ∧ t.flag .pool = s.flag .pool ∧ t.pool = s.pool
        ∧ (∀ port, wanted port →
            (t.port port).counters.queueDrops = bump (s.port port).counters.queueDrops
              ∧ ∀ d, d ∈ (t.port port).descriptors ↔ d ∈ (s.port port).descriptors)
        ∧ (∀ port, ¬ wanted port → port ≠ .bay p → t.port port = s.port port))

/-- A pattern search takes the lowest handle that matches (R35, R36): the frame's record counts "accepted", its leg is OK at the arrival
time, its deadline is the arrival time plus the renewal limit and runs, and an ARMED or SILENT record becomes LIVE and joins the
attention set (R69). Unheld, it advances its send counter (R66); held, the send counter, "injected", "refused", the pool and every
queue stay (R70). The table is canonical, as every step keeps it (TableLaw). When no record matches, the frame leaves the store,
"unclaimed" adds one on the arrival port, the rotation moves on, and no record, queue, cell or flag changes (R36, R64). A record matches
that is ARMED, LIVE, SINGLE or SILENT, of kind ORIGINATED-SINGLE and bound to the arrival port, when its match part is absent or when its
destination address agrees in all 48 bits, or in all but the locally administered one when that is ignored, its frame type word is the
frame's, and its application tag is 0 or the frame's (R35). That the search moves the rotation on is the model's
deduction (log 18), and that neither NODE nor the port's pairing is asked again at the grant its choice (log 34, log 39). -/
def Obligations.PatternSearchBooksTheFrame : Prop :=
  (∀ (p : BayPort) (f : RxFrame) (h : Nat) (s : State), Sparse.wf Record.free s.table = true → s.searchTakes p f h →
    let r := s.record h
    ∃ t, exec (.patternSearch p) s = .next t ∧ s.onlyGrantMoves t (.bay p) ∧ s.otherRecordsKept t h
      ∧ (t.record h).config = r.config ∧ (t.record h).held = r.held ∧ (t.record h).legB = r.legB
      ∧ (t.record h).counters.accepted = bump r.counters.accepted
      ∧ (t.record h).legA = { lastArrival := f.arrival, status := .ok, misses := r.legA.misses }
      ∧ (t.record h).deadline = f.arrival + BitVec.ofNat 32 (1000 * r.config.renewalLimit.toNat) ∧ (t.record h).running = true
      ∧ ((r.state = .armed ∨ r.state = .silent) → (t.record h).state = .live ∧ (t.record h).inAttention = true
          ∧ t.flag .attention = true)
      ∧ (r.held = false → (t.record h).sendCounter = r.sendCounter + 1)
      ∧ (r.held = true → (t.record h).sendCounter = r.sendCounter ∧ t.pool = s.pool ∧ t.tallies = s.tallies
          ∧ (t.record h).counters = { r.counters with accepted := bump r.counters.accepted }
          ∧ ∀ q, (t.port q).descriptors = (s.port q).descriptors)
      ∧ (∀ k e, (k, e) ∈ s.table → e.matches p f.bytes = true → h ≤ k))
  ∧ (∀ (p : BayPort) (f : RxFrame) (s : State), s.granted (.bay p) .search = true → (s.port (.bay p)).store.head? = some f →
      (∀ k e, (k, e) ∈ s.table → e.matches p f.bytes = false) →
      let u := s.port (.bay p)
      exec (.patternSearch p) s = .next { s with
        ports := s.ports.set (.bay p) { u with
          store := u.store.drop 1, claim := none, counters := { u.counters with unclaimed := bump u.counters.unclaimed } }
        rotation := nextInRotation (.bay p), inHand := none })
  ∧ (∀ (p : BayPort) (frame : List Byte) (r : Record), r.matches p frame = true ↔
      (r.state = .armed ∨ r.state = .live ∨ r.state = .single ∨ r.state = .silent)
        ∧ r.config.kind = .originatedSingle ∧ r.config.legMode = .single p
        ∧ (r.config.matchPresent = false
          ∨ ((∀ i : Fin 48, (r.config.ignoreLocal = true ∧ i.val = 41) ∨
                (addressAt frame 0).getLsbD i.val = r.config.dest.getLsbD i.val)
            ∧ wordAt frame 12 = r.config.frameType ∧ (r.config.appTag = 0 ∨ wordAt frame 14 = r.config.appTag))))

/-- The frame a single origination stores is the relay's with ten tag bytes after its source address: TAG TYPE, the record's class, origin,
stream number and send counter, HOP LIMIT, EPOCH, the announced renewal or 0, and the tag check; it goes, with the record's handle, to
each UP lane when the pool and that lane's queue have room (R65, R67). Each UP port of the record's delivery set but the record's own
has a delivery copy when the pool and its queue have room: untagged, or as tagged to a port of an enabled pair; the record's own port
has none (R67). When it had copies to make and none is enqueued, "refused" adds one, "injected" stays, and no descriptor, no tally and no
cell changes: with the pool refusing it, POOL is set and "pool refusals" adds one on the arrival port; with every queue full, "queue
drops" adds one on each port it was offered to (R68, R148, R149). -/
def Obligations.OriginatedFrameIsTaggedInjectedAndDelivered : Prop :=
  ∀ (p : BayPort) (f : RxFrame) (h : Nat) (s : State), s.searchTakes p f h →
    let r := s.record h
    let tag : Tag :=
      { cls := tagClassOf r.config.cls, origin := r.config.origin, hops := s.settings.hopLimit.extractLsb' 0 6
        epoch := s.settings.epoch.extractLsb' 0 4, stream := r.config.stream, seq := r.sendCounter
        renewal := if r.config.announcedPresent then r.config.announced else 0 }
    let frame := withFcs (f.bytes.take 12 ++ (wordBytes s.settings.tagType ++ tag.covered ++ [crc8 tag.covered])
      ++ (contentsOf f.bytes).drop 12)
    let hasRoom (port : Port) := s.isUp port = true ∧ admissible r.config.cls (cellsFor frame.length) s.freeCells = true
      ∧ ((s.port port).queue r.config.cls).length < s.settings.queueCap r.config.cls
    r.held = false →
    ∃ t, exec (.patternSearch p) s = .next t
      ∧ (∀ l : Lane, hasRoom (.lane l) →
          ⟨s.nextName, .asStored, some h⟩ ∈ (t.port (.lane l)).descriptors
            ∧ (t.record h).counters.injected = bump r.counters.injected)
      ∧ (∀ q : BayPort, q ≠ p → r.config.delivery.getLsbD q.index = true → hasRoom (.bay q) →
          ⟨s.nextName, if s.settings.paired q then .asStored else .tagRemoved, some h⟩ ∈ (t.port (.bay q)).descriptors)
      ∧ ((∃ l : Lane, hasRoom (.lane l)) ∨ (∃ q : BayPort, q ≠ p ∧ r.config.delivery.getLsbD q.index = true ∧ hasRoom (.bay q)) →
          (∃ g ∈ t.pool, g.name = s.nextName ∧ g.bytes = frame ∧ g.cls = r.config.cls)
            ∧ (t.record h).counters.refused = r.counters.refused)
      ∧ (t.port (.bay p)).descriptors = (s.port (.bay p)).descriptors
      ∧ (let wanted (port : Port) := s.isUp port = true ∧ match port with
          | .lane _ => True
          | .bay q => q ≠ p ∧ r.config.delivery.getLsbD q.index = true
        (∃ port, wanted port) → (∀ port, wanted port → ¬ hasRoom port) →
          (t.record h).counters.refused = bump r.counters.refused ∧ (t.record h).counters.injected = r.counters.injected
          ∧ t.pool = s.pool ∧ (∀ k, t.tally k = s.tally k)
          ∧ (∀ port d, d ∈ (t.port port).descriptors ↔ d ∈ (s.port port).descriptors)
          ∧ (admissible r.config.cls (cellsFor frame.length) s.freeCells = false → t.flag .pool = true
            ∧ (t.port (.bay p)).counters.poolRefusals = bump (s.port (.bay p)).counters.poolRefusals)
          ∧ (admissible r.config.cls (cellsFor frame.length) s.freeCells = true → t.flag .pool = s.flag .pool
            ∧ ∀ port, wanted port → (t.port port).counters.queueDrops = bump (s.port port).counters.queueDrops))

/-- The forms a copy leaves in change what R147 names and nothing else: rewriting hops left keeps the length, every byte but byte 15's upper
six bits, the tag check and the FCS, and the frame's fields but hops left (R4); removing a tag that was put in gives the frame back
(R56, R67). -/
def Obligations.RewriteAndUntagKeepTheRest : Prop :=
  (∀ (hops : BitVec 6) (frame : List Byte), 64 ≤ frame.length →
    (rewriteHops hops frame).length = frame.length
    ∧ tagOf (rewriteHops hops frame) = { tagOf frame with hops := hops }
    ∧ fcsMatches (rewriteHops hops frame) = true ∧ crc8 (coveredBytes (rewriteHops hops frame)) = byteAt (rewriteHops hops frame) 21
    ∧ (rewriteHops hops frame).take 14 = frame.take 14
    ∧ (contentsOf (rewriteHops hops frame)).drop 22 = (contentsOf frame).drop 22)
  ∧ ∀ (typeWord : Word) (tag : Tag) (frame : List Byte), 64 ≤ frame.length → fcsMatches frame = true →
    removeTag (insertTag typeWord tag frame) = frame

/-! ## Notices and record operations (spec/02, spec/06) -/

/-- The oldest notice acts when no lookup, search or timed operation waits, or as the grant in hand at a timed operation's claim (log
35): a RETIRING record with tally 0 becomes FREE with all its fields 0; any other record, or a tally above 0, is left as it was (R30). -/
def Obligations.NoticeFreesADrainedRecord : Prop :=
  ∀ (h : Nat) (rest : List Nat) (s : State), s.noticeTurn = some h → s.notices = h :: rest →
    ∃ t, exec .noticeGrant s = .next t
      ∧ t = { s with table := t.table, notices := rest, inHand := none }
      ∧ s.otherRecordsKept t h
      ∧ t.record h = if (s.record h).state = .retiring ∧ s.tally h = 0 then Record.free else s.record h

/-- INSTALL at its grant: the checks of R98 in their order, each with its result and no other effect; passed, the record is ARMED with the
copy's configuration and every runtime field at its value at installation, and joins no attention set (R98, R99). -/
def Obligations.InstallGrantChecksInOrder : Prop :=
  ∀ (h : Nat) (copy : List Byte) (s : State), s.timedTurn .install h copy →
    let keyHeld (c : StreamConfig) := ∃ k r, (k, r) ∈ s.table ∧ r.state.occupied = true
      ∧ r.config.origin = c.origin ∧ r.config.stream = c.stream
    (511 < h → exec .installGrant s = .next (s.ended .noSuchRecord))
    ∧ (h ≤ 511 → s.settings.frozen h = true → exec .installGrant s = .next (s.ended .frozen))
    ∧ (h ≤ 511 → s.settings.frozen h = false → (s.record h).state ≠ .free → exec .installGrant s = .next (s.ended .slotTaken))
    ∧ (h ≤ 511 → s.settings.frozen h = false → (s.record h).state = .free → presented s.settings copy = none →
        exec .installGrant s = .next (s.ended .badValue))
    ∧ ∀ c, h ≤ 511 → s.settings.frozen h = false → (s.record h).state = .free → presented s.settings copy = some c →
        (keyHeld c → exec .installGrant s = .next (s.ended .keyInUse))
        ∧ (¬ keyHeld c → ∃ t, exec .installGrant s = .next t ∧ t = { s.ended .done with table := t.table }
            ∧ t.record h = { Record.free with state := .armed, config := c, noHighest := true } ∧ s.otherRecordsKept t h)

/-- AMEND at its grant: the checks of R100 in their order; passed, the configuration is replaced and everything else of the record stays
(R100, R101). -/
def Obligations.AmendGrantKeepsTheRuntimeFields : Prop :=
  ∀ (h : Nat) (copy : List Byte) (s : State), s.timedTurn .amend h copy →
    let r := s.record h
    let same (c : StreamConfig) := c.kind = r.config.kind ∧ c.legMode = r.config.legMode ∧ c.origin = r.config.origin
      ∧ c.stream = r.config.stream
    (511 < h ∨ r.state = .free → exec .amendGrant s = .next (s.ended .noSuchRecord))
    ∧ (h ≤ 511 → r.state ≠ .free → s.settings.frozen h = true → exec .amendGrant s = .next (s.ended .frozen))
    ∧ (h ≤ 511 → s.settings.frozen h = false → r.state = .retiring → exec .amendGrant s = .next (s.ended .wrongState))
    ∧ (h ≤ 511 → r.state.occupied = true → s.settings.frozen h = false → (∀ c, presented s.settings copy = some c → ¬ same c) →
        exec .amendGrant s = .next (s.ended .badValue))
    ∧ ∀ c, h ≤ 511 → r.state.occupied = true → s.settings.frozen h = false → presented s.settings copy = some c → same c →
        ∃ t, exec .amendGrant s = .next t ∧ t = { s.ended .done with table := t.table } ∧ t.record h = { r with config := c }
          ∧ s.otherRecordsKept t h

/-- RETIRE at its grant: the checks of R102 in their order; passed, a record with tally 0 is FREE, and any other RETIRING, out of the
attention set, with no twin entries and its deadline stopped, everything else kept (R102). That the stopped deadline keeps its value is
the model's deduction (log 30). -/
def Obligations.RetireGrantFreesOrDrains : Prop :=
  ∀ (h : Nat) (copy : List Byte) (s : State), s.timedTurn .retire h copy →
    let r := s.record h
    (511 < h ∨ r.state = .free → exec .retireGrant s = .next (s.ended .noSuchRecord))
    ∧ (h ≤ 511 → r.state ≠ .free → s.settings.frozen h = true → exec .retireGrant s = .next (s.ended .frozen))
    ∧ (h ≤ 511 → s.settings.frozen h = false → r.state = .retiring → exec .retireGrant s = .next (s.ended .wrongState))
    ∧ (h ≤ 511 → r.state.occupied = true → s.settings.frozen h = false →
        ∃ t, exec .retireGrant s = .next t ∧ t = { s.ended .done with table := t.table } ∧ s.otherRecordsKept t h
          ∧ t.record h = if s.tally h = 0 then Record.free
              else { r with state := .retiring, twins := [], running := false, inAttention := false })

/-- HOLD and RELEASE at their grants: FREE gives NO_SUCH_RECORD, RETIRING gives WRONG_STATE, FREEZE is not asked; passed, the held flag is
set or cleared and nothing else of the record changes (R104). -/
def Obligations.HoldAndReleaseMoveTheHeldFlagAlone : Prop :=
  ∀ (kind : TimedKind) (grant : Instr) (flag : Bool),
    (kind = .hold ∧ grant = .holdGrant ∧ flag = true) ∨ (kind = .release ∧ grant = .releaseGrant ∧ flag = false) →
    ∀ (h : Nat) (copy : List Byte) (s : State), s.timedTurn kind h copy →
      let r := s.record h
      (511 < h ∨ r.state = .free → exec grant s = .next (s.ended .noSuchRecord))
      ∧ (h ≤ 511 → r.state = .retiring → exec grant s = .next (s.ended .wrongState))
      ∧ (h ≤ 511 → r.state.occupied = true →
          ∃ t, exec grant s = .next t ∧ t = { s.ended .done with table := t.table } ∧ t.record h = { r with held := flag }
            ∧ s.otherRecordsKept t h)

/-- SNAPSHOT and SNAPSHOT CLEAR at their grants: the image of the record is the front view and the old front view the back one, whatever
FREEZE says; an installed record leaves the attention set with its echo-noted mark clear, and SNAPSHOT CLEAR zeroes its thirteen
counters; a FREE or RETIRING record is not changed (R106 to R108). The image is the 96 bytes of 12.3, field by field (R105, R179); the
bits for which 12.3 names no field are left out here (log 37). -/
def Obligations.SnapshotTakesTheViewAndClearsAttention : Prop :=
  (∀ (kind : TimedKind) (grant : Instr), (kind = .snapshot ∧ grant = .snapshotGrant) ∨ (kind = .snapshotClear ∧ grant = .snapshotClearGrant) →
    ∀ (h : Nat) (copy : List Byte) (s : State), s.timedTurn kind h copy →
      let r := s.record h
      (511 < h → exec grant s = .next (s.ended .noSuchRecord))
      ∧ (h ≤ 511 → ∃ t, exec grant s = .next t
          ∧ t = { s.ended .done with table := t.table, frontView := viewImage h r, backView := s.frontView }
          ∧ s.otherRecordsKept t h
          ∧ t.record h = if r.state.occupied then
              { r with
                inAttention := false, echoNoted := false
                counters := if kind = .snapshotClear then RecCounters.zero else r.counters }
            else r))
  ∧ (∀ (h : Nat) (r : Record),
      let v := viewImage h r
      let c := r.config
      let statusCode (x : LegStatus) : BitVec 2 := match x with | .unknown => 0 | .ok => 1 | .lost => 2
      v.length = 96
      ∧ ((wordAt v 0).extractLsb' 7 9 = BitVec.ofNat 9 h
        ∧ (wordAt v 0).extractLsb' 4 3 = (match r.state with
          | .free => 0 | .armed => 1 | .live => 2 | .single => 3 | .silent => 4 | .retiring => 5)
        ∧ (wordAt v 0).getLsbD 3 = r.held ∧ (wordAt v 0).getLsbD 2 = r.inAttention ∧ (wordAt v 0).getLsbD 1 = r.echoNoted
        ∧ (wordAt v 0).getLsbD 0 = r.noHighest)
      ∧ ((byteAt v 2).getLsbD 7 = r.running ∧ (byteAt v 2).extractLsb' 3 4 = r.epoch ∧ (byteAt v 2).extractLsb' 0 2 = r.wildCount)
      ∧ ((byteAt v 3).extractLsb' 6 2 = statusCode r.legA.status ∧ (byteAt v 3).extractLsb' 0 4 = r.legA.misses
        ∧ (byteAt v 4).extractLsb' 6 2 = statusCode r.legB.status ∧ (byteAt v 4).extractLsb' 0 4 = r.legB.misses)
      ∧ (∀ i, i < 4 → (byteAt v 5).extractLsb' (6 - 2 * i) 2 = (match r.twins[i]? with
          | none => 0
          | some e => if e.awaits = .a then 1 else 2))
      ∧ ((byteAt v 6).extractLsb' 6 2 = (match c.kind with | .subscribed => 0 | .originatedSingle => 1 | .originatedPair => 2)
        ∧ (byteAt v 6).extractLsb' 3 3 = (match c.legMode with
          | .ring => 0 | .single .p0 => 1 | .single .p1 => 2 | .single .p2 => 3 | .single .p3 => 4 | .pair .pair0 => 5 | .pair .pair1 => 6)
        ∧ (byteAt v 6).getLsbD 2 = c.matchPresent ∧ (byteAt v 6).getLsbD 1 = c.ignoreLocal
        ∧ (byteAt v 6).getLsbD 0 = c.announcedPresent
        ∧ (byteAt v 7).extractLsb' 6 2 = (match c.cls with | .trip => 0 | .sample => 1 | .status => 2)
        ∧ (byteAt v 7).extractLsb' 0 6 = c.origin ∧ wordAt v 8 = c.stream.setWidth 16
        ∧ (byteAt v 10).extractLsb' 4 4 = c.delivery ∧ (byteAt v 10).extractLsb' 0 4 = c.missThreshold
        ∧ wordAt v 11 = c.renewalLimit ∧ byteAt v 13 = (if c.kind = .originatedSingle then c.announced else c.twinWindow)
        ∧ addressAt v 14 = c.dest ∧ wordAt v 20 = c.frameType ∧ wordAt v 22 = c.appTag)
      ∧ wordAt v 24 = (if c.kind = .originatedSingle then r.sendCounter else r.highest)
      ∧ (∀ i, i < 64 → (byteAt v (26 + i / 8)).getLsbD (7 - i % 8) = r.seen.getLsbD i)
      ∧ (∀ i, i < 4 → match r.twins[i]? with
          | some e => wordAt v (34 + 6 * i) = e.seq ∧ timeAt v (36 + 6 * i) = e.deadline
          | none => ∀ j, j < 6 → byteAt v (34 + 6 * i + j) = 0)
      ∧ timeAt v 58 = r.legA.lastArrival ∧ timeAt v 62 = r.legB.lastArrival ∧ timeAt v 66 = r.deadline
      ∧ [70, 72, 74, 76, 78, 80, 82, 84, 86, 88, 90, 92, 94].map (wordAt v) =
          [r.counters.accepted, r.counters.duplicates, r.counters.lateFirst, r.counters.missed, r.counters.wild, r.counters.resyncs,
            r.counters.echo, r.counters.unmatched, r.counters.twinMissA, r.counters.twinMissB, r.counters.silences,
            r.counters.refused, r.counters.injected])

/-! ## The supervision sweep (spec/05) -/

/-- A sweep period boundary: the next period begins where the present one ends, with the length of the code in force; with no pass running
a pass begins at the first handle SWEEP MASK does not name, else the boundary is an overrun (R79 to R81, R91). That a boundary acts
however late within half the clock's range is the model's choice (log 24); that the position, which R80 sets to 0, stands within the
same step at the first handle to be visited is its deduction (log 23). -/
def Obligations.SweepBoundaryStartsAPassOrOverruns : Prop :=
  ∀ s : State, s.ready = true → (s.bayClock - (s.sweep.periodStart + s.sweep.periodLength)).toNat ≤ 0x7FFFFFFF →
    let start := s.sweep.periodStart + s.sweep.periodLength
    let length : Time := if s.settings.sweepPeriod = 0 then 250 else if s.settings.sweepPeriod = 1 then 500
      else if s.settings.sweepPeriod = 2 then 1000 else 2000
    (s.sweep.position < 512 → exec .sweepPeriodBoundary s = .next { s with
        sweep := { s.sweep with periodStart := start, periodLength := length, passOwed := true, overruns := bump s.sweep.overruns }
        flags := s.flags ||| Flag.overrun.mask })
    ∧ (512 ≤ s.sweep.position → ∃ t, exec .sweepPeriodBoundary s = .next t
        ∧ t = { s with sweep := { s.sweep with periodStart := start, periodLength := length, position := t.sweep.position } }
        ∧ (t.sweep.position < 512 → s.settings.masked t.sweep.position = false)
        ∧ ∀ k, k < t.sweep.position → k < 512 → s.settings.masked k = true)

/-- A visit in its turn, or in hand at a timed operation's claim (log 35): the visited handle's record alone changes, and only in the fields a visit may change (R82); the position moves to the
next handle SWEEP MASK does not name; after the last of them to the first such handle of the pass that is owed, or to 512 (R80, R81,
R91; that masked handles are passed over within the same step is the model's deduction, log 23). Entries whose deadline has passed leave
the list, and each counts a miss on its awaited leg: the consecutive misses rise and stop at 15, the twin-miss counter rises and stops at
0xFFFF, and the leg is LOST at or above MISS THRESHOLD (R51, R84); a one-leg record counts none. A leg
whose port is not UP is LOST (R85), a LIVE or SINGLE record whose deadline has passed is SILENT with "silences" one more, no entries and
its deadline stopped (R86), and a change of state or of a leg's status joins the attention set and sets ATTENTION (R87). -/
def Obligations.SweepVisitJudgesOneRecord : Prop :=
  (∀ s : State, s.visitTurn = true →
      let h := s.sweep.position
      let r := s.record h
      ∃ t, exec .sweepVisit s = .next t
        ∧ t = { s with
            table := t.table, flags := t.flags, inHand := none
            sweep := { s.sweep with position := t.sweep.position, passOwed := t.sweep.passOwed } }
        ∧ s.otherRecordsKept t h
        ∧ t.record h = { r with
            state := (t.record h).state, twins := (t.record h).twins, running := (t.record h).running
            inAttention := (t.record h).inAttention
            legA := { r.legA with status := (t.record h).legA.status, misses := (t.record h).legA.misses }
            legB := { r.legB with status := (t.record h).legB.status, misses := (t.record h).legB.misses }
            counters := { r.counters with
              twinMissA := (t.record h).counters.twinMissA, twinMissB := (t.record h).counters.twinMissB
              silences := (t.record h).counters.silences } }
        ∧ (r.state.occupied = false → t.record h = r ∧ t.flags = s.flags)
        ∧ (∀ k, h < k → k < 512 → s.settings.masked k = false → (∀ j, h < j → j < k → s.settings.masked j = true) →
            t.sweep.position = k ∧ t.sweep.passOwed = s.sweep.passOwed)
        ∧ ((∀ k, h < k → k < 512 → s.settings.masked k = true) → t.sweep.passOwed = false
          ∧ (s.sweep.passOwed = false → t.sweep.position = 512)
          ∧ (s.sweep.passOwed = true → t.sweep.position ≤ 512 ∧ (t.sweep.position < 512 → s.settings.masked t.sweep.position = false)
            ∧ ∀ k, k < t.sweep.position → s.settings.masked k = true)))
  ∧ (∀ s : State, s.visitTurn = true →
      let h := s.sweep.position
      let r := s.record h
      let passed (u : Time) : Bool := decide (1 ≤ (s.bayClock - u).toNat) && decide ((s.bayClock - u).toNat ≤ 0x7FFFFFFF)
      let lapsed (l : LegId) : Nat := if r.twoLeg then r.twins.countP (fun e => passed e.deadline && decide (e.awaits = l)) else 0
      r.state.occupied = true →
      ∃ t, exec .sweepVisit s = .next t
        ∧ (∀ l, ((t.record h).leg l).misses.toNat = min 15 ((r.leg l).misses.toNat + lapsed l)
          ∧ ((∀ port, r.config.legMode.port l = some port → s.isUp port = true) → ((t.record h).leg l).status =
              if 0 < lapsed l ∧ r.config.missThreshold.toNat ≤ ((t.record h).leg l).misses.toNat then .lost else (r.leg l).status))
        ∧ (t.record h).counters.twinMissA.toNat = min 0xFFFF (r.counters.twinMissA.toNat + lapsed .a)
        ∧ (t.record h).counters.twinMissB.toNat = min 0xFFFF (r.counters.twinMissB.toNat + lapsed .b)
        ∧ (∀ leg port, r.config.legMode.port leg = some port → s.isUp port = false → ((t.record h).leg leg).status = .lost)
        ∧ ((r.state = .live ∨ r.state = .single) → r.running = true → passed r.deadline = true →
            (t.record h).state = .silent ∧ (t.record h).twins = [] ∧ (t.record h).running = false
              ∧ (t.record h).counters.silences = bump r.counters.silences)
        ∧ (¬ (r.running = true ∧ passed r.deadline = true) → (t.record h).running = r.running
            ∧ (t.record h).counters.silences = r.counters.silences
            ∧ (r.twoLeg = true → ∀ e, e ∈ (t.record h).twins ↔ e ∈ r.twins ∧ passed e.deadline = false)
            ∧ ((r.state = .armed ∨ r.state = .silent) → (t.record h).state = r.state))
        ∧ ((t.record h).state ≠ r.state ∨ (t.record h).legA.status ≠ r.legA.status ∨ (t.record h).legB.status ≠ r.legB.status →
            (t.record h).inAttention = true ∧ t.flag .attention = true))

/-! ## The probe unit and proving frames (spec/08, spec/07) -/

/-- A probe boundary on a node with a number: the period is judged, the ring state set anew, the serial appended and the next one set, and
the next boundary is one PROBE PERIOD later on the grid (R132, R133, R137). The probe of the serial, with HOP LIMIT, the ring state just
set and the lane states in its payload, has a copy in the TRIP traffic of each UP lane when a cell is free and that queue has room; a
lane not UP and the bay ports have none; with no cell free POOL is set and "pool refusals" adds one on each UP lane (R134, R148). The
roster is aged: evidence older than four intervals is cleared, and ROSTER is set when a status changes (R141). On a transit-only node,
whose interval is 10 ms, the boundary ages the roster and does nothing more (R138). That a boundary acts however late within half the
clock's range is the model's choice (log 24). -/
def Obligations.ProbeBoundaryWork : Prop :=
  let fresh (s : State) (limit : Nat) (v : Option Evidence) : Option Evidence :=
    v.filter (fun e => decide ((s.bayClock - e.lastHeard).toNat ≤ limit))
  let aged (s t : State) (limit : Nat) : Prop :=
    (∀ k, (t.rosterEntry k).heardA = fresh s limit (s.rosterEntry k).heardA
        ∧ (t.rosterEntry k).heardB = fresh s limit (s.rosterEntry k).heardB)
      ∧ (∀ k, (t.rosterEntry k).heardA = none → (t.rosterEntry k).heardB = none → t.rosterEntry k = RosterEntry.absent)
      ∧ (t.flag .roster = true ↔ s.flag .roster = true ∨ ∃ k, (t.rosterEntry k).status ≠ (s.rosterEntry k).status)
  (∀ (due : Time) (s : State), s.probe.boundary = some due → (s.bayClock - due).toNat ≤ 0x7FFFFFFF → s.settings.node ≠ 0 →
      let serial := match s.probe.nextSerial with | some n => n | none => s.bayClock.extractLsb' 0 16
      let judged (answered : Bool) (n : BitVec 4) := if s.lanesUp then (if answered then n else bump n) else 15
      ∃ t, exec .probeBoundary s = .next t
        ∧ t.probe.boundary = some (due + BitVec.ofNat 32 (1000 * s.settings.probePeriod.toNat))
        ∧ t.probe.missA = judged s.probe.answeredA s.probe.missA ∧ t.probe.missB = judged s.probe.answeredB s.probe.missB
        ∧ t.probe.answeredA = false ∧ t.probe.answeredB = false ∧ t.probe.ring = t.ringNow
        ∧ t.flag .ring = (s.flag .ring || t.probe.ring != s.probe.ring)
        ∧ t.probe.serials = (if 4 ≤ s.probe.serials.length then s.probe.serials.drop 1 else s.probe.serials) ++ [serial]
        ∧ t.probe.nextSerial = some (serial + 1) ∧ t.probe.clashes = s.probe.clashes
        ∧ (Sparse.wf RosterEntry.absent s.probe.roster = true → aged s t (4000 * s.settings.probePeriod.toNat))
        ∧ (∀ l : Lane, s.isUp (.lane l) = true → 0 < s.freeCells →
            (s.port (.lane l)).trip.length < s.settings.queueCapTrip.toNat →
            (⟨s.nextName, .asStored, none⟩ : Descriptor) ∈ (t.port (.lane l)).descriptors
              ∧ ∃ g ∈ t.pool, g.name = s.nextName ∧ g.cls = .trip
                ∧ g.bytes = makeFrame s.settings.probeGroup (s.settings.node.extractLsb' 0 8) s.settings.tagType
                  { cls := .probe, origin := s.settings.node.extractLsb' 0 6, hops := s.settings.hopLimit.extractLsb' 0 6,
                    epoch := s.settings.epoch.extractLsb' 0 4, stream := 16383, seq := serial, renewal := 0 }
                  (wordBytes serial ++ [s.settings.hopLimit.extractLsb' 0 8, t.probe.ring.code.setWidth 8,
                    (s.port (.lane .a)).state.code.setWidth 8, (s.port (.lane .b)).state.code.setWidth 8]))
        ∧ (∀ l : Lane, s.isUp (.lane l) = true → s.freeCells = 0 → t.pool = s.pool ∧ t.flag .pool = true
            ∧ t.port (.lane l) = { s.port (.lane l) with counters := { (s.port (.lane l)).counters with
                poolRefusals := bump (s.port (.lane l)).counters.poolRefusals } })
        ∧ (∀ l : Lane, s.isUp (.lane l) = false → t.port (.lane l) = s.port (.lane l))
        ∧ (∀ q : BayPort, t.port (.bay q) = s.port (.bay q))
        ∧ ((∀ l : Lane, s.isUp (.lane l) = false) → t.pool = s.pool)
        ∧ t = { s with ports := t.ports, pool := t.pool, nextName := t.nextName, tallies := t.tallies, flags := t.flags, probe := t.probe })
  ∧ (∀ (due : Time) (s : State), s.probe.boundary = some due → (s.bayClock - due).toNat ≤ 0x7FFFFFFF → s.settings.node = 0 →
      Sparse.wf RosterEntry.absent s.probe.roster = true →
      ∃ t, exec .probeBoundary s = .next t
        ∧ t = { s with
            probe := { s.probe with roster := t.probe.roster, boundary := some (due + 10000) }, flags := t.flags }
        ∧ aged s t 40000)

/-- A proving frame falls due each 1000 µs of a session: the sequence advances whatever becomes of the frame, "proving sent" adds one when
a cell is free and the TRIP queue has room, and the session's next frame is 1000 µs on (R126). That a frame is made however late within
half the clock's range is the model's choice (log 24), and nextAt is the model's own field (log 22). -/
def Obligations.ProvingFrameAdvancesTheSequence : Prop :=
  ∀ (l : Lane) (s : State), (s.port (.lane l)).state = .proving → (s.bayClock - (s.provingOf l).nextAt).toNat ≤ 0x7FFFFFFF →
    let r := s.provingOf l
    ∃ t, exec (.provingFrame l) s = .next t ∧ s.otherPortsKept t (.lane l)
      ∧ (t.provingOf l).sequence = r.sequence + 1 ∧ (t.provingOf l).nextAt = r.nextAt + 1000
      ∧ (t.provingOf l).returned = r.returned ∧ (t.provingOf l).lastTrip = r.lastTrip ∧ (t.provingOf l).longestTrip = r.longestTrip
      ∧ t.proving.get l.other = s.proving.get l.other
      ∧ (0 < s.freeCells → (s.port (.lane l)).trip.length < s.settings.queueCapTrip.toNat →
          (t.provingOf l).sent = bump r.sent
          ∧ (⟨s.nextName, .asStored, none⟩ : Descriptor) ∈ (t.port (.lane l)).descriptors)
      ∧ (s.freeCells = 0 → (t.provingOf l).sent = r.sent ∧ t.flag .pool = true
          ∧ (t.port (.lane l)).counters.poolRefusals = bump (s.port (.lane l)).counters.poolRefusals)
      ∧ t = { s with ports := t.ports, pool := t.pool, nextName := t.nextName, tallies := t.tallies, flags := t.flags, proving := t.proving }

/-! ## The buffer manager (spec/09) -/

/-- A transmission that ends whole puts the copy in its form on the wire, counts "frames out", takes the copy from its frame and from
its handle's tally, sends a tally-zero notice on the fall from 1 to 0, and lets the transmitter choose again (R147, R152 to R154). With
its frame's last copy the frame leaves the pool and its cells are free (R145, R147), on a pool that has its laws, as every step keeps
them (PoolLaw, CellLaw). -/
def Obligations.TransmissionEndReleasesTheCopy : Prop :=
  ∀ (p : Port) (d : Descriptor) (s : State), (s.port p).sending = some d →
    ∃ t, exec (.transmissionEnd p) s = .next t ∧ s.otherPortsKept t p
      ∧ (t.port p).counters = { (s.port p).counters with framesOut := bump (s.port p).counters.framesOut }
      ∧ (∀ g, s.pool.find? (fun f => f.name = d.frame) = some g → (t.port p).lastOut = d.form.build g.bytes)
      ∧ t.port p = { ({ s.port p with sending := none } : PortUnit).choose s.settings.statusQuota.toNat with
          counters := (t.port p).counters, lastOut := (t.port p).lastOut }
      ∧ (∀ g ∈ s.pool, g.name ≠ d.frame → 0 < g.outstanding → g ∈ t.pool)
      ∧ (∀ g ∈ s.pool, g.name = d.frame → 2 ≤ g.outstanding → { g with outstanding := g.outstanding - 1 } ∈ t.pool)
      ∧ (∀ g ∈ s.pool, g.name = d.frame → g.outstanding = 1 → PoolLaw s → CellLaw s →
          (∀ g' ∈ t.pool, g'.name ≠ d.frame) ∧ t.freeCells = s.freeCells + cellsFor g.bytes.length)
      ∧ (∀ h, t.tally h = if d.handle = some h then s.tally h - 1 else s.tally h)
      ∧ (∀ h, h ∈ t.notices ↔ h ∈ s.notices ∨ (d.handle = some h ∧ s.tally h = 1))
      ∧ t = { s with ports := t.ports, pool := t.pool, tallies := t.tallies, notices := t.notices }

/-- An idle transmitter's choice: TRIP first; else STATUS when SAMPLE is empty or the quota count has come to STATUS QUOTA; else SAMPLE;
with the quota count moved as the table of R153 gives. A frame is admitted under its class by the free cells the class must leave, 0, 32
or 96, or refused whole: POOL set, "pool refusals" one more on the blamed port, no cell, queue or tally changed; a frame with no copies
leaves everything as it was (R148). An admitted frame's copies meet one of three fates: flushed at once and counted, lost to a full queue
and counted "queue drops", or at its queue's tail, where the copy counts in its handle's tally; the others go ahead whatever becomes of
one, and the frame is stored with the copies enqueued, or not at all when there is none (R149, R154). Each port's idle transmitter then
chooses; that it does so within the same step is the model's deduction from R152 (log 31). The queue drop sets no flag (R165). -/
def Obligations.TransmitterChoiceAndAdmission : Prop :=
  (∀ (u : PortUnit) (quota : Nat), u.state = .up ∨ u.state = .proving → u.sending = none →
      (∀ d rest, u.trip = d :: rest → u.choose quota = { u with trip := rest, sending := some d })
      ∧ (∀ d rest, u.trip = [] → u.status = d :: rest → (u.sample = [] ∨ quota ≤ u.quota.toNat) →
          u.choose quota = { u with status := rest, sending := some d, quota := 0 })
      ∧ (∀ d rest, u.trip = [] → u.sample = d :: rest → u.status = [] →
          u.choose quota = { u with sample := rest, sending := some d, quota := 0 })
      ∧ (∀ d rest, u.trip = [] → u.sample = d :: rest → u.status ≠ [] → u.quota.toNat < quota →
          u.choose quota = { u with sample := rest, sending := some d, quota := bump u.quota })
      ∧ (u.trip = [] → u.sample = [] → u.status = [] → u.choose quota = u))
  ∧ ((∀ need free, admissible .trip need free = true ↔ need ≤ free)
      ∧ (∀ need free, admissible .sample need free = true ↔ need ≤ free ∧ 32 ≤ free - need)
      ∧ (∀ need free, admissible .status need free = true ↔ need ≤ free ∧ 96 ≤ free - need)
      ∧ ∀ (s : State) (frame : List Byte) (cls : DataClass) (copies : List Copy) (p : Port),
        (copies = [] → s.requestAdmission frame cls copies [p] = (s, []))
        ∧ (copies ≠ [] → admissible cls (cellsFor frame.length) s.freeCells = false →
            s.requestAdmission frame cls copies [p] =
              ({ s with
                flags := s.flags ||| Flag.pool.mask
                ports := s.ports.set p { s.port p with counters := { (s.port p).counters with
                  poolRefusals := bump (s.port p).counters.poolRefusals } } }, []))
        ∧ ((copies.map Copy.port).Nodup → copies ≠ [] → admissible cls (cellsFor frame.length) s.freeCells = true →
            let enters (c : Copy) : Bool := !s.flushesAtOnce c && !s.queueFull c.port cls
            let n := copies.countP enters
            ∃ t, s.requestAdmission frame cls copies [p] = (t, copies.map (fun c =>
                if s.flushesAtOnce c then .flushed else if s.queueFull c.port cls then .dropped else .enqueued))
              ∧ s.onlyTrafficMoves t ∧ t.flags = s.flags
              ∧ t.pool = (if n = 0 then s.pool else s.pool ++ [⟨s.nextName, frame, cls, n⟩])
              ∧ (∀ h, t.tally h = s.tally h + copies.countP (fun c => enters c && c.handle == some h))
              ∧ (∀ q, q ∉ copies.map Copy.port → t.port q = s.port q)
              ∧ ∀ c ∈ copies,
                  let u := s.port c.port
                  let quota := s.settings.statusQuota.toNat
                  t.port c.port =
                    if s.flushesAtOnce c then
                      ({ u with counters := { u.counters with flushed := bump u.counters.flushed } } : PortUnit).choose quota
                    else if s.queueFull c.port cls then
                      ({ u with counters := { u.counters with queueDrops := bump u.counters.queueDrops } } : PortUnit).choose quota
                    else (u.setQueue cls (u.queue cls ++ [⟨s.nextName, c.form, c.handle⟩])).choose quota))

/-! ## The command port (spec/10) -/

/-- While the load runs every command but STATUS READ and FULL RESET has no effect beyond NOT_READY as the last result, FLAGS READ not
even that, which is the model's choice (R159, R160; log 33). A frame cut short before its arguments are complete posts BAD_VALUE, and a timed one makes no claim
(R157). A byte that names no command posts UNKNOWN_COMMAND, an unknown PORT COMMAND action BAD_VALUE, and a frame that ends before its
command byte nothing at all (R116, R156, R160). -/
def Obligations.RefusedFramesHaveNoEffect : Prop :=
  (∀ (i : Instr) (s : State), s.ready = false →
      (frameOfCommand i).isSome = true → i ≠ .statusRead → i ≠ .fullReset → i ≠ .flagsRead → i ≠ .unknownCommand .noByte →
      exec i s = .next { s with spiOut := [s.statusByte], lastResult := .notReady })
  ∧ (∀ s : State, s.ready = false → exec .flagsRead s = .next { s with spiOut := [s.statusByte] })
  ∧ (∀ (i : Instr) (s : State), s.ready = true →
      i ∈ [.flagsClear .cut, .settingRead .cut, .settingWrite .cut, .stageWrite .cut, .install .cut, .amend .cut, .retire .cut] ++
        [.hold .cut, .release .cut, .snapshot .cut, .snapshotClear .cut, .viewRead .cut, .portRead .cut, .portOn .cut, .rosterRead .cut] →
      exec i s = .next { s with spiOut := [s.statusByte], lastResult := .badValue })
  ∧ (∀ (code port action : Byte) (s : State), s.ready = true →
      exec (.unknownCommand (.commandByte code)) s = .next { s with spiOut := [s.statusByte], lastResult := .unknownCommand }
      ∧ exec (.unknownCommand (.portAction port action)) s = .next { s with spiOut := [s.statusByte], lastResult := .badValue }
      ∧ exec (.unknownCommand .noByte) s = .next s)

/-- A timed command taken while none is in flight sets BUSY with its kind, its handle and, for INSTALL and AMEND, a copy of the staging
record, and writes no result; given while one is in flight it posts BUSY and changes nothing else (R95, R159, R161). With it the
notice or the visit whose turn it is becomes the grant in hand at the claim, when none is in hand still: the model's choice (log 35). -/
def Obligations.TimedCommandClaimsOrIsBusy : Prop :=
  ∀ (h : Word) (s : State), s.ready = true →
    let claims (i : Instr) (kind : TimedKind) (copy : List Byte) : Prop :=
      (s.inFlight = none → exec i s = .next { s with
          spiOut := [s.statusByte], inFlight := some ⟨kind, h, copy⟩
          inHand := if s.inHand = none then s.lowTurn else s.inHand })
      ∧ (s.inFlight ≠ none → exec i s = .next { s with spiOut := [s.statusByte], lastResult := .busy })
    claims (.install (.whole h)) .install s.staging ∧ claims (.amend (.whole h)) .amend s.staging
      ∧ claims (.retire (.whole h)) .retire [] ∧ claims (.hold (.whole h)) .hold [] ∧ claims (.release (.whole h)) .release []
      ∧ claims (.snapshot (.whole h)) .snapshot [] ∧ claims (.snapshotClear (.whole h)) .snapshotClear []

/-- STATUS READ returns the overrun count, the skipped count and the tries count and changes nothing, ready or not (R162); FLAGS READ
returns the flags word and writes no result; FLAGS CLEAR clears the flags its word names and no other (R165). The ATTN line is asserted
exactly while READY is set and some flag is set whose bit in ATTN MASK is 1, and the status byte's bit 4 shows it, beside READY, BUSY,
LOAD_FAILED and the last result (R158, R166). -/
def Obligations.StatusFlagsAndAttn : Prop :=
  (∀ (w : Word) (s : State),
      exec .statusRead s = .next { s with spiOut := s.statusByte :: (wordBytes s.sweep.overruns ++
        [BitVec.ofNat 8 s.loader.skipped, BitVec.ofNat 8 s.loader.tries]) }
      ∧ (s.ready = true → exec .flagsRead s = .next { s with spiOut := s.statusByte :: wordBytes (s.flags.setWidth 16) })
      ∧ (s.ready = true → ∃ t, exec (.flagsClear (.whole w)) s = .next (s.replied t 2 .done []) ∧ t = { s with flags := t.flags }
          ∧ ∀ f : Flag, t.flag f = (s.flag f && !w.getLsbD f.bit)))
  ∧ (∀ s : State,
      (s.attnAsserted = true ↔ s.ready = true ∧ ∃ f : Flag, s.flag f = true ∧ s.settings.attnMask.getLsbD f.bit = true)
      ∧ s.statusByte.getLsbD 7 = s.ready ∧ s.statusByte.getLsbD 6 = s.inFlight.isSome ∧ s.statusByte.getLsbD 5 = s.loadFailed
      ∧ s.statusByte.getLsbD 4 = s.attnAsserted ∧ s.statusByte.extractLsb' 0 4 = s.lastResult.code)

/-- SETTING READ returns the value of the setting its number names, in R163's numbering; a number above 0x15 gives BAD_VALUE and no data.
SETTING WRITE of a setting that has no rule beyond its range: in range it is replaced and no other setting changes, out of range or of a
number above 0x15 it gives BAD_VALUE and changes nothing (R163); so does ATTN MASK's own row, whose range is the nine flags' bits
(R166). -/
def Obligations.SettingReadsAndPlainWrites : Prop :=
  (∀ (n : Byte) (s : State), s.ready = true →
      let values := [s.settings.node, s.settings.epoch, s.settings.hopLimit, s.settings.tagType, s.settings.probeGroup0,
        s.settings.probeGroup1, s.settings.probeGroup2, s.settings.probePeriod, s.settings.probeMissLimit, s.settings.sweepPeriod,
        s.settings.sweepMask, s.settings.freeze, s.settings.pairEnable, s.settings.attachedNode0, s.settings.attachedNode1,
        s.settings.maxFrame, s.settings.queueCapTrip, s.settings.queueCapSample, s.settings.queueCapStatus, s.settings.statusQuota,
        s.settings.flapLimit, s.settings.attnMask]
      exec (.settingRead (.whole n)) s = .next (match values[n.toNat]? with
        | some v => s.replied s 1 .done (wordBytes v)
        | none => s.replied s 1 .badValue []))
  ∧ (∀ (n : Byte) (x : Word) (s : State), s.ready = true →
      let written (i : Instr) (ok : Bool) (v : Settings) : Prop :=
        exec i s = .next (if ok then s.replied { s with settings := v } 3 .done [] else s.replied s 3 .badValue [])
      (0x15 < n.toNat → exec (.settingWrite (.whole (n, x))) s = .next (s.replied s 3 .badValue []))
      ∧ written (.settingWrite (.whole (0x01, x))) (decide (x.toNat ≤ 15)) { s.settings with epoch := x }
      ∧ written (.settingWrite (.whole (0x02, x))) (decide (1 ≤ x.toNat ∧ x.toNat ≤ 63)) { s.settings with hopLimit := x }
      ∧ written (.settingWrite (.whole (0x03, x))) (decide (0x0600 ≤ x.toNat)) { s.settings with tagType := x }
      ∧ written (.settingWrite (.whole (0x04, x))) true { s.settings with probeGroup0 := x }
      ∧ written (.settingWrite (.whole (0x05, x))) true { s.settings with probeGroup1 := x }
      ∧ written (.settingWrite (.whole (0x06, x))) true { s.settings with probeGroup2 := x }
      ∧ written (.settingWrite (.whole (0x07, x))) (decide (1 ≤ x.toNat ∧ x.toNat ≤ 100)) { s.settings with probePeriod := x }
      ∧ written (.settingWrite (.whole (0x09, x))) (decide (x.toNat ≤ 3)) { s.settings with sweepPeriod := x }
      ∧ written (.settingWrite (.whole (0x0A, x))) (decide (x.toNat ≤ 0xFF)) { s.settings with sweepMask := x }
      ∧ written (.settingWrite (.whole (0x0F, x))) (decide (x = 1536 ∨ x = 2048)) { s.settings with maxFrame := x }
      ∧ written (.settingWrite (.whole (0x10, x))) (decide (1 ≤ x.toNat ∧ x.toNat ≤ 128)) { s.settings with queueCapTrip := x }
      ∧ written (.settingWrite (.whole (0x11, x))) (decide (1 ≤ x.toNat ∧ x.toNat ≤ 128)) { s.settings with queueCapSample := x }
      ∧ written (.settingWrite (.whole (0x12, x))) (decide (1 ≤ x.toNat ∧ x.toNat ≤ 128)) { s.settings with queueCapStatus := x }
      ∧ written (.settingWrite (.whole (0x13, x))) (decide (1 ≤ x.toNat ∧ x.toNat ≤ 255)) { s.settings with statusQuota := x }
      ∧ written (.settingWrite (.whole (0x14, x))) (decide (x.toNat ≤ 15)) { s.settings with flapLimit := x }
      ∧ written (.attnMaskWrite x) (decide (x.toNat ≤ 0x01FF)) { s.settings with attnMask := x })

/-- A NODE write, by the table of R5: WRONG_STATE unless both lanes are OFF, then BAD_VALUE above 60 or on the ATTACHED NODE of an enabled
pair; passed, NODE takes the value and the probe unit restarts as R142 gives. -/
def Obligations.NodeWriteRestartsTheProbeUnit : Prop :=
  ∀ (x : Word) (s : State), s.ready = true →
    let lanesOff := (s.port (.lane .a)).state = .off ∧ (s.port (.lane .b)).state = .off
    let clashes := x ≠ 0 ∧ ((s.settings.pairEnable.getLsbD 0 = true ∧ x = s.settings.attachedNode0)
      ∨ (s.settings.pairEnable.getLsbD 1 = true ∧ x = s.settings.attachedNode1))
    (¬ lanesOff → exec (.nodeWrite x) s = .next (s.replied s 3 .wrongState []))
    ∧ (lanesOff → 60 < x.toNat ∨ clashes → exec (.nodeWrite x) s = .next (s.replied s 3 .badValue []))
    ∧ (lanesOff → x.toNat ≤ 60 → ¬ clashes → ∃ t, exec (.nodeWrite x) s = .next (s.replied t 3 .done [])
        ∧ t.settings = { s.settings with node := x }
        ∧ t.probe.serials = [] ∧ t.probe.nextSerial = none ∧ t.probe.answeredA = false ∧ t.probe.answeredB = false
        ∧ t.probe.missA = (if x = 0 then 0 else 15) ∧ t.probe.missB = (if x = 0 then 0 else 15)
        ∧ t.probe.ring = (if x = 0 then .noRing else .isOpen) ∧ t.probe.clashes = s.probe.clashes
        ∧ t.probe.boundary = some (s.bayClock + milliseconds (if x = 0 then 10 else s.settings.probePeriod.toNat))
        ∧ (x ≠ 0 → t.rosterEntry x.toNat = RosterEntry.absent)
        ∧ (∀ k, k ≠ x.toNat ∨ x = 0 → t.rosterEntry k = s.rosterEntry k)
        ∧ t.flag .ring = (s.flag .ring || t.probe.ring != s.probe.ring)
        ∧ t.flag .roster = (s.flag .roster || (x != 0 && (s.rosterEntry x.toNat).status != 0))
        ∧ t = { s with settings := t.settings, probe := t.probe, flags := t.flags })

/-- A write of a pair's ATTACHED NODE, by R6: WRONG_STATE unless both ports of the pair are OFF, then BAD_VALUE above 60, on NODE, or on the
other pair's ATTACHED NODE while that pair is enabled; passed, the setting alone changes. A write of PAIR ENABLE, its conditions in the
order of R122: BAD_VALUE above 3, WRONG_STATE when a pair whose bit changes has a port not OFF, BAD_VALUE on a clash with NODE or
between the two pairs; passed, the setting alone changes. That a claim which waits through its port's OFF hinders neither write is the
model's choice (log 39). -/
def Obligations.PairSettingWritesNeedPortsOffAndNoClash : Prop :=
  (∀ (k : Pair) (x : Word) (s : State), s.ready = true →
      let off := (s.port (.bay k.first)).state = .off ∧ (s.port (.bay k.second)).state = .off
      let bad := 60 < x.toNat ∨ (x ≠ 0 ∧ x = s.settings.node)
        ∨ (x ≠ 0 ∧ s.settings.pairEnabled k.other = true ∧ x = s.settings.attached k.other)
      (¬ off → exec (.attachedNodeWrite k x) s = .next (s.replied s 3 .wrongState []))
      ∧ (off → bad → exec (.attachedNodeWrite k x) s = .next (s.replied s 3 .badValue []))
      ∧ (off → ¬ bad → exec (.attachedNodeWrite k x) s = .next (s.replied { s with settings := match k with
          | .pair0 => { s.settings with attachedNode0 := x }
          | .pair1 => { s.settings with attachedNode1 := x } } 3 .done [])))
  ∧ (∀ (x : Word) (s : State), s.ready = true →
      let off (k : Pair) := (s.port (.bay k.first)).state = .off ∧ (s.port (.bay k.second)).state = .off
      let blocked := ∃ k : Pair, x.getLsbD k.index ≠ s.settings.pairEnable.getLsbD k.index ∧ ¬ off k
      let clash := (∃ k : Pair, x.getLsbD k.index = true ∧ s.settings.pairEnable.getLsbD k.index = false
          ∧ s.settings.attached k ≠ 0 ∧ s.settings.attached k = s.settings.node)
        ∨ (x.getLsbD 0 = true ∧ x.getLsbD 1 = true ∧ s.settings.attachedNode0 ≠ 0
          ∧ s.settings.attachedNode0 = s.settings.attachedNode1)
      (3 < x.toNat → exec (.pairEnableWrite x) s = .next (s.replied s 3 .badValue []))
      ∧ (x.toNat ≤ 3 → blocked → exec (.pairEnableWrite x) s = .next (s.replied s 3 .wrongState []))
      ∧ (x.toNat ≤ 3 → ¬ blocked → clash → exec (.pairEnableWrite x) s = .next (s.replied s 3 .badValue []))
      ∧ (x.toNat ≤ 3 → ¬ blocked → ¬ clash →
          exec (.pairEnableWrite x) s = .next (s.replied { s with settings := { s.settings with pairEnable := x } } 3 .done [])))

/-- FREEZE gains the bits written and loses none (R111); PROBE MISS LIMIT is replaced and the ring state set anew at the write (R137); both
give BAD_VALUE outside their range and change nothing. The ring state set anew is that of R137's table: NONE with NODE 0, OPEN with a lane
not UP or a miss count at or above the limit, else SUSPECT with a miss count of 1 or more, else CLOSED. -/
def Obligations.FreezeAndMissLimitWritesAndTheRingStateTable : Prop :=
  (∀ (x : Word) (s : State), s.ready = true →
    (x.toNat ≤ 0xFF → exec (.freezeWrite x) s =
      .next (s.replied { s with settings := { s.settings with freeze := s.settings.freeze ||| x } } 3 .done []))
    ∧ (0xFF < x.toNat → exec (.freezeWrite x) s = .next (s.replied s 3 .badValue []))
    ∧ (1 ≤ x.toNat → x.toNat ≤ 15 → ∃ t, exec (.probeMissLimitWrite x) s = .next (s.replied t 3 .done [])
        ∧ t.settings = { s.settings with probeMissLimit := x } ∧ s.ringFollows t false
        ∧ t = { s with settings := t.settings, flags := t.flags, probe := { s.probe with ring := t.probe.ring } })
    ∧ (x = 0 ∨ 15 < x.toNat → exec (.probeMissLimitWrite x) s = .next (s.replied s 3 .badValue [])))
  ∧ (∀ s : State,
      let lanesUp := (s.port (.lane .a)).state = .up ∧ (s.port (.lane .b)).state = .up
      let limit := s.settings.probeMissLimit.toNat
      let a := s.probe.missA.toNat
      let b := s.probe.missB.toNat
      (s.settings.node = 0 → s.ringNow = .noRing)
      ∧ (s.settings.node ≠ 0 → ¬ lanesUp → s.ringNow = .isOpen)
      ∧ (s.settings.node ≠ 0 → lanesUp → limit ≤ a ∨ limit ≤ b → s.ringNow = .isOpen)
      ∧ (s.settings.node ≠ 0 → lanesUp → a < limit → b < limit → 1 ≤ a ∨ 1 ≤ b → s.ringNow = .suspect)
      ∧ (s.settings.node ≠ 0 → lanesUp → 0 < limit → a = 0 → b = 0 → s.ringNow = .closed))

/-- STAGE WRITE writes its data from its offset on, ignoring bytes past offset 31; STAGE READ returns the 32 bytes; VIEW READ returns bytes
of the front view, 0x00 past offset 95 (R94, R105). ATTENTION READ returns at most 16 handles of the attention set, upward from the cursor
and round past 511, with their number, and moves the cursor past the last; on an empty set it returns 0 and leaves the cursor; the set
and the flags stay (R110). -/
def Obligations.StagingViewAndAttentionCommands : Prop :=
  (∀ (offset length : Byte) (data : List Byte) (s : State), s.ready = true → s.staging.length = 32 → s.frontView.length = 96 →
      (∃ t, exec (.stageWrite (.whole (offset, data))) s = .next (s.replied t 1 .done []) ∧ t = { s with staging := t.staging }
        ∧ t.staging.length = 32
        ∧ ∀ i, i < 32 → byteAt t.staging i =
            if offset.toNat ≤ i ∧ i < offset.toNat + data.length then byteAt data (i - offset.toNat) else byteAt s.staging i)
      ∧ exec .stageRead s = .next (s.replied s 0 .done s.staging)
      ∧ (∃ bytes, exec (.viewRead (.whole (offset, length))) s = .next (s.replied s 2 .done bytes) ∧ bytes.length = length.toNat
        ∧ ∀ i, i < length.toNat → byteAt bytes i = if offset.toNat + i ≤ 95 then byteAt s.frontView (offset.toNat + i) else 0x00))
  ∧ (∀ s : State, s.ready = true →
      let set := s.attentionSet
      let chosen := (set.filter (fun h => decide (s.cursor ≤ h)) ++ set.filter (fun h => decide (h < s.cursor))).take 16
      ∃ t, exec .attentionRead s = .next (s.replied t 0 .done
          (BitVec.ofNat 8 chosen.length :: chosen.flatMap (fun h => wordBytes (BitVec.ofNat 16 h))))
        ∧ t = { s with cursor := t.cursor } ∧ chosen.length ≤ 16
        ∧ (set = [] → t.cursor = s.cursor) ∧ (∀ h, chosen.getLast? = some h → t.cursor = (h + 1) % 512)
        ∧ (∀ h, h ∈ chosen → (s.record h).inAttention = true ∨ Sparse.wf Record.free s.table = false))

/-- PORT READ returns the port's block of 65 bytes, its flap entries counted without those a second old; with the clear mark the twelve
counters are 0 afterwards and nothing else of the part changes; a number above 5 gives BAD_VALUE and no data (R124). ROSTER READ returns
the bay clock and the entries asked, 13 bytes each, stopping after entry 60; a first node number or a number of entries outside 1..60
gives BAD_VALUE and no data (R144). An entry's bytes are its number, its status, the reported states, and each lane's distance and last
heard time, five bytes of 0 for a lane without evidence (R140, 12.4). The 0 bits of the port block that no field names are the model's
choice (log 37). -/
def Obligations.PortAndRosterReads : Prop :=
  (∀ (n : Byte) (s : State), s.ready = true →
      (5 < n.toNat → exec (.portRead (.whole n)) s = .next (s.replied s 2 .badValue [])
        ∧ exec (.portReadClear n) s = .next (s.replied s 2 .badValue []))
      ∧ ∀ p, portOfNumber n = some p →
          let u := s.port p
          let c := u.counters
          let proving := match p with
            | .lane l =>
              let r := s.provingOf l
              (if u.state = .proving then 0x01 else 0x00) :: (wordBytes r.sequence ++ wordBytes r.sent ++ wordBytes r.returned
                ++ timeBytes r.lastTrip ++ timeBytes r.longestTrip)
            | .bay _ => List.replicate 15 0x00
          let block : List Byte :=
            (BitVec.ofBool u.signal ++ 0#4 ++ u.state.code)
              :: BitVec.ofNat 8 (u.flaps.filter (fun x => decide ((s.bayClock - x).toNat < 1000000))).length
              :: ([c.framesIn, c.fcsErrors, c.tagErrors, c.untagged, c.unexpectedTag, c.unclaimed, c.returned, c.hopExpired, c.queueDrops,
                  c.poolRefusals, c.flushed, c.framesOut].flatMap timeBytes ++ proving)
          block.length = 65
          ∧ exec (.portRead (.whole n)) s = .next (s.replied s 2 .done block)
          ∧ exec (.portReadClear n) s =
              .next (s.replied { s with ports := s.ports.set p { u with counters := PortCounters.zero } } 2 .done block))
  ∧ (∀ (first n : Byte) (s : State), s.ready = true →
      (¬ (1 ≤ first.toNat ∧ first.toNat ≤ 60 ∧ 1 ≤ n.toNat ∧ n.toNat ≤ 60) →
        exec (.rosterRead (.whole (first, n))) s = .next (s.replied s 2 .badValue []))
      ∧ (1 ≤ first.toNat → first.toNat ≤ 60 → 1 ≤ n.toNat → n.toNat ≤ 60 →
        exec (.rosterRead (.whole (first, n))) s = .next (s.replied s 2 .done (timeBytes s.bayClock ++
          (List.range (min n.toNat (61 - first.toNat))).flatMap (fun i => rosterBytes (first.toNat + i) (s.rosterEntry (first.toNat + i)))))))
  ∧ (∀ (k : Nat) (e : RosterEntry),
      let b := rosterBytes k e
      let laneCode (x : PortState) : BitVec 3 := match x with | .off => 0 | .down => 1 | .up => 2 | .proving => 3 | .isolated => 4
      let evidence (at_ : Nat) (v : Option Evidence) : Prop := match v with
        | some x => byteAt b at_ = x.distance ∧ timeAt b (at_ + 1) = x.lastHeard
        | none => ∀ j, j < 5 → byteAt b (at_ + j) = 0x00
      b.length = 13 ∧ byteAt b 0 = BitVec.ofNat 8 k
        ∧ byteAt b 1 = (match e.heardA, e.heardB with | none, none => 0 | some _, none => 1 | none, some _ => 2 | some _, some _ => 3)
        ∧ (byteAt b 2).extractLsb' 6 2 = (match e.ring with | .noRing => 0 | .closed => 1 | .suspect => 2 | .isOpen => 3)
        ∧ (byteAt b 2).extractLsb' 3 3 = laneCode e.laneA ∧ (byteAt b 2).extractLsb' 0 3 = laneCode e.laneB
        ∧ evidence 3 e.heardA ∧ evidence 8 e.heardB)

/-- RING READ gives DONE and returns the ring state, the two miss counts, the number of serials and the serials oldest first, and the clash
count, and changes nothing (R143). -/
def Obligations.RingReadReturnsTheRingBlock : Prop :=
  ∀ s : State, s.ready = true →
    let u := s.probe
    exec .ringRead s = .next (s.replied s 0 .done
      ([u.ring.code.setWidth 8, u.missA.setWidth 8, u.missB.setWidth 8, BitVec.ofNat 8 u.serials.length]
        ++ wordBytes (u.serials.getD 0 0) ++ wordBytes (u.serials.getD 1 0) ++ wordBytes (u.serials.getD 2 0)
        ++ wordBytes (u.serials.getD 3 0) ++ wordBytes u.clashes))

/-- CONTROL RESET withdraws the timed operation in flight, clears BUSY, the last result and DONE, resets the staging record, the views and
the cursor, and leaves everything else as it stands; while the load runs it is refused with NOT_READY (R168). -/
def Obligations.ControlResetClearsTheCommandPortAlone : Prop :=
  ∀ s : State,
    (s.ready = true → ∃ t, exec .controlReset s = .next t
      ∧ t = { s with
          inFlight := none, lastResult := .done, flags := s.flags &&& ~~~ Flag.done.mask
          staging := List.replicate 7 0x00 ++ [20] ++ List.replicate 24 0x00
          frontView := List.replicate 96 0x00, backView := List.replicate 96 0x00, cursor := 0, spiOut := [s.statusByte] }
      ∧ t.flag .done = false ∧ (∀ f : Flag, f ≠ .done → t.flag f = s.flag f) ∧ t.isBusy = false ∧ t.ready = true
      ∧ t.loadFailed = s.loadFailed ∧ t.statusByte.extractLsb' 0 4 = 0)
    ∧ (s.ready = false → exec .controlReset s = .next { s with spiOut := [s.statusByte], lastResult := .notReady })

/-! ## Laws that every step keeps -/

/-- The laws of the stream table: canonical, handles 0..511, every record lawful, no key held twice (R19 to R30, R47, R109). -/
def Obligations.EveryStepKeepsTheTableLaws : Prop :=
  ∀ s t : State, TableLaw s → KeyLaw s → step s = .next t → TableLaw t ∧ KeyLaw t

/-- The laws of the pool: the cells of every class within their bounds, every stored frame with exactly its outstanding copies, every
handle's tally the number of its copies queued or in transmission (R145, R148, R154). -/
def Obligations.EveryStepKeepsThePoolLaws : Prop :=
  ∀ s t : State, CellLaw s → PoolLaw s → TallyLaw s → step s = .next t → CellLaw t ∧ PoolLaw t ∧ TallyLaw t

/-- The laws of the ports and of the probe unit: a port out of service holds nothing, no bay port proves, and the ring state is the one its
table gives (R114, R118, R120, R135, R137, R138). The law of the start: while the load runs every port is OFF, the table all FREE, no
timed operation in flight and the sweep and the probe unit stopped, and once it has ended the probe unit runs (R170, R175). The law of the
loader: between steps it is READING, LOADED or FAILED; while it reads, its store holds a header that passed, if any, no record is skipped,
and a transfer being retried has had at most two tries; the tries count stays within 3 and the skipped count within 64 (R162, R171 to
R174). -/
def Obligations.EveryStepKeepsThePortAndRingLaws : Prop :=
  ∀ s t : State, PortLaw s → RingLaw s → StartLaw s → LoaderLaw s → step s = .next t →
    PortLaw t ∧ RingLaw t ∧ StartLaw t ∧ LoaderLaw t

/-- Every setting stays in its range and the own-origin set free of repeated numbers (R6, R163). The roster stays a table of entries 1 to
60 and the serial list at four at most (R131, R140). The staging record keeps 32 bytes and each view 96, with the cursor in 0..511
(R94, R105, R110). The sweep position stays in 0..512, and no handle is listed twice for a notice (R30, R78). -/
def Obligations.EveryStepKeepsTheSettingsRosterBufferAndSweepLaws : Prop :=
  ∀ s t : State, step s = .next t →
    (SettingsLaw s → SettingsLaw t) ∧ (RosterLaw s → RosterLaw t) ∧ (BufferLaw s → BufferLaw t) ∧ (SweepLaw s → SweepLaw t)

/-- Outside the three starts and the load, no command changes the presence, key or configuration of a record in a frozen segment, but for
the drain of one that was retired before its segment was frozen: a RETIRING record stays as it is or becomes FREE, a FREE one stays as
it is, and no freeze bit is cleared (R30, R111). -/
def Obligations.FrozenRecordsAreNotChanged : Prop :=
  ∀ (c : Instr) (h : Nat) (s t : State), TableLaw s →
    (∀ signal, c ≠ .powerOn signal) → c ≠ .resetNLow → c ≠ .fullReset → (∀ o, c ≠ .transfer o) →
    s.settings.frozen h = true → exec c s = .next t →
    t.settings.frozen h = true
      ∧ (t.record h).state.occupied = (s.record h).state.occupied
      ∧ ((s.record h).state ≠ .retiring → (t.record h).config = (s.record h).config)
      ∧ ((s.record h).state = .free → t.record h = s.record h)
      ∧ ((s.record h).state = .retiring → t.record h = s.record h ∨ t.record h = Record.free)

/-- The state after reset has every law (R37, R78, R131, R145, R154, R170). -/
def Obligations.ResetHasEveryLaw : Prop :=
  SettingsLaw State.reset ∧ TableLaw State.reset ∧ KeyLaw State.reset ∧ CellLaw State.reset ∧ PoolLaw State.reset
    ∧ TallyLaw State.reset ∧ PortLaw State.reset ∧ RingLaw State.reset ∧ RosterLaw State.reset ∧ BufferLaw State.reset
    ∧ SweepLaw State.reset ∧ StartLaw State.reset ∧ LoaderLaw State.reset
end

