-- ==== Sys2Proof/Laws/Arbiter.lean ====
section
/-! SUPPORT. Whose turn it is at the table arbiter, said once (R31): the low claims in their turn, and in hand at a timed operation's
claim (R96). -/

namespace Sys2Proof.Machine

/-- It is a notice's turn only for the oldest one. -/
theorem State.notices_head_of_turn {s : State} {h : Nat} (ht : s.turn = .notice h) : s.notices.head? = some h := by
  unfold State.turn at ht
  split at ht
  · cases ht
  · split at ht
    · cases ht
    · split at ht
      · rename_i hn
        rw [hn]
        cases ht
        rfl
      · split at ht <;> cases ht

/-- It is the visit's turn only while a pass runs. -/
theorem State.position_of_turn {s : State} (ht : s.turn = .visit) : s.sweep.position < Config.handles := by
  unfold State.turn at ht
  split at ht
  · cases ht
  · split at ht
    · cases ht
    · split at ht
      · cases ht
      · split at ht
        · assumption
        · cases ht

theorem State.noticeTurn_of_turn {s : State} {h : Nat} (ht : s.turn = .notice h) : s.noticeTurn = some h := by
  have hl : s.lowTurn = some .notice := by unfold State.lowTurn; rw [ht]
  unfold State.noticeTurn
  rw [if_pos (Or.inl hl), State.notices_head_of_turn ht]

theorem State.visitTurn_of_turn {s : State} (ht : s.turn = .visit) : s.visitTurn = true := by
  have hl : s.lowTurn = some .visit := by unfold State.lowTurn; rw [ht]
  have hp := State.position_of_turn ht
  simp [State.visitTurn, hl, hp]

/-- A notice that may act is the oldest one. -/
theorem State.notices_head_of_noticeTurn {s : State} {h : Nat} (ht : s.noticeTurn = some h) : s.notices.head? = some h := by
  unfold State.noticeTurn at ht
  split at ht
  · exact ht
  · cases ht

/-- A visit that may act is of a handle of the table. -/
theorem State.position_of_visitTurn {s : State} (ht : s.visitTurn = true) : s.sweep.position < Config.handles := by
  simp only [State.visitTurn, Bool.and_eq_true, decide_eq_true_eq] at ht
  exact ht.2

/-- With no grant in hand a notice acts in its turn alone. -/
theorem State.turn_of_noticeTurn {s : State} {h : Nat} (hi : s.inHand = none) (ht : s.noticeTurn = some h) : s.turn = .notice h := by
  have hh := State.notices_head_of_noticeTurn ht
  unfold State.noticeTurn at ht
  rw [hi] at ht
  split at ht
  · rename_i hl
    simp only [reduceCtorEq, or_false] at hl
    unfold State.lowTurn at hl
    split at hl <;> simp at hl
    rename_i k hk
    have := State.notices_head_of_turn hk
    rw [hh] at this
    cases this
    exact hk
  · cases ht

/-- With no grant in hand a visit acts in its turn alone. -/
theorem State.turn_of_visitTurn {s : State} (hi : s.inHand = none) (ht : s.visitTurn = true) : s.turn = .visit := by
  simp only [State.visitTurn, hi, Bool.and_eq_true, Bool.or_eq_true, beq_iff_eq, reduceCtorEq, or_false] at ht
  have hl := ht.1
  unfold State.lowTurn at hl
  split at hl <;> simp at hl
  assumption

end Sys2Proof.Machine
end

