-- ==== Sys2Proof/Laws/State.lean ====
section
/-! SUPPORT. What each named update of State leaves in each field: one lemma per field per update, true by unfolding. -/

namespace Sys2Proof.Machine

/-! ## raise -/

@[simp] theorem State.raise_pending (s : State) (f : Flag) : (s.raise f).pending = s.pending := rfl
@[simp] theorem State.raise_draws (s : State) (f : Flag) : (s.raise f).draws = s.draws := rfl
@[simp] theorem State.raise_resetHeld (s : State) (f : Flag) : (s.raise f).resetHeld = s.resetHeld := rfl
@[simp] theorem State.raise_bayClock (s : State) (f : Flag) : (s.raise f).bayClock = s.bayClock := rfl
@[simp] theorem State.raise_lastResult (s : State) (f : Flag) : (s.raise f).lastResult = s.lastResult := rfl
@[simp] theorem State.raise_inFlight (s : State) (f : Flag) : (s.raise f).inFlight = s.inFlight := rfl
@[simp] theorem State.raise_inHand (s : State) (f : Flag) : (s.raise f).inHand = s.inHand := rfl
@[simp] theorem State.raise_staging (s : State) (f : Flag) : (s.raise f).staging = s.staging := rfl
@[simp] theorem State.raise_frontView (s : State) (f : Flag) : (s.raise f).frontView = s.frontView := rfl
@[simp] theorem State.raise_backView (s : State) (f : Flag) : (s.raise f).backView = s.backView := rfl
@[simp] theorem State.raise_cursor (s : State) (f : Flag) : (s.raise f).cursor = s.cursor := rfl
@[simp] theorem State.raise_settings (s : State) (f : Flag) : (s.raise f).settings = s.settings := rfl
@[simp] theorem State.raise_spiOut (s : State) (f : Flag) : (s.raise f).spiOut = s.spiOut := rfl
@[simp] theorem State.raise_table (s : State) (f : Flag) : (s.raise f).table = s.table := rfl
@[simp] theorem State.raise_notices (s : State) (f : Flag) : (s.raise f).notices = s.notices := rfl
@[simp] theorem State.raise_rotation (s : State) (f : Flag) : (s.raise f).rotation = s.rotation := rfl
@[simp] theorem State.raise_sweep (s : State) (f : Flag) : (s.raise f).sweep = s.sweep := rfl
@[simp] theorem State.raise_ports (s : State) (f : Flag) : (s.raise f).ports = s.ports := rfl
@[simp] theorem State.raise_proving (s : State) (f : Flag) : (s.raise f).proving = s.proving := rfl
@[simp] theorem State.raise_pool (s : State) (f : Flag) : (s.raise f).pool = s.pool := rfl
@[simp] theorem State.raise_nextName (s : State) (f : Flag) : (s.raise f).nextName = s.nextName := rfl
@[simp] theorem State.raise_tallies (s : State) (f : Flag) : (s.raise f).tallies = s.tallies := rfl
@[simp] theorem State.raise_probe (s : State) (f : Flag) : (s.raise f).probe = s.probe := rfl
@[simp] theorem State.raise_loader (s : State) (f : Flag) : (s.raise f).loader = s.loader := rfl

/-! ## lower -/

@[simp] theorem State.lower_pending (s : State) (f : Flag) : (s.lower f).pending = s.pending := rfl
@[simp] theorem State.lower_draws (s : State) (f : Flag) : (s.lower f).draws = s.draws := rfl
@[simp] theorem State.lower_resetHeld (s : State) (f : Flag) : (s.lower f).resetHeld = s.resetHeld := rfl
@[simp] theorem State.lower_bayClock (s : State) (f : Flag) : (s.lower f).bayClock = s.bayClock := rfl
@[simp] theorem State.lower_lastResult (s : State) (f : Flag) : (s.lower f).lastResult = s.lastResult := rfl
@[simp] theorem State.lower_inFlight (s : State) (f : Flag) : (s.lower f).inFlight = s.inFlight := rfl
@[simp] theorem State.lower_inHand (s : State) (f : Flag) : (s.lower f).inHand = s.inHand := rfl
@[simp] theorem State.lower_staging (s : State) (f : Flag) : (s.lower f).staging = s.staging := rfl
@[simp] theorem State.lower_frontView (s : State) (f : Flag) : (s.lower f).frontView = s.frontView := rfl
@[simp] theorem State.lower_backView (s : State) (f : Flag) : (s.lower f).backView = s.backView := rfl
@[simp] theorem State.lower_cursor (s : State) (f : Flag) : (s.lower f).cursor = s.cursor := rfl
@[simp] theorem State.lower_settings (s : State) (f : Flag) : (s.lower f).settings = s.settings := rfl
@[simp] theorem State.lower_spiOut (s : State) (f : Flag) : (s.lower f).spiOut = s.spiOut := rfl
@[simp] theorem State.lower_table (s : State) (f : Flag) : (s.lower f).table = s.table := rfl
@[simp] theorem State.lower_notices (s : State) (f : Flag) : (s.lower f).notices = s.notices := rfl
@[simp] theorem State.lower_rotation (s : State) (f : Flag) : (s.lower f).rotation = s.rotation := rfl
@[simp] theorem State.lower_sweep (s : State) (f : Flag) : (s.lower f).sweep = s.sweep := rfl
@[simp] theorem State.lower_ports (s : State) (f : Flag) : (s.lower f).ports = s.ports := rfl
@[simp] theorem State.lower_proving (s : State) (f : Flag) : (s.lower f).proving = s.proving := rfl
@[simp] theorem State.lower_pool (s : State) (f : Flag) : (s.lower f).pool = s.pool := rfl
@[simp] theorem State.lower_nextName (s : State) (f : Flag) : (s.lower f).nextName = s.nextName := rfl
@[simp] theorem State.lower_tallies (s : State) (f : Flag) : (s.lower f).tallies = s.tallies := rfl
@[simp] theorem State.lower_probe (s : State) (f : Flag) : (s.lower f).probe = s.probe := rfl
@[simp] theorem State.lower_loader (s : State) (f : Flag) : (s.lower f).loader = s.loader := rfl

/-! ## modPort -/

@[simp] theorem State.modPort_pending (s : State) (p : Port) (g : PortUnit → PortUnit) : (s.modPort p g).pending = s.pending := rfl
@[simp] theorem State.modPort_draws (s : State) (p : Port) (g : PortUnit → PortUnit) : (s.modPort p g).draws = s.draws := rfl
@[simp] theorem State.modPort_resetHeld (s : State) (p : Port) (g : PortUnit → PortUnit) : (s.modPort p g).resetHeld = s.resetHeld := rfl
@[simp] theorem State.modPort_bayClock (s : State) (p : Port) (g : PortUnit → PortUnit) : (s.modPort p g).bayClock = s.bayClock := rfl
@[simp] theorem State.modPort_lastResult (s : State) (p : Port) (g : PortUnit → PortUnit) : (s.modPort p g).lastResult = s.lastResult := rfl
@[simp] theorem State.modPort_inFlight (s : State) (p : Port) (g : PortUnit → PortUnit) : (s.modPort p g).inFlight = s.inFlight := rfl
@[simp] theorem State.modPort_inHand (s : State) (p : Port) (g : PortUnit → PortUnit) : (s.modPort p g).inHand = s.inHand := rfl
@[simp] theorem State.modPort_staging (s : State) (p : Port) (g : PortUnit → PortUnit) : (s.modPort p g).staging = s.staging := rfl
@[simp] theorem State.modPort_frontView (s : State) (p : Port) (g : PortUnit → PortUnit) : (s.modPort p g).frontView = s.frontView := rfl
@[simp] theorem State.modPort_backView (s : State) (p : Port) (g : PortUnit → PortUnit) : (s.modPort p g).backView = s.backView := rfl
@[simp] theorem State.modPort_cursor (s : State) (p : Port) (g : PortUnit → PortUnit) : (s.modPort p g).cursor = s.cursor := rfl
@[simp] theorem State.modPort_settings (s : State) (p : Port) (g : PortUnit → PortUnit) : (s.modPort p g).settings = s.settings := rfl
@[simp] theorem State.modPort_flags (s : State) (p : Port) (g : PortUnit → PortUnit) : (s.modPort p g).flags = s.flags := rfl
@[simp] theorem State.modPort_spiOut (s : State) (p : Port) (g : PortUnit → PortUnit) : (s.modPort p g).spiOut = s.spiOut := rfl
@[simp] theorem State.modPort_table (s : State) (p : Port) (g : PortUnit → PortUnit) : (s.modPort p g).table = s.table := rfl
@[simp] theorem State.modPort_notices (s : State) (p : Port) (g : PortUnit → PortUnit) : (s.modPort p g).notices = s.notices := rfl
@[simp] theorem State.modPort_rotation (s : State) (p : Port) (g : PortUnit → PortUnit) : (s.modPort p g).rotation = s.rotation := rfl
@[simp] theorem State.modPort_sweep (s : State) (p : Port) (g : PortUnit → PortUnit) : (s.modPort p g).sweep = s.sweep := rfl
@[simp] theorem State.modPort_proving (s : State) (p : Port) (g : PortUnit → PortUnit) : (s.modPort p g).proving = s.proving := rfl
@[simp] theorem State.modPort_pool (s : State) (p : Port) (g : PortUnit → PortUnit) : (s.modPort p g).pool = s.pool := rfl
@[simp] theorem State.modPort_nextName (s : State) (p : Port) (g : PortUnit → PortUnit) : (s.modPort p g).nextName = s.nextName := rfl
@[simp] theorem State.modPort_tallies (s : State) (p : Port) (g : PortUnit → PortUnit) : (s.modPort p g).tallies = s.tallies := rfl
@[simp] theorem State.modPort_probe (s : State) (p : Port) (g : PortUnit → PortUnit) : (s.modPort p g).probe = s.probe := rfl
@[simp] theorem State.modPort_loader (s : State) (p : Port) (g : PortUnit → PortUnit) : (s.modPort p g).loader = s.loader := rfl

/-! ## count -/

@[simp] theorem State.count_pending (s : State) (p : Port) (g : PortCounters → PortCounters) : (s.count p g).pending = s.pending := rfl
@[simp] theorem State.count_draws (s : State) (p : Port) (g : PortCounters → PortCounters) : (s.count p g).draws = s.draws := rfl
@[simp] theorem State.count_resetHeld (s : State) (p : Port) (g : PortCounters → PortCounters) : (s.count p g).resetHeld = s.resetHeld := rfl
@[simp] theorem State.count_bayClock (s : State) (p : Port) (g : PortCounters → PortCounters) : (s.count p g).bayClock = s.bayClock := rfl
@[simp] theorem State.count_lastResult (s : State) (p : Port) (g : PortCounters → PortCounters) : (s.count p g).lastResult = s.lastResult := rfl
@[simp] theorem State.count_inFlight (s : State) (p : Port) (g : PortCounters → PortCounters) : (s.count p g).inFlight = s.inFlight := rfl
@[simp] theorem State.count_inHand (s : State) (p : Port) (g : PortCounters → PortCounters) : (s.count p g).inHand = s.inHand := rfl
@[simp] theorem State.count_staging (s : State) (p : Port) (g : PortCounters → PortCounters) : (s.count p g).staging = s.staging := rfl
@[simp] theorem State.count_frontView (s : State) (p : Port) (g : PortCounters → PortCounters) : (s.count p g).frontView = s.frontView := rfl
@[simp] theorem State.count_backView (s : State) (p : Port) (g : PortCounters → PortCounters) : (s.count p g).backView = s.backView := rfl
@[simp] theorem State.count_cursor (s : State) (p : Port) (g : PortCounters → PortCounters) : (s.count p g).cursor = s.cursor := rfl
@[simp] theorem State.count_settings (s : State) (p : Port) (g : PortCounters → PortCounters) : (s.count p g).settings = s.settings := rfl
@[simp] theorem State.count_flags (s : State) (p : Port) (g : PortCounters → PortCounters) : (s.count p g).flags = s.flags := rfl
@[simp] theorem State.count_spiOut (s : State) (p : Port) (g : PortCounters → PortCounters) : (s.count p g).spiOut = s.spiOut := rfl
@[simp] theorem State.count_table (s : State) (p : Port) (g : PortCounters → PortCounters) : (s.count p g).table = s.table := rfl
@[simp] theorem State.count_notices (s : State) (p : Port) (g : PortCounters → PortCounters) : (s.count p g).notices = s.notices := rfl
@[simp] theorem State.count_rotation (s : State) (p : Port) (g : PortCounters → PortCounters) : (s.count p g).rotation = s.rotation := rfl
@[simp] theorem State.count_sweep (s : State) (p : Port) (g : PortCounters → PortCounters) : (s.count p g).sweep = s.sweep := rfl
@[simp] theorem State.count_proving (s : State) (p : Port) (g : PortCounters → PortCounters) : (s.count p g).proving = s.proving := rfl
@[simp] theorem State.count_pool (s : State) (p : Port) (g : PortCounters → PortCounters) : (s.count p g).pool = s.pool := rfl
@[simp] theorem State.count_nextName (s : State) (p : Port) (g : PortCounters → PortCounters) : (s.count p g).nextName = s.nextName := rfl
@[simp] theorem State.count_tallies (s : State) (p : Port) (g : PortCounters → PortCounters) : (s.count p g).tallies = s.tallies := rfl
@[simp] theorem State.count_probe (s : State) (p : Port) (g : PortCounters → PortCounters) : (s.count p g).probe = s.probe := rfl
@[simp] theorem State.count_loader (s : State) (p : Port) (g : PortCounters → PortCounters) : (s.count p g).loader = s.loader := rfl

/-! ## modProving -/

@[simp] theorem State.modProving_pending (s : State) (l : Lane) (g : ProvingRecord → ProvingRecord) : (s.modProving l g).pending = s.pending := rfl
@[simp] theorem State.modProving_draws (s : State) (l : Lane) (g : ProvingRecord → ProvingRecord) : (s.modProving l g).draws = s.draws := rfl
@[simp] theorem State.modProving_resetHeld (s : State) (l : Lane) (g : ProvingRecord → ProvingRecord) : (s.modProving l g).resetHeld = s.resetHeld := rfl
@[simp] theorem State.modProving_bayClock (s : State) (l : Lane) (g : ProvingRecord → ProvingRecord) : (s.modProving l g).bayClock = s.bayClock := rfl
@[simp] theorem State.modProving_lastResult (s : State) (l : Lane) (g : ProvingRecord → ProvingRecord) : (s.modProving l g).lastResult = s.lastResult := rfl
@[simp] theorem State.modProving_inFlight (s : State) (l : Lane) (g : ProvingRecord → ProvingRecord) : (s.modProving l g).inFlight = s.inFlight := rfl
@[simp] theorem State.modProving_inHand (s : State) (l : Lane) (g : ProvingRecord → ProvingRecord) : (s.modProving l g).inHand = s.inHand := rfl
@[simp] theorem State.modProving_staging (s : State) (l : Lane) (g : ProvingRecord → ProvingRecord) : (s.modProving l g).staging = s.staging := rfl
@[simp] theorem State.modProving_frontView (s : State) (l : Lane) (g : ProvingRecord → ProvingRecord) : (s.modProving l g).frontView = s.frontView := rfl
@[simp] theorem State.modProving_backView (s : State) (l : Lane) (g : ProvingRecord → ProvingRecord) : (s.modProving l g).backView = s.backView := rfl
@[simp] theorem State.modProving_cursor (s : State) (l : Lane) (g : ProvingRecord → ProvingRecord) : (s.modProving l g).cursor = s.cursor := rfl
@[simp] theorem State.modProving_settings (s : State) (l : Lane) (g : ProvingRecord → ProvingRecord) : (s.modProving l g).settings = s.settings := rfl
@[simp] theorem State.modProving_flags (s : State) (l : Lane) (g : ProvingRecord → ProvingRecord) : (s.modProving l g).flags = s.flags := rfl
@[simp] theorem State.modProving_spiOut (s : State) (l : Lane) (g : ProvingRecord → ProvingRecord) : (s.modProving l g).spiOut = s.spiOut := rfl
@[simp] theorem State.modProving_table (s : State) (l : Lane) (g : ProvingRecord → ProvingRecord) : (s.modProving l g).table = s.table := rfl
@[simp] theorem State.modProving_notices (s : State) (l : Lane) (g : ProvingRecord → ProvingRecord) : (s.modProving l g).notices = s.notices := rfl
@[simp] theorem State.modProving_rotation (s : State) (l : Lane) (g : ProvingRecord → ProvingRecord) : (s.modProving l g).rotation = s.rotation := rfl
@[simp] theorem State.modProving_sweep (s : State) (l : Lane) (g : ProvingRecord → ProvingRecord) : (s.modProving l g).sweep = s.sweep := rfl
@[simp] theorem State.modProving_ports (s : State) (l : Lane) (g : ProvingRecord → ProvingRecord) : (s.modProving l g).ports = s.ports := rfl
@[simp] theorem State.modProving_pool (s : State) (l : Lane) (g : ProvingRecord → ProvingRecord) : (s.modProving l g).pool = s.pool := rfl
@[simp] theorem State.modProving_nextName (s : State) (l : Lane) (g : ProvingRecord → ProvingRecord) : (s.modProving l g).nextName = s.nextName := rfl
@[simp] theorem State.modProving_tallies (s : State) (l : Lane) (g : ProvingRecord → ProvingRecord) : (s.modProving l g).tallies = s.tallies := rfl
@[simp] theorem State.modProving_probe (s : State) (l : Lane) (g : ProvingRecord → ProvingRecord) : (s.modProving l g).probe = s.probe := rfl
@[simp] theorem State.modProving_loader (s : State) (l : Lane) (g : ProvingRecord → ProvingRecord) : (s.modProving l g).loader = s.loader := rfl

/-! ## putSetting -/

@[simp] theorem State.putSetting_pending (s : State) (n : SettingId) (x : Word) : (s.putSetting n x).pending = s.pending := rfl
@[simp] theorem State.putSetting_draws (s : State) (n : SettingId) (x : Word) : (s.putSetting n x).draws = s.draws := rfl
@[simp] theorem State.putSetting_resetHeld (s : State) (n : SettingId) (x : Word) : (s.putSetting n x).resetHeld = s.resetHeld := rfl
@[simp] theorem State.putSetting_bayClock (s : State) (n : SettingId) (x : Word) : (s.putSetting n x).bayClock = s.bayClock := rfl
@[simp] theorem State.putSetting_lastResult (s : State) (n : SettingId) (x : Word) : (s.putSetting n x).lastResult = s.lastResult := rfl
@[simp] theorem State.putSetting_inFlight (s : State) (n : SettingId) (x : Word) : (s.putSetting n x).inFlight = s.inFlight := rfl
@[simp] theorem State.putSetting_inHand (s : State) (n : SettingId) (x : Word) : (s.putSetting n x).inHand = s.inHand := rfl
@[simp] theorem State.putSetting_staging (s : State) (n : SettingId) (x : Word) : (s.putSetting n x).staging = s.staging := rfl
@[simp] theorem State.putSetting_frontView (s : State) (n : SettingId) (x : Word) : (s.putSetting n x).frontView = s.frontView := rfl
@[simp] theorem State.putSetting_backView (s : State) (n : SettingId) (x : Word) : (s.putSetting n x).backView = s.backView := rfl
@[simp] theorem State.putSetting_cursor (s : State) (n : SettingId) (x : Word) : (s.putSetting n x).cursor = s.cursor := rfl
@[simp] theorem State.putSetting_flags (s : State) (n : SettingId) (x : Word) : (s.putSetting n x).flags = s.flags := rfl
@[simp] theorem State.putSetting_spiOut (s : State) (n : SettingId) (x : Word) : (s.putSetting n x).spiOut = s.spiOut := rfl
@[simp] theorem State.putSetting_table (s : State) (n : SettingId) (x : Word) : (s.putSetting n x).table = s.table := rfl
@[simp] theorem State.putSetting_notices (s : State) (n : SettingId) (x : Word) : (s.putSetting n x).notices = s.notices := rfl
@[simp] theorem State.putSetting_rotation (s : State) (n : SettingId) (x : Word) : (s.putSetting n x).rotation = s.rotation := rfl
@[simp] theorem State.putSetting_sweep (s : State) (n : SettingId) (x : Word) : (s.putSetting n x).sweep = s.sweep := rfl
@[simp] theorem State.putSetting_ports (s : State) (n : SettingId) (x : Word) : (s.putSetting n x).ports = s.ports := rfl
@[simp] theorem State.putSetting_proving (s : State) (n : SettingId) (x : Word) : (s.putSetting n x).proving = s.proving := rfl
@[simp] theorem State.putSetting_pool (s : State) (n : SettingId) (x : Word) : (s.putSetting n x).pool = s.pool := rfl
@[simp] theorem State.putSetting_nextName (s : State) (n : SettingId) (x : Word) : (s.putSetting n x).nextName = s.nextName := rfl
@[simp] theorem State.putSetting_tallies (s : State) (n : SettingId) (x : Word) : (s.putSetting n x).tallies = s.tallies := rfl
@[simp] theorem State.putSetting_probe (s : State) (n : SettingId) (x : Word) : (s.putSetting n x).probe = s.probe := rfl
@[simp] theorem State.putSetting_loader (s : State) (n : SettingId) (x : Word) : (s.putSetting n x).loader = s.loader := rfl

/-! ## putRecord -/

@[simp] theorem State.putRecord_pending (s : State) (h : Nat) (r : Record) : (s.putRecord h r).pending = s.pending := rfl
@[simp] theorem State.putRecord_draws (s : State) (h : Nat) (r : Record) : (s.putRecord h r).draws = s.draws := rfl
@[simp] theorem State.putRecord_resetHeld (s : State) (h : Nat) (r : Record) : (s.putRecord h r).resetHeld = s.resetHeld := rfl
@[simp] theorem State.putRecord_bayClock (s : State) (h : Nat) (r : Record) : (s.putRecord h r).bayClock = s.bayClock := rfl
@[simp] theorem State.putRecord_lastResult (s : State) (h : Nat) (r : Record) : (s.putRecord h r).lastResult = s.lastResult := rfl
@[simp] theorem State.putRecord_inFlight (s : State) (h : Nat) (r : Record) : (s.putRecord h r).inFlight = s.inFlight := rfl
@[simp] theorem State.putRecord_inHand (s : State) (h : Nat) (r : Record) : (s.putRecord h r).inHand = s.inHand := rfl
@[simp] theorem State.putRecord_staging (s : State) (h : Nat) (r : Record) : (s.putRecord h r).staging = s.staging := rfl
@[simp] theorem State.putRecord_frontView (s : State) (h : Nat) (r : Record) : (s.putRecord h r).frontView = s.frontView := rfl
@[simp] theorem State.putRecord_backView (s : State) (h : Nat) (r : Record) : (s.putRecord h r).backView = s.backView := rfl
@[simp] theorem State.putRecord_cursor (s : State) (h : Nat) (r : Record) : (s.putRecord h r).cursor = s.cursor := rfl
@[simp] theorem State.putRecord_settings (s : State) (h : Nat) (r : Record) : (s.putRecord h r).settings = s.settings := rfl
@[simp] theorem State.putRecord_flags (s : State) (h : Nat) (r : Record) : (s.putRecord h r).flags = s.flags := rfl
@[simp] theorem State.putRecord_spiOut (s : State) (h : Nat) (r : Record) : (s.putRecord h r).spiOut = s.spiOut := rfl
@[simp] theorem State.putRecord_notices (s : State) (h : Nat) (r : Record) : (s.putRecord h r).notices = s.notices := rfl
@[simp] theorem State.putRecord_rotation (s : State) (h : Nat) (r : Record) : (s.putRecord h r).rotation = s.rotation := rfl
@[simp] theorem State.putRecord_sweep (s : State) (h : Nat) (r : Record) : (s.putRecord h r).sweep = s.sweep := rfl
@[simp] theorem State.putRecord_ports (s : State) (h : Nat) (r : Record) : (s.putRecord h r).ports = s.ports := rfl
@[simp] theorem State.putRecord_proving (s : State) (h : Nat) (r : Record) : (s.putRecord h r).proving = s.proving := rfl
@[simp] theorem State.putRecord_pool (s : State) (h : Nat) (r : Record) : (s.putRecord h r).pool = s.pool := rfl
@[simp] theorem State.putRecord_nextName (s : State) (h : Nat) (r : Record) : (s.putRecord h r).nextName = s.nextName := rfl
@[simp] theorem State.putRecord_tallies (s : State) (h : Nat) (r : Record) : (s.putRecord h r).tallies = s.tallies := rfl
@[simp] theorem State.putRecord_probe (s : State) (h : Nat) (r : Record) : (s.putRecord h r).probe = s.probe := rfl
@[simp] theorem State.putRecord_loader (s : State) (h : Nat) (r : Record) : (s.putRecord h r).loader = s.loader := rfl

/-! ## putTally -/

@[simp] theorem State.putTally_pending (s : State) (h n : Nat) : (s.putTally h n).pending = s.pending := rfl
@[simp] theorem State.putTally_draws (s : State) (h n : Nat) : (s.putTally h n).draws = s.draws := rfl
@[simp] theorem State.putTally_resetHeld (s : State) (h n : Nat) : (s.putTally h n).resetHeld = s.resetHeld := rfl
@[simp] theorem State.putTally_bayClock (s : State) (h n : Nat) : (s.putTally h n).bayClock = s.bayClock := rfl
@[simp] theorem State.putTally_lastResult (s : State) (h n : Nat) : (s.putTally h n).lastResult = s.lastResult := rfl
@[simp] theorem State.putTally_inFlight (s : State) (h n : Nat) : (s.putTally h n).inFlight = s.inFlight := rfl
@[simp] theorem State.putTally_inHand (s : State) (h n : Nat) : (s.putTally h n).inHand = s.inHand := rfl
@[simp] theorem State.putTally_staging (s : State) (h n : Nat) : (s.putTally h n).staging = s.staging := rfl
@[simp] theorem State.putTally_frontView (s : State) (h n : Nat) : (s.putTally h n).frontView = s.frontView := rfl
@[simp] theorem State.putTally_backView (s : State) (h n : Nat) : (s.putTally h n).backView = s.backView := rfl
@[simp] theorem State.putTally_cursor (s : State) (h n : Nat) : (s.putTally h n).cursor = s.cursor := rfl
@[simp] theorem State.putTally_settings (s : State) (h n : Nat) : (s.putTally h n).settings = s.settings := rfl
@[simp] theorem State.putTally_flags (s : State) (h n : Nat) : (s.putTally h n).flags = s.flags := rfl
@[simp] theorem State.putTally_spiOut (s : State) (h n : Nat) : (s.putTally h n).spiOut = s.spiOut := rfl
@[simp] theorem State.putTally_table (s : State) (h n : Nat) : (s.putTally h n).table = s.table := rfl
@[simp] theorem State.putTally_notices (s : State) (h n : Nat) : (s.putTally h n).notices = s.notices := rfl
@[simp] theorem State.putTally_rotation (s : State) (h n : Nat) : (s.putTally h n).rotation = s.rotation := rfl
@[simp] theorem State.putTally_sweep (s : State) (h n : Nat) : (s.putTally h n).sweep = s.sweep := rfl
@[simp] theorem State.putTally_ports (s : State) (h n : Nat) : (s.putTally h n).ports = s.ports := rfl
@[simp] theorem State.putTally_proving (s : State) (h n : Nat) : (s.putTally h n).proving = s.proving := rfl
@[simp] theorem State.putTally_pool (s : State) (h n : Nat) : (s.putTally h n).pool = s.pool := rfl
@[simp] theorem State.putTally_nextName (s : State) (h n : Nat) : (s.putTally h n).nextName = s.nextName := rfl
@[simp] theorem State.putTally_probe (s : State) (h n : Nat) : (s.putTally h n).probe = s.probe := rfl
@[simp] theorem State.putTally_loader (s : State) (h n : Nat) : (s.putTally h n).loader = s.loader := rfl

/-! ## modProbe -/

@[simp] theorem State.modProbe_pending (s : State) (g : ProbeUnit → ProbeUnit) : (s.modProbe g).pending = s.pending := rfl
@[simp] theorem State.modProbe_draws (s : State) (g : ProbeUnit → ProbeUnit) : (s.modProbe g).draws = s.draws := rfl
@[simp] theorem State.modProbe_resetHeld (s : State) (g : ProbeUnit → ProbeUnit) : (s.modProbe g).resetHeld = s.resetHeld := rfl
@[simp] theorem State.modProbe_bayClock (s : State) (g : ProbeUnit → ProbeUnit) : (s.modProbe g).bayClock = s.bayClock := rfl
@[simp] theorem State.modProbe_lastResult (s : State) (g : ProbeUnit → ProbeUnit) : (s.modProbe g).lastResult = s.lastResult := rfl
@[simp] theorem State.modProbe_inFlight (s : State) (g : ProbeUnit → ProbeUnit) : (s.modProbe g).inFlight = s.inFlight := rfl
@[simp] theorem State.modProbe_inHand (s : State) (g : ProbeUnit → ProbeUnit) : (s.modProbe g).inHand = s.inHand := rfl
@[simp] theorem State.modProbe_staging (s : State) (g : ProbeUnit → ProbeUnit) : (s.modProbe g).staging = s.staging := rfl
@[simp] theorem State.modProbe_frontView (s : State) (g : ProbeUnit → ProbeUnit) : (s.modProbe g).frontView = s.frontView := rfl
@[simp] theorem State.modProbe_backView (s : State) (g : ProbeUnit → ProbeUnit) : (s.modProbe g).backView = s.backView := rfl
@[simp] theorem State.modProbe_cursor (s : State) (g : ProbeUnit → ProbeUnit) : (s.modProbe g).cursor = s.cursor := rfl
@[simp] theorem State.modProbe_settings (s : State) (g : ProbeUnit → ProbeUnit) : (s.modProbe g).settings = s.settings := rfl
@[simp] theorem State.modProbe_flags (s : State) (g : ProbeUnit → ProbeUnit) : (s.modProbe g).flags = s.flags := rfl
@[simp] theorem State.modProbe_spiOut (s : State) (g : ProbeUnit → ProbeUnit) : (s.modProbe g).spiOut = s.spiOut := rfl
@[simp] theorem State.modProbe_table (s : State) (g : ProbeUnit → ProbeUnit) : (s.modProbe g).table = s.table := rfl
@[simp] theorem State.modProbe_notices (s : State) (g : ProbeUnit → ProbeUnit) : (s.modProbe g).notices = s.notices := rfl
@[simp] theorem State.modProbe_rotation (s : State) (g : ProbeUnit → ProbeUnit) : (s.modProbe g).rotation = s.rotation := rfl
@[simp] theorem State.modProbe_sweep (s : State) (g : ProbeUnit → ProbeUnit) : (s.modProbe g).sweep = s.sweep := rfl
@[simp] theorem State.modProbe_ports (s : State) (g : ProbeUnit → ProbeUnit) : (s.modProbe g).ports = s.ports := rfl
@[simp] theorem State.modProbe_proving (s : State) (g : ProbeUnit → ProbeUnit) : (s.modProbe g).proving = s.proving := rfl
@[simp] theorem State.modProbe_pool (s : State) (g : ProbeUnit → ProbeUnit) : (s.modProbe g).pool = s.pool := rfl
@[simp] theorem State.modProbe_nextName (s : State) (g : ProbeUnit → ProbeUnit) : (s.modProbe g).nextName = s.nextName := rfl
@[simp] theorem State.modProbe_tallies (s : State) (g : ProbeUnit → ProbeUnit) : (s.modProbe g).tallies = s.tallies := rfl
@[simp] theorem State.modProbe_loader (s : State) (g : ProbeUnit → ProbeUnit) : (s.modProbe g).loader = s.loader := rfl

/-! ## putRoster -/

@[simp] theorem State.putRoster_pending (s : State) (k : Nat) (e : RosterEntry) : (s.putRoster k e).pending = s.pending := rfl
@[simp] theorem State.putRoster_draws (s : State) (k : Nat) (e : RosterEntry) : (s.putRoster k e).draws = s.draws := rfl
@[simp] theorem State.putRoster_resetHeld (s : State) (k : Nat) (e : RosterEntry) : (s.putRoster k e).resetHeld = s.resetHeld := rfl
@[simp] theorem State.putRoster_bayClock (s : State) (k : Nat) (e : RosterEntry) : (s.putRoster k e).bayClock = s.bayClock := rfl
@[simp] theorem State.putRoster_lastResult (s : State) (k : Nat) (e : RosterEntry) : (s.putRoster k e).lastResult = s.lastResult := rfl
@[simp] theorem State.putRoster_inFlight (s : State) (k : Nat) (e : RosterEntry) : (s.putRoster k e).inFlight = s.inFlight := rfl
@[simp] theorem State.putRoster_inHand (s : State) (k : Nat) (e : RosterEntry) : (s.putRoster k e).inHand = s.inHand := rfl
@[simp] theorem State.putRoster_staging (s : State) (k : Nat) (e : RosterEntry) : (s.putRoster k e).staging = s.staging := rfl
@[simp] theorem State.putRoster_frontView (s : State) (k : Nat) (e : RosterEntry) : (s.putRoster k e).frontView = s.frontView := rfl
@[simp] theorem State.putRoster_backView (s : State) (k : Nat) (e : RosterEntry) : (s.putRoster k e).backView = s.backView := rfl
@[simp] theorem State.putRoster_cursor (s : State) (k : Nat) (e : RosterEntry) : (s.putRoster k e).cursor = s.cursor := rfl
@[simp] theorem State.putRoster_settings (s : State) (k : Nat) (e : RosterEntry) : (s.putRoster k e).settings = s.settings := rfl
@[simp] theorem State.putRoster_flags (s : State) (k : Nat) (e : RosterEntry) : (s.putRoster k e).flags = s.flags := rfl
@[simp] theorem State.putRoster_spiOut (s : State) (k : Nat) (e : RosterEntry) : (s.putRoster k e).spiOut = s.spiOut := rfl
@[simp] theorem State.putRoster_table (s : State) (k : Nat) (e : RosterEntry) : (s.putRoster k e).table = s.table := rfl
@[simp] theorem State.putRoster_notices (s : State) (k : Nat) (e : RosterEntry) : (s.putRoster k e).notices = s.notices := rfl
@[simp] theorem State.putRoster_rotation (s : State) (k : Nat) (e : RosterEntry) : (s.putRoster k e).rotation = s.rotation := rfl
@[simp] theorem State.putRoster_sweep (s : State) (k : Nat) (e : RosterEntry) : (s.putRoster k e).sweep = s.sweep := rfl
@[simp] theorem State.putRoster_ports (s : State) (k : Nat) (e : RosterEntry) : (s.putRoster k e).ports = s.ports := rfl
@[simp] theorem State.putRoster_proving (s : State) (k : Nat) (e : RosterEntry) : (s.putRoster k e).proving = s.proving := rfl
@[simp] theorem State.putRoster_pool (s : State) (k : Nat) (e : RosterEntry) : (s.putRoster k e).pool = s.pool := rfl
@[simp] theorem State.putRoster_nextName (s : State) (k : Nat) (e : RosterEntry) : (s.putRoster k e).nextName = s.nextName := rfl
@[simp] theorem State.putRoster_tallies (s : State) (k : Nat) (e : RosterEntry) : (s.putRoster k e).tallies = s.tallies := rfl
@[simp] theorem State.putRoster_loader (s : State) (k : Nat) (e : RosterEntry) : (s.putRoster k e).loader = s.loader := rfl

/-! ## endInHand -/

@[simp] theorem State.endInHand_pending (s : State) : s.endInHand.pending = s.pending := rfl
@[simp] theorem State.endInHand_draws (s : State) : s.endInHand.draws = s.draws := rfl
@[simp] theorem State.endInHand_resetHeld (s : State) : s.endInHand.resetHeld = s.resetHeld := rfl
@[simp] theorem State.endInHand_bayClock (s : State) : s.endInHand.bayClock = s.bayClock := rfl
@[simp] theorem State.endInHand_lastResult (s : State) : s.endInHand.lastResult = s.lastResult := rfl
@[simp] theorem State.endInHand_staging (s : State) : s.endInHand.staging = s.staging := rfl
@[simp] theorem State.endInHand_frontView (s : State) : s.endInHand.frontView = s.frontView := rfl
@[simp] theorem State.endInHand_backView (s : State) : s.endInHand.backView = s.backView := rfl
@[simp] theorem State.endInHand_cursor (s : State) : s.endInHand.cursor = s.cursor := rfl
@[simp] theorem State.endInHand_settings (s : State) : s.endInHand.settings = s.settings := rfl
@[simp] theorem State.endInHand_flags (s : State) : s.endInHand.flags = s.flags := rfl
@[simp] theorem State.endInHand_spiOut (s : State) : s.endInHand.spiOut = s.spiOut := rfl
@[simp] theorem State.endInHand_table (s : State) : s.endInHand.table = s.table := rfl
@[simp] theorem State.endInHand_notices (s : State) : s.endInHand.notices = s.notices := rfl
@[simp] theorem State.endInHand_rotation (s : State) : s.endInHand.rotation = s.rotation := rfl
@[simp] theorem State.endInHand_sweep (s : State) : s.endInHand.sweep = s.sweep := rfl
@[simp] theorem State.endInHand_ports (s : State) : s.endInHand.ports = s.ports := rfl
@[simp] theorem State.endInHand_proving (s : State) : s.endInHand.proving = s.proving := rfl
@[simp] theorem State.endInHand_pool (s : State) : s.endInHand.pool = s.pool := rfl
@[simp] theorem State.endInHand_nextName (s : State) : s.endInHand.nextName = s.nextName := rfl
@[simp] theorem State.endInHand_tallies (s : State) : s.endInHand.tallies = s.tallies := rfl
@[simp] theorem State.endInHand_probe (s : State) : s.endInHand.probe = s.probe := rfl
@[simp] theorem State.endInHand_loader (s : State) : s.endInHand.loader = s.loader := rfl
@[simp] theorem State.endInHand_inFlight (s : State) : s.endInHand.inFlight = s.inFlight := rfl
@[simp] theorem State.endInHand_inHand (s : State) : s.endInHand.inHand = none := rfl

/-- With no grant in hand there is none to end. -/
theorem State.endInHand_of_none {s : State} (h : s.inHand = none) : s.endInHand = s := by
  unfold State.endInHand
  rw [← h]

/-! ## rotate -/

@[simp] theorem State.rotate_pending (s : State) (p : Port) : (s.rotate p).pending = s.pending := rfl
@[simp] theorem State.rotate_draws (s : State) (p : Port) : (s.rotate p).draws = s.draws := rfl
@[simp] theorem State.rotate_resetHeld (s : State) (p : Port) : (s.rotate p).resetHeld = s.resetHeld := rfl
@[simp] theorem State.rotate_bayClock (s : State) (p : Port) : (s.rotate p).bayClock = s.bayClock := rfl
@[simp] theorem State.rotate_lastResult (s : State) (p : Port) : (s.rotate p).lastResult = s.lastResult := rfl
@[simp] theorem State.rotate_inFlight (s : State) (p : Port) : (s.rotate p).inFlight = s.inFlight := rfl
@[simp] theorem State.rotate_inHand (s : State) (p : Port) : (s.rotate p).inHand = none := rfl
@[simp] theorem State.rotate_staging (s : State) (p : Port) : (s.rotate p).staging = s.staging := rfl
@[simp] theorem State.rotate_frontView (s : State) (p : Port) : (s.rotate p).frontView = s.frontView := rfl
@[simp] theorem State.rotate_backView (s : State) (p : Port) : (s.rotate p).backView = s.backView := rfl
@[simp] theorem State.rotate_cursor (s : State) (p : Port) : (s.rotate p).cursor = s.cursor := rfl
@[simp] theorem State.rotate_settings (s : State) (p : Port) : (s.rotate p).settings = s.settings := rfl
@[simp] theorem State.rotate_flags (s : State) (p : Port) : (s.rotate p).flags = s.flags := rfl
@[simp] theorem State.rotate_spiOut (s : State) (p : Port) : (s.rotate p).spiOut = s.spiOut := rfl
@[simp] theorem State.rotate_table (s : State) (p : Port) : (s.rotate p).table = s.table := rfl
@[simp] theorem State.rotate_notices (s : State) (p : Port) : (s.rotate p).notices = s.notices := rfl
@[simp] theorem State.rotate_sweep (s : State) (p : Port) : (s.rotate p).sweep = s.sweep := rfl
@[simp] theorem State.rotate_ports (s : State) (p : Port) : (s.rotate p).ports = s.ports := rfl
@[simp] theorem State.rotate_proving (s : State) (p : Port) : (s.rotate p).proving = s.proving := rfl
@[simp] theorem State.rotate_pool (s : State) (p : Port) : (s.rotate p).pool = s.pool := rfl
@[simp] theorem State.rotate_nextName (s : State) (p : Port) : (s.rotate p).nextName = s.nextName := rfl
@[simp] theorem State.rotate_tallies (s : State) (p : Port) : (s.rotate p).tallies = s.tallies := rfl
@[simp] theorem State.rotate_probe (s : State) (p : Port) : (s.rotate p).probe = s.probe := rfl
@[simp] theorem State.rotate_loader (s : State) (p : Port) : (s.rotate p).loader = s.loader := rfl

/-! ## settleFrame -/

@[simp] theorem State.settleFrame_pending (s : State) (p : Port) : (s.settleFrame p).pending = s.pending := rfl
@[simp] theorem State.settleFrame_draws (s : State) (p : Port) : (s.settleFrame p).draws = s.draws := rfl
@[simp] theorem State.settleFrame_resetHeld (s : State) (p : Port) : (s.settleFrame p).resetHeld = s.resetHeld := rfl
@[simp] theorem State.settleFrame_bayClock (s : State) (p : Port) : (s.settleFrame p).bayClock = s.bayClock := rfl
@[simp] theorem State.settleFrame_lastResult (s : State) (p : Port) : (s.settleFrame p).lastResult = s.lastResult := rfl
@[simp] theorem State.settleFrame_inFlight (s : State) (p : Port) : (s.settleFrame p).inFlight = s.inFlight := rfl
@[simp] theorem State.settleFrame_inHand (s : State) (p : Port) : (s.settleFrame p).inHand = s.inHand := rfl
@[simp] theorem State.settleFrame_staging (s : State) (p : Port) : (s.settleFrame p).staging = s.staging := rfl
@[simp] theorem State.settleFrame_frontView (s : State) (p : Port) : (s.settleFrame p).frontView = s.frontView := rfl
@[simp] theorem State.settleFrame_backView (s : State) (p : Port) : (s.settleFrame p).backView = s.backView := rfl
@[simp] theorem State.settleFrame_cursor (s : State) (p : Port) : (s.settleFrame p).cursor = s.cursor := rfl
@[simp] theorem State.settleFrame_settings (s : State) (p : Port) : (s.settleFrame p).settings = s.settings := rfl
@[simp] theorem State.settleFrame_flags (s : State) (p : Port) : (s.settleFrame p).flags = s.flags := rfl
@[simp] theorem State.settleFrame_spiOut (s : State) (p : Port) : (s.settleFrame p).spiOut = s.spiOut := rfl
@[simp] theorem State.settleFrame_table (s : State) (p : Port) : (s.settleFrame p).table = s.table := rfl
@[simp] theorem State.settleFrame_notices (s : State) (p : Port) : (s.settleFrame p).notices = s.notices := rfl
@[simp] theorem State.settleFrame_rotation (s : State) (p : Port) : (s.settleFrame p).rotation = s.rotation := rfl
@[simp] theorem State.settleFrame_sweep (s : State) (p : Port) : (s.settleFrame p).sweep = s.sweep := rfl
@[simp] theorem State.settleFrame_proving (s : State) (p : Port) : (s.settleFrame p).proving = s.proving := rfl
@[simp] theorem State.settleFrame_pool (s : State) (p : Port) : (s.settleFrame p).pool = s.pool := rfl
@[simp] theorem State.settleFrame_nextName (s : State) (p : Port) : (s.settleFrame p).nextName = s.nextName := rfl
@[simp] theorem State.settleFrame_tallies (s : State) (p : Port) : (s.settleFrame p).tallies = s.tallies := rfl
@[simp] theorem State.settleFrame_probe (s : State) (p : Port) : (s.settleFrame p).probe = s.probe := rfl
@[simp] theorem State.settleFrame_loader (s : State) (p : Port) : (s.settleFrame p).loader = s.loader := rfl

/-! ## modSweep -/

@[simp] theorem State.modSweep_pending (s : State) (g : Sweep → Sweep) : (s.modSweep g).pending = s.pending := rfl
@[simp] theorem State.modSweep_draws (s : State) (g : Sweep → Sweep) : (s.modSweep g).draws = s.draws := rfl
@[simp] theorem State.modSweep_resetHeld (s : State) (g : Sweep → Sweep) : (s.modSweep g).resetHeld = s.resetHeld := rfl
@[simp] theorem State.modSweep_bayClock (s : State) (g : Sweep → Sweep) : (s.modSweep g).bayClock = s.bayClock := rfl
@[simp] theorem State.modSweep_lastResult (s : State) (g : Sweep → Sweep) : (s.modSweep g).lastResult = s.lastResult := rfl
@[simp] theorem State.modSweep_inFlight (s : State) (g : Sweep → Sweep) : (s.modSweep g).inFlight = s.inFlight := rfl
@[simp] theorem State.modSweep_inHand (s : State) (g : Sweep → Sweep) : (s.modSweep g).inHand = s.inHand := rfl
@[simp] theorem State.modSweep_staging (s : State) (g : Sweep → Sweep) : (s.modSweep g).staging = s.staging := rfl
@[simp] theorem State.modSweep_frontView (s : State) (g : Sweep → Sweep) : (s.modSweep g).frontView = s.frontView := rfl
@[simp] theorem State.modSweep_backView (s : State) (g : Sweep → Sweep) : (s.modSweep g).backView = s.backView := rfl
@[simp] theorem State.modSweep_cursor (s : State) (g : Sweep → Sweep) : (s.modSweep g).cursor = s.cursor := rfl
@[simp] theorem State.modSweep_settings (s : State) (g : Sweep → Sweep) : (s.modSweep g).settings = s.settings := rfl
@[simp] theorem State.modSweep_flags (s : State) (g : Sweep → Sweep) : (s.modSweep g).flags = s.flags := rfl
@[simp] theorem State.modSweep_spiOut (s : State) (g : Sweep → Sweep) : (s.modSweep g).spiOut = s.spiOut := rfl
@[simp] theorem State.modSweep_table (s : State) (g : Sweep → Sweep) : (s.modSweep g).table = s.table := rfl
@[simp] theorem State.modSweep_notices (s : State) (g : Sweep → Sweep) : (s.modSweep g).notices = s.notices := rfl
@[simp] theorem State.modSweep_rotation (s : State) (g : Sweep → Sweep) : (s.modSweep g).rotation = s.rotation := rfl
@[simp] theorem State.modSweep_ports (s : State) (g : Sweep → Sweep) : (s.modSweep g).ports = s.ports := rfl
@[simp] theorem State.modSweep_proving (s : State) (g : Sweep → Sweep) : (s.modSweep g).proving = s.proving := rfl
@[simp] theorem State.modSweep_pool (s : State) (g : Sweep → Sweep) : (s.modSweep g).pool = s.pool := rfl
@[simp] theorem State.modSweep_nextName (s : State) (g : Sweep → Sweep) : (s.modSweep g).nextName = s.nextName := rfl
@[simp] theorem State.modSweep_tallies (s : State) (g : Sweep → Sweep) : (s.modSweep g).tallies = s.tallies := rfl
@[simp] theorem State.modSweep_probe (s : State) (g : Sweep → Sweep) : (s.modSweep g).probe = s.probe := rfl
@[simp] theorem State.modSweep_loader (s : State) (g : Sweep → Sweep) : (s.modSweep g).loader = s.loader := rfl

/-! ## modLoader -/

@[simp] theorem State.modLoader_pending (s : State) (g : Loader → Loader) : (s.modLoader g).pending = s.pending := rfl
@[simp] theorem State.modLoader_draws (s : State) (g : Loader → Loader) : (s.modLoader g).draws = s.draws := rfl
@[simp] theorem State.modLoader_resetHeld (s : State) (g : Loader → Loader) : (s.modLoader g).resetHeld = s.resetHeld := rfl
@[simp] theorem State.modLoader_bayClock (s : State) (g : Loader → Loader) : (s.modLoader g).bayClock = s.bayClock := rfl
@[simp] theorem State.modLoader_lastResult (s : State) (g : Loader → Loader) : (s.modLoader g).lastResult = s.lastResult := rfl
@[simp] theorem State.modLoader_inFlight (s : State) (g : Loader → Loader) : (s.modLoader g).inFlight = s.inFlight := rfl
@[simp] theorem State.modLoader_inHand (s : State) (g : Loader → Loader) : (s.modLoader g).inHand = s.inHand := rfl
@[simp] theorem State.modLoader_staging (s : State) (g : Loader → Loader) : (s.modLoader g).staging = s.staging := rfl
@[simp] theorem State.modLoader_frontView (s : State) (g : Loader → Loader) : (s.modLoader g).frontView = s.frontView := rfl
@[simp] theorem State.modLoader_backView (s : State) (g : Loader → Loader) : (s.modLoader g).backView = s.backView := rfl
@[simp] theorem State.modLoader_cursor (s : State) (g : Loader → Loader) : (s.modLoader g).cursor = s.cursor := rfl
@[simp] theorem State.modLoader_settings (s : State) (g : Loader → Loader) : (s.modLoader g).settings = s.settings := rfl
@[simp] theorem State.modLoader_flags (s : State) (g : Loader → Loader) : (s.modLoader g).flags = s.flags := rfl
@[simp] theorem State.modLoader_spiOut (s : State) (g : Loader → Loader) : (s.modLoader g).spiOut = s.spiOut := rfl
@[simp] theorem State.modLoader_table (s : State) (g : Loader → Loader) : (s.modLoader g).table = s.table := rfl
@[simp] theorem State.modLoader_notices (s : State) (g : Loader → Loader) : (s.modLoader g).notices = s.notices := rfl
@[simp] theorem State.modLoader_rotation (s : State) (g : Loader → Loader) : (s.modLoader g).rotation = s.rotation := rfl
@[simp] theorem State.modLoader_sweep (s : State) (g : Loader → Loader) : (s.modLoader g).sweep = s.sweep := rfl
@[simp] theorem State.modLoader_ports (s : State) (g : Loader → Loader) : (s.modLoader g).ports = s.ports := rfl
@[simp] theorem State.modLoader_proving (s : State) (g : Loader → Loader) : (s.modLoader g).proving = s.proving := rfl
@[simp] theorem State.modLoader_pool (s : State) (g : Loader → Loader) : (s.modLoader g).pool = s.pool := rfl
@[simp] theorem State.modLoader_nextName (s : State) (g : Loader → Loader) : (s.modLoader g).nextName = s.nextName := rfl
@[simp] theorem State.modLoader_tallies (s : State) (g : Loader → Loader) : (s.modLoader g).tallies = s.tallies := rfl
@[simp] theorem State.modLoader_probe (s : State) (g : Loader → Loader) : (s.modLoader g).probe = s.probe := rfl

/-! ## The fields an update writes -/

@[simp] theorem State.raise_flags (s : State) (f : Flag) : (s.raise f).flags = s.flags ||| f.mask := rfl
@[simp] theorem State.lower_flags (s : State) (f : Flag) : (s.lower f).flags = s.flags &&& ~~~ f.mask := rfl
@[simp] theorem State.modPort_ports (s : State) (p : Port) (g : PortUnit → PortUnit) : (s.modPort p g).ports = s.ports.set p (g (s.ports.get p)) := rfl
@[simp] theorem State.count_ports (s : State) (p : Port) (g : PortCounters → PortCounters) : (s.count p g).ports = s.ports.set p { s.ports.get p with counters := g (s.ports.get p).counters } := rfl
@[simp] theorem State.modProving_proving (s : State) (l : Lane) (g : ProvingRecord → ProvingRecord) : (s.modProving l g).proving = s.proving.set l (g (s.proving.get l)) := rfl
@[simp] theorem State.putSetting_settings (s : State) (n : SettingId) (x : Word) : (s.putSetting n x).settings = s.settings.set n x := rfl
@[simp] theorem State.modProbe_probe (s : State) (g : ProbeUnit → ProbeUnit) : (s.modProbe g).probe = g s.probe := rfl
@[simp] theorem State.rotate_rotation (s : State) (p : Port) : (s.rotate p).rotation = nextInRotation p := rfl
@[simp] theorem State.settleFrame_ports (s : State) (p : Port) : (s.settleFrame p).ports = s.ports.set p (s.ports.get p).settled := rfl
@[simp] theorem State.modSweep_sweep (s : State) (g : Sweep → Sweep) : (s.modSweep g).sweep = g s.sweep := rfl
@[simp] theorem State.modLoader_loader (s : State) (g : Loader → Loader) : (s.modLoader g).loader = g s.loader := rfl

/-! ## raiseIf -/

theorem State.raiseIf_eq (s : State) (c : Bool) (f : Flag) :
    s.raiseIf c f = { s with flags := if c then s.flags ||| f.mask else s.flags } := by
  cases c <;> rfl

@[simp] theorem State.raiseIf_pending (s : State) (c : Bool) (f : Flag) : (s.raiseIf c f).pending = s.pending := by
  rw [State.raiseIf_eq]
@[simp] theorem State.raiseIf_draws (s : State) (c : Bool) (f : Flag) : (s.raiseIf c f).draws = s.draws := by
  rw [State.raiseIf_eq]
@[simp] theorem State.raiseIf_resetHeld (s : State) (c : Bool) (f : Flag) : (s.raiseIf c f).resetHeld = s.resetHeld := by
  rw [State.raiseIf_eq]
@[simp] theorem State.raiseIf_bayClock (s : State) (c : Bool) (f : Flag) : (s.raiseIf c f).bayClock = s.bayClock := by
  rw [State.raiseIf_eq]
@[simp] theorem State.raiseIf_lastResult (s : State) (c : Bool) (f : Flag) : (s.raiseIf c f).lastResult = s.lastResult := by
  rw [State.raiseIf_eq]
@[simp] theorem State.raiseIf_inFlight (s : State) (c : Bool) (f : Flag) : (s.raiseIf c f).inFlight = s.inFlight := by
  rw [State.raiseIf_eq]
@[simp] theorem State.raiseIf_inHand (s : State) (c : Bool) (f : Flag) : (s.raiseIf c f).inHand = s.inHand := by
  rw [State.raiseIf_eq]
@[simp] theorem State.raiseIf_staging (s : State) (c : Bool) (f : Flag) : (s.raiseIf c f).staging = s.staging := by
  rw [State.raiseIf_eq]
@[simp] theorem State.raiseIf_frontView (s : State) (c : Bool) (f : Flag) : (s.raiseIf c f).frontView = s.frontView := by
  rw [State.raiseIf_eq]
@[simp] theorem State.raiseIf_backView (s : State) (c : Bool) (f : Flag) : (s.raiseIf c f).backView = s.backView := by
  rw [State.raiseIf_eq]
@[simp] theorem State.raiseIf_cursor (s : State) (c : Bool) (f : Flag) : (s.raiseIf c f).cursor = s.cursor := by
  rw [State.raiseIf_eq]
@[simp] theorem State.raiseIf_settings (s : State) (c : Bool) (f : Flag) : (s.raiseIf c f).settings = s.settings := by
  rw [State.raiseIf_eq]
@[simp] theorem State.raiseIf_spiOut (s : State) (c : Bool) (f : Flag) : (s.raiseIf c f).spiOut = s.spiOut := by
  rw [State.raiseIf_eq]
@[simp] theorem State.raiseIf_table (s : State) (c : Bool) (f : Flag) : (s.raiseIf c f).table = s.table := by
  rw [State.raiseIf_eq]
@[simp] theorem State.raiseIf_notices (s : State) (c : Bool) (f : Flag) : (s.raiseIf c f).notices = s.notices := by
  rw [State.raiseIf_eq]
@[simp] theorem State.raiseIf_rotation (s : State) (c : Bool) (f : Flag) : (s.raiseIf c f).rotation = s.rotation := by
  rw [State.raiseIf_eq]
@[simp] theorem State.raiseIf_sweep (s : State) (c : Bool) (f : Flag) : (s.raiseIf c f).sweep = s.sweep := by
  rw [State.raiseIf_eq]
@[simp] theorem State.raiseIf_ports (s : State) (c : Bool) (f : Flag) : (s.raiseIf c f).ports = s.ports := by
  rw [State.raiseIf_eq]
@[simp] theorem State.raiseIf_proving (s : State) (c : Bool) (f : Flag) : (s.raiseIf c f).proving = s.proving := by
  rw [State.raiseIf_eq]
@[simp] theorem State.raiseIf_pool (s : State) (c : Bool) (f : Flag) : (s.raiseIf c f).pool = s.pool := by
  rw [State.raiseIf_eq]
@[simp] theorem State.raiseIf_nextName (s : State) (c : Bool) (f : Flag) : (s.raiseIf c f).nextName = s.nextName := by
  rw [State.raiseIf_eq]
@[simp] theorem State.raiseIf_tallies (s : State) (c : Bool) (f : Flag) : (s.raiseIf c f).tallies = s.tallies := by
  rw [State.raiseIf_eq]
@[simp] theorem State.raiseIf_probe (s : State) (c : Bool) (f : Flag) : (s.raiseIf c f).probe = s.probe := by
  rw [State.raiseIf_eq]
@[simp] theorem State.raiseIf_loader (s : State) (c : Bool) (f : Flag) : (s.raiseIf c f).loader = s.loader := by
  rw [State.raiseIf_eq]

/-! ## The loader at its beginning (R170, R171) -/

@[simp] theorem Loader.atStart_state (held : Bool) : (Loader.atStart held).state = .reading := rfl
@[simp] theorem Loader.atStart_store (held : Bool) : (Loader.atStart held).store = [] := rfl
@[simp] theorem Loader.atStart_tries (held : Bool) : (Loader.atStart held).tries = 0 := rfl
@[simp] theorem Loader.atStart_skipped (held : Bool) : (Loader.atStart held).skipped = 0 := rfl
@[simp] theorem Loader.atStart_retrying (held : Bool) : (Loader.atStart held).retrying = false := rfl
@[simp] theorem Loader.atStart_afterFullReset (held : Bool) : (Loader.atStart held).afterFullReset = false := rfl
@[simp] theorem Loader.atStart_busOut (held : Bool) : (Loader.atStart held).busOut = if held then [] else busClear := rfl

end Sys2Proof.Machine
end

