-- ==== Sys2Proof/Laws/Tables.lean ====
section
/-! SUPPORT. Reading after writing: the port and lane maps, the sparse tables, the flags, and the records, tallies and roster entries
held in them. -/

namespace Sys2Proof

@[simp] theorem PortMap.get_set_same {α : Type} (m : PortMap α) (p : Port) (x : α) : (m.set p x).get p = x := by
  rcases p with ⟨⟨⟩⟩ | ⟨⟨⟩⟩ <;> rfl

@[simp] theorem PortMap.get_set_other {α : Type} (m : PortMap α) {p q : Port} (x : α) (h : q ≠ p) :
    (m.set p x).get q = m.get q := by
  rcases p with ⟨⟨⟩⟩ | ⟨⟨⟩⟩ <;> rcases q with ⟨⟨⟩⟩ | ⟨⟨⟩⟩ <;> first | rfl | exact absurd rfl h

theorem PortMap.get_set {α : Type} (m : PortMap α) (p q : Port) (x : α) :
    (m.set p x).get q = if q = p then x else m.get q := by
  by_cases h : q = p
  · subst h; simp
  · simp [h]

@[simp] theorem PortMap.set_set {α : Type} (m : PortMap α) (p : Port) (x y : α) : (m.set p x).set p y = m.set p y := by
  rcases p with ⟨⟨⟩⟩ | ⟨⟨⟩⟩ <;> rfl

@[simp] theorem PortMap.set_get {α : Type} (m : PortMap α) (p : Port) : m.set p (m.get p) = m := by
  rcases p with ⟨⟨⟩⟩ | ⟨⟨⟩⟩ <;> rfl

/-- Two maps with the same thing for every port are equal. -/
theorem PortMap.ext_get {α : Type} {m m' : PortMap α} (h : ∀ p, m.get p = m'.get p) : m = m' := by
  have a := h (.lane .a); have b := h (.lane .b); have c := h (.bay .p0); have d := h (.bay .p1)
  have e := h (.bay .p2); have f := h (.bay .p3)
  cases m; cases m'
  simp only [PortMap.get] at a b c d e f
  subst a b c d e f; rfl

/-- A counter that stops at the top of its range (R26). -/
theorem toNat_bump {w : Nat} (x : BitVec w) : (bump x).toNat = min (2 ^ w - 1) (x.toNat + 1) := by
  have hx := x.isLt
  unfold bump
  split
  · rename_i h
    have h := congrArg BitVec.toNat h
    rw [BitVec.toNat_allOnes] at h
    omega
  · rename_i h
    have hne : x.toNat ≠ 2 ^ w - 1 := fun e => h (BitVec.eq_of_toNat_eq (by rw [BitVec.toNat_allOnes, e]))
    have h1 : x.toNat + 1 < 2 ^ w := by omega
    have h2 : (1 : BitVec w).toNat = 1 := by
      show 1 % 2 ^ w = 1
      exact Nat.mod_eq_of_lt (by omega)
    rw [BitVec.toNat_add, h2, Nat.mod_eq_of_lt h1]
    omega

end Sys2Proof

namespace Sys2Proof.Machine

@[simp] theorem LaneMap.get_set_same {α : Type} (m : LaneMap α) (l : Lane) (x : α) : (m.set l x).get l = x := by
  cases l <;> rfl

@[simp] theorem LaneMap.get_set_other {α : Type} (m : LaneMap α) {l k : Lane} (x : α) (h : k ≠ l) : (m.set l x).get k = m.get k := by
  cases l <;> cases k <;> first | rfl | exact absurd rfl h

@[simp] theorem LaneMap.set_set {α : Type} (m : LaneMap α) (l : Lane) (x y : α) : (m.set l x).set l y = m.set l y := by
  cases l <;> rfl

/-! ## Ports -/

@[simp] theorem State.port_modPort_same (s : State) (p : Port) (g : PortUnit → PortUnit) : (s.modPort p g).port p = g (s.port p) := by
  simp [State.port]

@[simp] theorem State.port_modPort_other (s : State) {p q : Port} (g : PortUnit → PortUnit) (h : q ≠ p) :
    (s.modPort p g).port q = s.port q := by
  simp [State.port, h]

theorem State.port_modPort (s : State) (p q : Port) (g : PortUnit → PortUnit) :
    (s.modPort p g).port q = if q = p then g (s.port p) else s.port q := by
  by_cases h : q = p
  · subst h; simp
  · simp [h]

@[simp] theorem State.port_raise (s : State) (f : Flag) (p : Port) : (s.raise f).port p = s.port p := rfl

@[simp] theorem State.port_modProbe (s : State) (g : ProbeUnit → ProbeUnit) (p : Port) : (s.modProbe g).port p = s.port p := rfl

/-! ## Sparse tables -/

theorem Sparse.get_filter_ne {α : Type} (d : α) (m : List (Nat × α)) {h k : Nat} (hk : k ≠ h) :
    Sparse.get d (m.filter (fun e => e.1 != h)) k = Sparse.get d m k := by
  induction m with
  | nil => rfl
  | cons e m ih =>
    obtain ⟨j, x⟩ := e
    by_cases hj : j = h
    · subst hj
      simp [Sparse.get, ih, Ne.symm hk]
    · simp [Sparse.get, hj, ih]

theorem Sparse.get_filter_same {α : Type} (d : α) (m : List (Nat × α)) (h : Nat) :
    Sparse.get d (m.filter (fun e => e.1 != h)) h = d := by
  induction m with
  | nil => rfl
  | cons e m ih =>
    obtain ⟨j, x⟩ := e
    by_cases hj : j = h
    · subst hj; simpa using ih
    · simp [Sparse.get, hj, ih]

theorem Sparse.get_insert_same {α : Type} (d : α) (m : List (Nat × α)) (h : Nat) (x : α) (hn : ∀ e ∈ m, e.1 ≠ h) :
    Sparse.get d (Sparse.insert h x m) h = x := by
  induction m with
  | nil => simp [Sparse.insert, Sparse.get]
  | cons e m ih =>
    obtain ⟨j, y⟩ := e
    have hj : j ≠ h := hn (j, y) (by simp)
    simp only [Sparse.insert]
    split
    · simp [Sparse.get]
    · simp [Sparse.get, hj, ih (fun e he => hn e (by simp [he]))]

theorem Sparse.get_insert_other {α : Type} (d : α) (m : List (Nat × α)) {h k : Nat} (x : α) (hk : k ≠ h) :
    Sparse.get d (Sparse.insert h x m) k = Sparse.get d m k := by
  induction m with
  | nil => simp [Sparse.insert, Sparse.get, Ne.symm hk]
  | cons e m ih =>
    obtain ⟨j, y⟩ := e
    simp only [Sparse.insert]
    split
    · simp [Sparse.get, Ne.symm hk]
    · simp [Sparse.get, ih]

/-- Reading the number just written gives what was written. -/
@[simp] theorem Sparse.get_put_same {α : Type} [DecidableEq α] (d : α) (m : List (Nat × α)) (h : Nat) (x : α) :
    Sparse.get d (Sparse.put d m h x) h = x := by
  unfold Sparse.put
  split
  · rename_i hx; rw [hx]; exact Sparse.get_filter_same d m h
  · exact Sparse.get_insert_same d _ h x (fun e he => by simpa using (List.mem_filter.mp he).2)

/-- Reading any other number gives what stood there. -/
@[simp] theorem Sparse.get_put_other {α : Type} [DecidableEq α] (d : α) (m : List (Nat × α)) {h k : Nat} (x : α) (hk : k ≠ h) :
    Sparse.get d (Sparse.put d m h x) k = Sparse.get d m k := by
  unfold Sparse.put
  split
  · exact Sparse.get_filter_ne d m hk
  · rw [Sparse.get_insert_other d _ x hk, Sparse.get_filter_ne d m hk]

/-- The canonical form said of a list and its pairs: numbers strictly rising, no default listed. -/
theorem Sparse.wf_iff {α : Type} [DecidableEq α] (d : α) (m : List (Nat × α)) :
    Sparse.wf d m = true ↔ m.Pairwise (fun e f => e.1 < f.1) ∧ ∀ e ∈ m, e.2 ≠ d := by
  induction m with
  | nil => simp [Sparse.wf]
  | cons e m ih =>
    obtain ⟨k, x⟩ := e
    cases m with
    | nil => simp [Sparse.wf]
    | cons f m =>
      obtain ⟨j, y⟩ := f
      simp only [Sparse.wf, Bool.and_eq_true, decide_eq_true_eq, ih, List.pairwise_cons, List.mem_cons, forall_eq_or_imp]
      constructor
      · rintro ⟨⟨hk, hx⟩, ⟨hj, hp⟩, hy, hm⟩
        exact ⟨⟨⟨hk, fun e he => Nat.lt_trans hk (hj e he)⟩, hj, hp⟩, hx, hy, hm⟩
      · rintro ⟨⟨⟨hk, _⟩, hj, hp⟩, hx, hy, hm⟩
        exact ⟨⟨hk, hx⟩, ⟨hj, hp⟩, hy, hm⟩

theorem Sparse.mem_insert {α : Type} (h : Nat) (x : α) (m : List (Nat × α)) (e : Nat × α) :
    e ∈ Sparse.insert h x m ↔ e = (h, x) ∨ e ∈ m := by
  induction m with
  | nil => simp [Sparse.insert]
  | cons f m ih =>
    obtain ⟨k, y⟩ := f
    simp only [Sparse.insert]
    split
    · simp
    · simp only [List.mem_cons, ih]
      constructor
      · rintro (h | h | h) <;> simp [h]
      · rintro (h | h | h) <;> simp [h]

theorem Sparse.pairwise_insert {α : Type} (h : Nat) (x : α) (m : List (Nat × α)) (hp : m.Pairwise (fun e f => e.1 < f.1))
    (hn : ∀ e ∈ m, e.1 ≠ h) : (Sparse.insert h x m).Pairwise (fun e f => e.1 < f.1) := by
  induction m with
  | nil => simp [Sparse.insert]
  | cons f m ih =>
    obtain ⟨k, y⟩ := f
    simp only [List.pairwise_cons] at hp
    have hk : k ≠ h := hn (k, y) (by simp)
    simp only [Sparse.insert]
    split
    · rename_i hlt
      refine List.pairwise_cons.mpr ⟨?_, List.pairwise_cons.mpr hp⟩
      intro e he
      rcases List.mem_cons.mp he with rfl | he
      · exact hlt
      · exact Nat.lt_trans hlt (hp.1 e he)
    · rename_i hlt
      refine List.pairwise_cons.mpr ⟨?_, ih hp.2 (fun e he => hn e (by simp [he]))⟩
      intro e he
      rcases (Sparse.mem_insert h x m e).mp he with rfl | he
      · exact Nat.lt_of_le_of_ne (Nat.not_lt.mp hlt) hk
      · exact hp.1 e he

/-- A write keeps the canonical form. -/
theorem Sparse.wf_put {α : Type} [DecidableEq α] (d : α) (m : List (Nat × α)) (h : Nat) (x : α) (hm : Sparse.wf d m = true) :
    Sparse.wf d (Sparse.put d m h x) = true := by
  rw [Sparse.wf_iff] at hm ⊢
  have hf : (m.filter (fun e => e.1 != h)).Pairwise (fun e f => e.1 < f.1) := hm.1.filter _
  have hd : ∀ e ∈ m.filter (fun e => e.1 != h), e.2 ≠ d := fun e he => hm.2 e (List.mem_filter.mp he).1
  unfold Sparse.put
  split
  · exact ⟨hf, hd⟩
  · rename_i hx
    refine ⟨Sparse.pairwise_insert h x _ hf (fun e he => by simpa using (List.mem_filter.mp he).2), ?_⟩
    intro e he
    rcases (Sparse.mem_insert h x _ e).mp he with rfl | he
    · exact hx
    · exact hd e he

/-- What a write leaves listed: the new pair, unless it is the default, and the pairs of other numbers. -/
theorem Sparse.mem_put {α : Type} [DecidableEq α] (d : α) (m : List (Nat × α)) (h : Nat) (x : α) (e : Nat × α) :
    e ∈ Sparse.put d m h x ↔ (e = (h, x) ∧ x ≠ d) ∨ (e ∈ m ∧ e.1 ≠ h) := by
  unfold Sparse.put
  split
  · rename_i hx; simp [hx, List.mem_filter]
  · rename_i hx; simp [Sparse.mem_insert, hx, List.mem_filter]

/-- In a canonical table the listed pairs are what reading gives. -/
theorem Sparse.get_of_mem {α : Type} [DecidableEq α] (d : α) (m : List (Nat × α)) (hm : Sparse.wf d m = true) {k : Nat} {x : α}
    (h : (k, x) ∈ m) : Sparse.get d m k = x := by
  rw [Sparse.wf_iff] at hm
  induction m with
  | nil => simp at h
  | cons e m ih =>
    obtain ⟨j, y⟩ := e
    rcases List.mem_cons.mp h with h | h
    · cases h; simp [Sparse.get]
    · have hj : j < k := (List.pairwise_cons.mp hm.1).1 (k, x) h
      simp only [Sparse.get, Nat.ne_of_lt hj, if_false]
      exact ih ⟨(List.pairwise_cons.mp hm.1).2, fun e he => hm.2 e (by simp [he])⟩ h

/-- What is read and is not the default is listed. -/
theorem Sparse.mem_of_get {α : Type} (d : α) (m : List (Nat × α)) (k : Nat) (h : Sparse.get d m k ≠ d) :
    (k, Sparse.get d m k) ∈ m := by
  induction m with
  | nil => exact absurd rfl h
  | cons e m ih =>
    obtain ⟨j, y⟩ := e
    by_cases hj : j = k
    · subst hj; simp [Sparse.get]
    · simp only [Sparse.get, hj, if_false] at h ⊢
      exact List.mem_cons_of_mem _ (ih h)

/-! ## Records, tallies and roster entries -/

@[simp] theorem State.record_putRecord_same (s : State) (h : Nat) (r : Record) : (s.putRecord h r).record h = r := by
  simp [State.record, State.putRecord]

@[simp] theorem State.record_putRecord_other (s : State) {h k : Nat} (r : Record) (hk : k ≠ h) :
    (s.putRecord h r).record k = s.record k := by
  simp [State.record, State.putRecord, hk]

@[simp] theorem State.tally_putTally_same (s : State) (h n : Nat) : (s.putTally h n).tally h = n := by
  simp [State.tally, State.putTally]

@[simp] theorem State.tally_putTally_other (s : State) {h k : Nat} (n : Nat) (hk : k ≠ h) : (s.putTally h n).tally k = s.tally k := by
  simp [State.tally, State.putTally, hk]

@[simp] theorem State.rosterEntry_putRoster_same (s : State) (k : Nat) (e : RosterEntry) : (s.putRoster k e).rosterEntry k = e := by
  simp [State.rosterEntry, State.putRoster]

@[simp] theorem State.rosterEntry_putRoster_other (s : State) {k j : Nat} (e : RosterEntry) (hj : j ≠ k) :
    (s.putRoster k e).rosterEntry j = s.rosterEntry j := by
  simp [State.rosterEntry, State.putRoster, hj]

/-! ## Flags -/

theorem Flag.bit_lt (f : Flag) : f.bit < 9 := by cases f <;> decide

theorem Flag.mask_getLsbD (f g : Flag) : f.mask.getLsbD g.bit = decide (f = g) := by
  cases f <;> cases g <;> decide

/-- A flag's event sets it and leaves the others. -/
theorem State.flag_raise (s : State) (f g : Flag) : (s.raise f).flag g = (s.flag g || decide (f = g)) := by
  simp only [State.flag, State.raise, BitVec.getLsbD_or, Flag.mask_getLsbD]

@[simp] theorem State.flag_raise_same (s : State) (f : Flag) : (s.raise f).flag f = true := by simp [State.flag_raise]

/-- Clearing a flag leaves the others. -/
theorem State.flag_lower (s : State) (f g : Flag) : (s.lower f).flag g = (s.flag g && !decide (f = g)) := by
  simp only [State.flag, State.lower, BitVec.getLsbD_and, BitVec.getLsbD_not, Flag.mask_getLsbD, Flag.bit_lt, decide_true,
    Bool.true_and]

theorem State.flag_raiseIf (s : State) (c : Bool) (f g : Flag) : (s.raiseIf c f).flag g = (s.flag g || (c && decide (f = g))) := by
  cases c <;> simp [State.raiseIf, State.flag_raise]

end Sys2Proof.Machine
end

