-- ==== Sys2Proof/Laws/Footprint.lean ====
section
/-! SUPPORT. The two footprints of Safety.lean as relations: each holds of a state and itself, holds from end to end of a chain, and
leaves every field but those it names. -/

namespace Sys2Proof.Machine

/-! ## onlyTrafficMoves -/

theorem State.onlyTrafficMoves_refl (s : State) : s.onlyTrafficMoves s := rfl

theorem State.onlyTrafficMoves_pending {s t : State} (h : s.onlyTrafficMoves t) : t.pending = s.pending := by unfold State.onlyTrafficMoves at h; rw [h]
theorem State.onlyTrafficMoves_draws {s t : State} (h : s.onlyTrafficMoves t) : t.draws = s.draws := by unfold State.onlyTrafficMoves at h; rw [h]
theorem State.onlyTrafficMoves_resetHeld {s t : State} (h : s.onlyTrafficMoves t) : t.resetHeld = s.resetHeld := by unfold State.onlyTrafficMoves at h; rw [h]
theorem State.onlyTrafficMoves_bayClock {s t : State} (h : s.onlyTrafficMoves t) : t.bayClock = s.bayClock := by unfold State.onlyTrafficMoves at h; rw [h]
theorem State.onlyTrafficMoves_lastResult {s t : State} (h : s.onlyTrafficMoves t) : t.lastResult = s.lastResult := by unfold State.onlyTrafficMoves at h; rw [h]
theorem State.onlyTrafficMoves_inFlight {s t : State} (h : s.onlyTrafficMoves t) : t.inFlight = s.inFlight := by unfold State.onlyTrafficMoves at h; rw [h]
theorem State.onlyTrafficMoves_inHand {s t : State} (h : s.onlyTrafficMoves t) : t.inHand = s.inHand := by unfold State.onlyTrafficMoves at h; rw [h]
theorem State.onlyTrafficMoves_staging {s t : State} (h : s.onlyTrafficMoves t) : t.staging = s.staging := by unfold State.onlyTrafficMoves at h; rw [h]
theorem State.onlyTrafficMoves_frontView {s t : State} (h : s.onlyTrafficMoves t) : t.frontView = s.frontView := by unfold State.onlyTrafficMoves at h; rw [h]
theorem State.onlyTrafficMoves_backView {s t : State} (h : s.onlyTrafficMoves t) : t.backView = s.backView := by unfold State.onlyTrafficMoves at h; rw [h]
theorem State.onlyTrafficMoves_cursor {s t : State} (h : s.onlyTrafficMoves t) : t.cursor = s.cursor := by unfold State.onlyTrafficMoves at h; rw [h]
theorem State.onlyTrafficMoves_settings {s t : State} (h : s.onlyTrafficMoves t) : t.settings = s.settings := by unfold State.onlyTrafficMoves at h; rw [h]
theorem State.onlyTrafficMoves_spiOut {s t : State} (h : s.onlyTrafficMoves t) : t.spiOut = s.spiOut := by unfold State.onlyTrafficMoves at h; rw [h]
theorem State.onlyTrafficMoves_table {s t : State} (h : s.onlyTrafficMoves t) : t.table = s.table := by unfold State.onlyTrafficMoves at h; rw [h]
theorem State.onlyTrafficMoves_notices {s t : State} (h : s.onlyTrafficMoves t) : t.notices = s.notices := by unfold State.onlyTrafficMoves at h; rw [h]
theorem State.onlyTrafficMoves_rotation {s t : State} (h : s.onlyTrafficMoves t) : t.rotation = s.rotation := by unfold State.onlyTrafficMoves at h; rw [h]
theorem State.onlyTrafficMoves_sweep {s t : State} (h : s.onlyTrafficMoves t) : t.sweep = s.sweep := by unfold State.onlyTrafficMoves at h; rw [h]
theorem State.onlyTrafficMoves_proving {s t : State} (h : s.onlyTrafficMoves t) : t.proving = s.proving := by unfold State.onlyTrafficMoves at h; rw [h]
theorem State.onlyTrafficMoves_probe {s t : State} (h : s.onlyTrafficMoves t) : t.probe = s.probe := by unfold State.onlyTrafficMoves at h; rw [h]
theorem State.onlyTrafficMoves_loader {s t : State} (h : s.onlyTrafficMoves t) : t.loader = s.loader := by unfold State.onlyTrafficMoves at h; rw [h]

theorem State.onlyTrafficMoves_trans {s t u : State} (h : s.onlyTrafficMoves t) (k : t.onlyTrafficMoves u) : s.onlyTrafficMoves u := by
  apply State.ext <;> first | rfl | skip
  · exact (State.onlyTrafficMoves_pending k).trans (State.onlyTrafficMoves_pending h)
  · exact (State.onlyTrafficMoves_draws k).trans (State.onlyTrafficMoves_draws h)
  · exact (State.onlyTrafficMoves_resetHeld k).trans (State.onlyTrafficMoves_resetHeld h)
  · exact (State.onlyTrafficMoves_bayClock k).trans (State.onlyTrafficMoves_bayClock h)
  · exact (State.onlyTrafficMoves_lastResult k).trans (State.onlyTrafficMoves_lastResult h)
  · exact (State.onlyTrafficMoves_inFlight k).trans (State.onlyTrafficMoves_inFlight h)
  · exact (State.onlyTrafficMoves_inHand k).trans (State.onlyTrafficMoves_inHand h)
  · exact (State.onlyTrafficMoves_staging k).trans (State.onlyTrafficMoves_staging h)
  · exact (State.onlyTrafficMoves_frontView k).trans (State.onlyTrafficMoves_frontView h)
  · exact (State.onlyTrafficMoves_backView k).trans (State.onlyTrafficMoves_backView h)
  · exact (State.onlyTrafficMoves_cursor k).trans (State.onlyTrafficMoves_cursor h)
  · exact (State.onlyTrafficMoves_settings k).trans (State.onlyTrafficMoves_settings h)
  · exact (State.onlyTrafficMoves_spiOut k).trans (State.onlyTrafficMoves_spiOut h)
  · exact (State.onlyTrafficMoves_table k).trans (State.onlyTrafficMoves_table h)
  · exact (State.onlyTrafficMoves_notices k).trans (State.onlyTrafficMoves_notices h)
  · exact (State.onlyTrafficMoves_rotation k).trans (State.onlyTrafficMoves_rotation h)
  · exact (State.onlyTrafficMoves_sweep k).trans (State.onlyTrafficMoves_sweep h)
  · exact (State.onlyTrafficMoves_proving k).trans (State.onlyTrafficMoves_proving h)
  · exact (State.onlyTrafficMoves_probe k).trans (State.onlyTrafficMoves_probe h)
  · exact (State.onlyTrafficMoves_loader k).trans (State.onlyTrafficMoves_loader h)

/-! ## onlyPortsMove -/

theorem State.onlyPortsMove_refl (s : State) : s.onlyPortsMove s := rfl

theorem State.onlyPortsMove_pending {s t : State} (h : s.onlyPortsMove t) : t.pending = s.pending := by unfold State.onlyPortsMove at h; rw [h]
theorem State.onlyPortsMove_draws {s t : State} (h : s.onlyPortsMove t) : t.draws = s.draws := by unfold State.onlyPortsMove at h; rw [h]
theorem State.onlyPortsMove_resetHeld {s t : State} (h : s.onlyPortsMove t) : t.resetHeld = s.resetHeld := by unfold State.onlyPortsMove at h; rw [h]
theorem State.onlyPortsMove_bayClock {s t : State} (h : s.onlyPortsMove t) : t.bayClock = s.bayClock := by unfold State.onlyPortsMove at h; rw [h]
theorem State.onlyPortsMove_lastResult {s t : State} (h : s.onlyPortsMove t) : t.lastResult = s.lastResult := by unfold State.onlyPortsMove at h; rw [h]
theorem State.onlyPortsMove_inFlight {s t : State} (h : s.onlyPortsMove t) : t.inFlight = s.inFlight := by unfold State.onlyPortsMove at h; rw [h]
theorem State.onlyPortsMove_inHand {s t : State} (h : s.onlyPortsMove t) : t.inHand = s.inHand := by unfold State.onlyPortsMove at h; rw [h]
theorem State.onlyPortsMove_staging {s t : State} (h : s.onlyPortsMove t) : t.staging = s.staging := by unfold State.onlyPortsMove at h; rw [h]
theorem State.onlyPortsMove_frontView {s t : State} (h : s.onlyPortsMove t) : t.frontView = s.frontView := by unfold State.onlyPortsMove at h; rw [h]
theorem State.onlyPortsMove_backView {s t : State} (h : s.onlyPortsMove t) : t.backView = s.backView := by unfold State.onlyPortsMove at h; rw [h]
theorem State.onlyPortsMove_cursor {s t : State} (h : s.onlyPortsMove t) : t.cursor = s.cursor := by unfold State.onlyPortsMove at h; rw [h]
theorem State.onlyPortsMove_settings {s t : State} (h : s.onlyPortsMove t) : t.settings = s.settings := by unfold State.onlyPortsMove at h; rw [h]
theorem State.onlyPortsMove_spiOut {s t : State} (h : s.onlyPortsMove t) : t.spiOut = s.spiOut := by unfold State.onlyPortsMove at h; rw [h]
theorem State.onlyPortsMove_table {s t : State} (h : s.onlyPortsMove t) : t.table = s.table := by unfold State.onlyPortsMove at h; rw [h]
theorem State.onlyPortsMove_rotation {s t : State} (h : s.onlyPortsMove t) : t.rotation = s.rotation := by unfold State.onlyPortsMove at h; rw [h]
theorem State.onlyPortsMove_sweep {s t : State} (h : s.onlyPortsMove t) : t.sweep = s.sweep := by unfold State.onlyPortsMove at h; rw [h]
theorem State.onlyPortsMove_proving {s t : State} (h : s.onlyPortsMove t) : t.proving = s.proving := by unfold State.onlyPortsMove at h; rw [h]
theorem State.onlyPortsMove_nextName {s t : State} (h : s.onlyPortsMove t) : t.nextName = s.nextName := by unfold State.onlyPortsMove at h; rw [h]
theorem State.onlyPortsMove_loader {s t : State} (h : s.onlyPortsMove t) : t.loader = s.loader := by unfold State.onlyPortsMove at h; rw [h]

theorem State.onlyPortsMove_trans {s t u : State} (h : s.onlyPortsMove t) (k : t.onlyPortsMove u) : s.onlyPortsMove u := by
  apply State.ext <;> first | rfl | skip
  · exact (State.onlyPortsMove_pending k).trans (State.onlyPortsMove_pending h)
  · exact (State.onlyPortsMove_draws k).trans (State.onlyPortsMove_draws h)
  · exact (State.onlyPortsMove_resetHeld k).trans (State.onlyPortsMove_resetHeld h)
  · exact (State.onlyPortsMove_bayClock k).trans (State.onlyPortsMove_bayClock h)
  · exact (State.onlyPortsMove_lastResult k).trans (State.onlyPortsMove_lastResult h)
  · exact (State.onlyPortsMove_inFlight k).trans (State.onlyPortsMove_inFlight h)
  · exact (State.onlyPortsMove_inHand k).trans (State.onlyPortsMove_inHand h)
  · exact (State.onlyPortsMove_staging k).trans (State.onlyPortsMove_staging h)
  · exact (State.onlyPortsMove_frontView k).trans (State.onlyPortsMove_frontView h)
  · exact (State.onlyPortsMove_backView k).trans (State.onlyPortsMove_backView h)
  · exact (State.onlyPortsMove_cursor k).trans (State.onlyPortsMove_cursor h)
  · exact (State.onlyPortsMove_settings k).trans (State.onlyPortsMove_settings h)
  · exact (State.onlyPortsMove_spiOut k).trans (State.onlyPortsMove_spiOut h)
  · exact (State.onlyPortsMove_table k).trans (State.onlyPortsMove_table h)
  · exact (State.onlyPortsMove_rotation k).trans (State.onlyPortsMove_rotation h)
  · exact (State.onlyPortsMove_sweep k).trans (State.onlyPortsMove_sweep h)
  · exact (State.onlyPortsMove_proving k).trans (State.onlyPortsMove_proving h)
  · exact (State.onlyPortsMove_nextName k).trans (State.onlyPortsMove_nextName h)
  · exact (State.onlyPortsMove_loader k).trans (State.onlyPortsMove_loader h)

end Sys2Proof.Machine
end

