-- ==== Sys2Proof/Laws/Traffic.lean ====
section
/-! SUPPORT. What the buffer manager's operations do (R145 to R155), said once for each: a transmitter's choice, the offer of copies,
an admission request, a copy that leaves. -/

namespace Sys2Proof.Machine

/-! ## A transmitter's choice (R152, R153) -/

/-- A choice touches the queues, the transmission and the quota count alone. -/
theorem PortUnit.choose_eq (u : PortUnit) (q : Nat) :
    u.choose q = { u with
      trip := (u.choose q).trip, sample := (u.choose q).sample, status := (u.choose q).status
      sending := (u.choose q).sending, quota := (u.choose q).quota } := by
  unfold PortUnit.choose
  split
  · dsimp only
    split
    · rfl
    · cases chosenClass u q <;> rfl
  · rfl

@[simp] theorem PortUnit.choose_state (u : PortUnit) (q : Nat) : (u.choose q).state = u.state := by rw [choose_eq]
@[simp] theorem PortUnit.choose_signal (u : PortUnit) (q : Nat) : (u.choose q).signal = u.signal := by rw [choose_eq]
@[simp] theorem PortUnit.choose_flaps (u : PortUnit) (q : Nat) : (u.choose q).flaps = u.flaps := by rw [choose_eq]
@[simp] theorem PortUnit.choose_counters (u : PortUnit) (q : Nat) : (u.choose q).counters = u.counters := by rw [choose_eq]
@[simp] theorem PortUnit.choose_underWay (u : PortUnit) (q : Nat) : (u.choose q).underWay = u.underWay := by rw [choose_eq]
@[simp] theorem PortUnit.choose_store (u : PortUnit) (q : Nat) : (u.choose q).store = u.store := by rw [choose_eq]
@[simp] theorem PortUnit.choose_claim (u : PortUnit) (q : Nat) : (u.choose q).claim = u.claim := by rw [choose_eq]
@[simp] theorem PortUnit.choose_lastOut (u : PortUnit) (q : Nat) : (u.choose q).lastOut = u.lastOut := by rw [choose_eq]

/-- A choice moves a descriptor from its queue into transmission and loses none. -/
theorem PortUnit.choose_perm (u : PortUnit) (q : Nat) : (u.choose q).descriptors.Perm u.descriptors := by
  unfold PortUnit.choose
  split
  · rename_i hs
    have hn : u.sending = none := by simpa using (Bool.and_eq_true_iff.mp hs).2
    dsimp only
    split
    · exact List.Perm.refl _
    · rename_i d rest hq
      cases hc : chosenClass u q <;> rw [hc] at hq <;> simp only [PortUnit.queue] at hq <;>
        simp only [PortUnit.descriptors, PortUnit.setQueue, hq, hn, Option.toList, List.append_nil]
      · simp only [List.cons_append]
        exact List.perm_append_singleton d _
      · rw [List.append_assoc, List.append_assoc, List.append_assoc, List.cons_append]
        refine List.Perm.append_left _ ?_
        rw [← List.append_assoc]
        exact List.perm_append_singleton d _
      · rw [List.append_assoc]
        exact List.Perm.append_left _ (List.perm_append_singleton d rest)
  · exact List.Perm.refl _

theorem PortUnit.mem_choose (u : PortUnit) (q : Nat) (d : Descriptor) : d ∈ (u.choose q).descriptors ↔ d ∈ u.descriptors :=
  (u.choose_perm q).mem_iff

/-! ## The offer of a copy (R149) -/

/-- What the offer of a copy makes of its port, by its fate. -/
def PortUnit.offered (u : PortUnit) (fate : Fate) (name : Nat) (cls : DataClass) (c : Copy) : PortUnit :=
  match fate with
  | .flushed => { u with counters := u.counters.addFlushed 1 }
  | .dropped => { u with counters := { u.counters with queueDrops := bump u.counters.queueDrops } }
  | .enqueued => u.setQueue cls (u.queue cls ++ [⟨name, c.form, c.handle⟩])

/-- The fate of a copy is judged on its port and the settings alone. -/
theorem State.fateOf_congr {s t : State} {cls : DataClass} {c : Copy} (hp : t.port c.port = s.port c.port)
    (hv : t.settings = s.settings) : t.fateOf cls c = s.fateOf cls c := by
  simp only [State.fateOf, hp, hv]

/-- An offer touches its port and the tallies alone. -/
theorem State.offer_eq (s : State) (name : Nat) (cls : DataClass) (c : Copy) :
    s.offer name cls c = { s with ports := (s.offer name cls c).ports, tallies := (s.offer name cls c).tallies } := by
  unfold State.offer
  split
  · rfl
  · rfl
  · cases c.handle <;> rfl

theorem State.offer_port (s : State) (name : Nat) (cls : DataClass) (c : Copy) (q : Port) :
    (s.offer name cls c).port q =
      if q = c.port then (s.port c.port).offered (s.fateOf cls c) name cls c else s.port q := by
  unfold State.offer
  split <;> rename_i hf
  · rw [State.count, State.port_modPort, hf]; rfl
  · rw [State.count, State.port_modPort, hf]; rfl
  · rw [hf]
    have hp := State.port_modPort s c.port q (fun u => u.setQueue cls (u.queue cls ++ [⟨name, c.form, c.handle⟩]))
    have ht : ∀ t : State, (t.tallyUp c.handle).port q = t.port q := fun t => by cases c.handle <;> rfl
    exact (ht _).trans hp

theorem State.offer_tally (s : State) (name : Nat) (cls : DataClass) (c : Copy) (h : Nat) :
    (s.offer name cls c).tally h = s.tally h + if s.fateOf cls c = .enqueued ∧ c.handle = some h then 1 else 0 := by
  unfold State.offer
  split <;> rename_i hf
  · simp [State.tally, State.count, hf]
  · simp [State.tally, State.count, hf]
  · rw [hf]
    cases hh : c.handle with
    | none => simp [State.tallyUp, State.tally]
    | some k =>
      have hm : ∀ g : PortUnit → PortUnit, ∀ j, (s.modPort c.port g).tally j = s.tally j := fun _ _ => rfl
      by_cases hk : h = k
      · subst hk; simp [State.tallyUp, hm]
      · simp [State.tallyUp, hk, Ne.symm hk, hm]

/-! ## Copies offered one after another (R149) -/

/-- Offers touch ports and tallies alone. -/
theorem State.offerAll_eq (name : Nat) (cls : DataClass) (cs : List Copy) (s : State) :
    (s.offerAll name cls cs).1 =
      { s with ports := (s.offerAll name cls cs).1.ports, tallies := (s.offerAll name cls cs).1.tallies } := by
  induction cs generalizing s with
  | nil => rfl
  | cons c cs ih =>
    have h1 := ih (s.offer name cls c)
    simp only [State.offerAll]
    rw [h1]
    rw [s.offer_eq name cls c]

theorem State.offerAll_settings (name : Nat) (cls : DataClass) (cs : List Copy) (s : State) :
    (s.offerAll name cls cs).1.settings = s.settings := by rw [offerAll_eq]

theorem State.offer_settings (s : State) (name : Nat) (cls : DataClass) (c : Copy) :
    (s.offer name cls c).settings = s.settings := by rw [offer_eq]

theorem State.offerAll_port_other (name : Nat) (cls : DataClass) (cs : List Copy) (s : State) (q : Port)
    (hq : q ∉ cs.map Copy.port) : (s.offerAll name cls cs).1.port q = s.port q := by
  induction cs generalizing s with
  | nil => rfl
  | cons c cs ih =>
    simp only [List.map_cons, List.mem_cons, not_or] at hq
    simp only [State.offerAll]
    rw [ih (s.offer name cls c) hq.2, State.offer_port, if_neg hq.1]

/-- The copies of a request that name different ports have the fates that the state before the request gives them. -/
theorem State.offerAll_fates (name : Nat) (cls : DataClass) (cs : List Copy) (s : State) (hd : (cs.map Copy.port).Nodup) :
    (s.offerAll name cls cs).2 = cs.map (s.fateOf cls) := by
  induction cs generalizing s with
  | nil => rfl
  | cons c cs ih =>
    simp only [List.map_cons, List.nodup_cons] at hd
    simp only [State.offerAll, List.map_cons]
    rw [ih (s.offer name cls c) hd.2]
    congr 1
    refine List.map_congr_left fun e he => State.fateOf_congr ?_ (s.offer_settings name cls c)
    rw [State.offer_port, if_neg]
    intro h
    exact hd.1 (h ▸ List.mem_map_of_mem he)

/-- What the port of one of the copies is after the offers, when they name different ports. -/
theorem State.offerAll_port (name : Nat) (cls : DataClass) (cs : List Copy) (s : State) (hd : (cs.map Copy.port).Nodup) (c : Copy)
    (hc : c ∈ cs) : (s.offerAll name cls cs).1.port c.port = (s.port c.port).offered (s.fateOf cls c) name cls c := by
  induction cs generalizing s with
  | nil => simp at hc
  | cons e cs ih =>
    simp only [List.map_cons, List.nodup_cons] at hd
    simp only [State.offerAll]
    rcases List.mem_cons.mp hc with rfl | hc
    · rw [State.offerAll_port_other name cls cs _ _ hd.1, State.offer_port, if_pos rfl]
    · have hne : c.port ≠ e.port := fun h => hd.1 (h ▸ List.mem_map_of_mem hc)
      have hp : (s.offer name cls e).port c.port = s.port c.port := by rw [State.offer_port, if_neg hne]
      rw [ih (s.offer name cls e) hd.2 hc, hp, State.fateOf_congr hp (s.offer_settings name cls e)]

theorem State.offerAll_tally (name : Nat) (cls : DataClass) (cs : List Copy) (s : State) (hd : (cs.map Copy.port).Nodup) (h : Nat) :
    (s.offerAll name cls cs).1.tally h =
      s.tally h + cs.countP (fun c => decide (s.fateOf cls c = .enqueued ∧ c.handle = some h)) := by
  induction cs generalizing s with
  | nil => rfl
  | cons c cs ih =>
    simp only [List.map_cons, List.nodup_cons] at hd
    simp only [State.offerAll]
    rw [ih (s.offer name cls c) hd.2, State.offer_tally, List.countP_cons]
    have hcong : cs.countP (fun e => decide ((s.offer name cls c).fateOf cls e = .enqueued ∧ e.handle = some h)) =
        cs.countP (fun e => decide (s.fateOf cls e = .enqueued ∧ e.handle = some h)) := by
      refine List.countP_congr fun e he => ?_
      have hp : (s.offer name cls c).port e.port = s.port e.port := by
        rw [State.offer_port, if_neg]
        intro hh
        exact hd.1 (hh ▸ List.mem_map_of_mem he)
      rw [State.fateOf_congr hp (s.offer_settings name cls c)]
    rw [hcong]
    simp only [decide_eq_true_eq]
    omega

/-! ## The transmitters of the copies' ports (R152) -/

@[simp] theorem State.serve_settings (s : State) (p : Port) : (s.serve p).settings = s.settings := rfl

theorem State.serve_port (s : State) (p q : Port) :
    (s.serve p).port q = if q = p then (s.port p).choose s.settings.statusQuota.toNat else s.port q := State.port_modPort _ _ _ _

/-- The choices touch ports alone. -/
theorem State.serveAll_eq (cs : List Copy) (s : State) : s.serveAll cs = { s with ports := (s.serveAll cs).ports } := by
  induction cs generalizing s with
  | nil => rfl
  | cons c cs ih =>
    show (s.serve c.port).serveAll cs = _
    rw [ih (s.serve c.port)]
    rfl

theorem State.serveAll_port_other (cs : List Copy) (s : State) (q : Port) (hq : q ∉ cs.map Copy.port) :
    (s.serveAll cs).port q = s.port q := by
  induction cs generalizing s with
  | nil => rfl
  | cons c cs ih =>
    simp only [List.map_cons, List.mem_cons, not_or] at hq
    show ((s.serve c.port).serveAll cs).port q = _
    rw [ih (s.serve c.port) hq.2, State.serve_port, if_neg hq.1]

theorem State.serveAll_port (cs : List Copy) (s : State) (hd : (cs.map Copy.port).Nodup) (q : Port) (hq : q ∈ cs.map Copy.port) :
    (s.serveAll cs).port q = (s.port q).choose s.settings.statusQuota.toNat := by
  induction cs generalizing s with
  | nil => simp at hq
  | cons c cs ih =>
    simp only [List.map_cons, List.nodup_cons] at hd
    show ((s.serve c.port).serveAll cs).port q = _
    rcases List.mem_cons.mp hq with rfl | hq
    · rw [State.serveAll_port_other cs _ _ hd.1, State.serve_port, if_pos rfl]
    · have hne : q ≠ c.port := fun h => hd.1 (h ▸ hq)
      rw [ih (s.serve c.port) hd.2 hq, State.serve_port, if_neg hne, State.serve_settings]

/-- No port's state, store, claim or other field outside its queues and counters is touched by the choices. -/
theorem State.serveAll_field {α : Type} (g : PortUnit → α) (hg : ∀ u q, g (PortUnit.choose u q) = g u) (cs : List Copy) (s : State)
    (q : Port) : g ((s.serveAll cs).port q) = g (s.port q) := by
  induction cs generalizing s with
  | nil => rfl
  | cons c cs ih =>
    show g (((s.serve c.port).serveAll cs).port q) = _
    rw [ih (s.serve c.port), State.serve_port]
    split
    · rename_i h; rw [hg, h]
    · rfl

/-! ## Admission requests (R147 to R149) -/

/-- A request reaches ports, pool, tallies, frame names and flags alone. -/
theorem State.storeFrame_traffic (s : State) (frame : List Byte) (cls : DataClass) (copies : List Copy) :
    s.onlyTrafficMoves (s.storeFrame frame cls copies).1 := by
  unfold State.onlyTrafficMoves State.storeFrame
  dsimp only
  rw [State.serveAll_eq, State.offerAll_eq]
  split <;> rfl

theorem State.refuseFrame_traffic (s : State) (blame : List Port) : s.onlyTrafficMoves (s.refuseFrame blame) := by
  unfold State.refuseFrame
  suffices ∀ t : State, s.onlyTrafficMoves t → s.onlyTrafficMoves
      (blame.foldl (fun t p => t.count p (fun k => { k with poolRefusals := bump k.poolRefusals })) t) from this _ rfl
  induction blame with
  | nil => exact fun t h => h
  | cons p ps ih => exact fun t h => ih _ (State.onlyTrafficMoves_trans h rfl)

theorem State.requestAdmission_traffic (s : State) (frame : List Byte) (cls : DataClass) (copies : List Copy) (blame : List Port) :
    s.onlyTrafficMoves (s.requestAdmission frame cls copies blame).1 := by
  unfold State.requestAdmission
  split
  · rfl
  · split
    · exact s.storeFrame_traffic frame cls copies
    · exact s.refuseFrame_traffic blame

/-- A frame with no copies is not offered. -/
theorem State.requestAdmission_none (s : State) (frame : List Byte) (cls : DataClass) (blame : List Port) :
    s.requestAdmission frame cls [] blame = (s, []) := rfl

/-- A frame that is not admissible is refused whole. -/
theorem State.requestAdmission_refused (s : State) (frame : List Byte) (cls : DataClass) (copies : List Copy) (blame : List Port)
    (hc : copies ≠ []) (ha : admissible cls (cellsFor frame.length) s.freeCells = false) :
    s.requestAdmission frame cls copies blame = (s.refuseFrame blame, []) := by
  simp [State.requestAdmission, hc, ha]

/-- A frame that is admissible is stored. -/
theorem State.requestAdmission_stored (s : State) (frame : List Byte) (cls : DataClass) (copies : List Copy) (blame : List Port)
    (hc : copies ≠ []) (ha : admissible cls (cellsFor frame.length) s.freeCells = true) :
    s.requestAdmission frame cls copies blame = s.storeFrame frame cls copies := by
  simp [State.requestAdmission, hc, ha]

/-- The answer of a stored frame: each copy's fate in the state before the request. -/
theorem State.storeFrame_fates (s : State) (frame : List Byte) (cls : DataClass) (copies : List Copy)
    (hd : (copies.map Copy.port).Nodup) : (s.storeFrame frame cls copies).2 = copies.map (s.fateOf cls) :=
  State.offerAll_fates s.nextName cls copies s hd

/-- A stored frame stands in the pool once for its enqueued copies, and not at all with none. -/
theorem State.storeFrame_pool (s : State) (frame : List Byte) (cls : DataClass) (copies : List Copy)
    (hd : (copies.map Copy.port).Nodup) :
    (s.storeFrame frame cls copies).1.pool =
      if enqueuedCount (copies.map (s.fateOf cls)) = 0 then s.pool
      else s.pool ++ [⟨s.nextName, frame, cls, enqueuedCount (copies.map (s.fateOf cls))⟩] := by
  unfold State.storeFrame
  dsimp only
  rw [State.serveAll_eq, State.offerAll_fates s.nextName cls copies s hd]
  split
  · rw [State.offerAll_eq]
  · dsimp only; rw [State.offerAll_eq]

/-- The port of one of the copies after the request: the copy offered there, then the transmitter's choice. -/
theorem State.storeFrame_port (s : State) (frame : List Byte) (cls : DataClass) (copies : List Copy)
    (hd : (copies.map Copy.port).Nodup) (c : Copy) (hc : c ∈ copies) :
    (s.storeFrame frame cls copies).1.port c.port =
      ((s.port c.port).offered (s.fateOf cls c) s.nextName cls c).choose s.settings.statusQuota.toNat := by
  unfold State.storeFrame
  dsimp only
  rw [State.serveAll_port copies _ hd c.port (List.mem_map_of_mem hc)]
  have hp := State.offerAll_port s.nextName cls copies s hd c hc
  have hv := State.offerAll_settings s.nextName cls copies s
  split
  · rw [hp, hv]
  · show ((s.offerAll s.nextName cls copies).1.port c.port).choose (s.offerAll s.nextName cls copies).1.settings.statusQuota.toNat = _
    rw [hp, hv]

/-- Ports that no copy names are as they were. -/
theorem State.storeFrame_port_other (s : State) (frame : List Byte) (cls : DataClass) (copies : List Copy) (q : Port)
    (hq : q ∉ copies.map Copy.port) : (s.storeFrame frame cls copies).1.port q = s.port q := by
  unfold State.storeFrame
  dsimp only
  rw [State.serveAll_port_other copies _ q hq]
  have hp := State.offerAll_port_other s.nextName cls copies s q hq
  split
  · exact hp
  · exact hp

theorem State.storeFrame_flags (s : State) (frame : List Byte) (cls : DataClass) (copies : List Copy) :
    (s.storeFrame frame cls copies).1.flags = s.flags := by
  unfold State.storeFrame
  dsimp only
  rw [State.serveAll_eq, State.offerAll_eq]
  split <;> rfl

theorem State.storeFrame_tally (s : State) (frame : List Byte) (cls : DataClass) (copies : List Copy)
    (hd : (copies.map Copy.port).Nodup) (h : Nat) :
    (s.storeFrame frame cls copies).1.tally h =
      s.tally h + copies.countP (fun c => decide (s.fateOf cls c = .enqueued ∧ c.handle = some h)) := by
  have ht := State.offerAll_tally s.nextName cls copies s hd h
  unfold State.storeFrame
  dsimp only
  rw [State.serveAll_eq]
  split
  · exact ht
  · exact ht

/-- The descriptor that an enqueued copy is stands among its port's descriptors. -/
theorem PortUnit.mem_offered (u : PortUnit) (name : Nat) (cls : DataClass) (c : Copy) (q : Nat) :
    (⟨name, c.form, c.handle⟩ : Descriptor) ∈ ((u.offered .enqueued name cls c).choose q).descriptors := by
  rw [PortUnit.mem_choose]
  cases cls <;> simp [PortUnit.offered, PortUnit.descriptors, PortUnit.setQueue, PortUnit.queue]

/-- A copy whose port takes it and whose queue has room is enqueued (R149). -/
theorem State.fateOf_enqueued (s : State) (cls : DataClass) (c : Copy) (hs : flushedAtOnce (s.port c.port).state c.role = false)
    (hq : ((s.port c.port).queue cls).length < s.settings.queueCap cls) : s.fateOf cls c = .enqueued := by
  simp [State.fateOf, hs, Nat.not_le.mpr hq]

/-- A request with one copy that is enqueued: the answer, the pool, the flags, the one port, every other port and the tallies. -/
theorem State.requestAdmission_one (s : State) (frame : List Byte) (cls : DataClass) (c : Copy) (blame : List Port)
    (ha : admissible cls (cellsFor frame.length) s.freeCells = true) (hf : s.fateOf cls c = .enqueued) :
    (s.requestAdmission frame cls [c] blame).2 = [.enqueued]
      ∧ (s.requestAdmission frame cls [c] blame).1.pool = s.pool ++ [⟨s.nextName, frame, cls, 1⟩]
      ∧ (s.requestAdmission frame cls [c] blame).1.flags = s.flags
      ∧ (s.requestAdmission frame cls [c] blame).1.port c.port =
          ((s.port c.port).offered .enqueued s.nextName cls c).choose s.settings.statusQuota.toNat
      ∧ (∀ q, q ≠ c.port → (s.requestAdmission frame cls [c] blame).1.port q = s.port q)
      ∧ (c.handle = none → (s.requestAdmission frame cls [c] blame).1.tallies = s.tallies) := by
  have hd : ([c].map Copy.port).Nodup := by simp
  rw [State.requestAdmission_stored s frame cls [c] blame (by simp) ha]
  refine ⟨?_, ?_, State.storeFrame_flags s frame cls [c], ?_, ?_, ?_⟩
  · rw [State.storeFrame_fates s frame cls [c] hd]; simp [hf]
  · rw [State.storeFrame_pool s frame cls [c] hd]; simp [hf, enqueuedCount]
  · rw [State.storeFrame_port s frame cls [c] hd c (by simp), hf]
  · intro q hq; exact State.storeFrame_port_other s frame cls [c] q (by simpa using hq)
  · intro hn
    simp only [State.storeFrame, State.offerAll, State.offer, hf, State.tallyUp, hn, enqueuedCount]
    rw [State.serveAll_eq]
    rfl

/-- A refusal touches the ports' "pool refusals" and the flag POOL alone (R148). -/
theorem State.refuseFrame_one (s : State) (p : Port) :
    s.refuseFrame [p] = (s.raise .pool).count p (fun k => { k with poolRefusals := bump k.poolRefusals }) := rfl

theorem State.refuseFrame_flags (s : State) (blame : List Port) : (s.refuseFrame blame).flags = s.flags ||| Flag.pool.mask := by
  unfold State.refuseFrame
  suffices ∀ t : State, t.flags = s.flags ||| Flag.pool.mask →
      (blame.foldl (fun t p => t.count p (fun k => { k with poolRefusals := bump k.poolRefusals })) t).flags =
        s.flags ||| Flag.pool.mask from this _ rfl
  induction blame with
  | nil => exact fun t h => h
  | cons p ps ih => exact fun t h => ih _ h

theorem State.refuseFrame_eq (s : State) (blame : List Port) :
    s.refuseFrame blame = { s with ports := (s.refuseFrame blame).ports, flags := s.flags ||| Flag.pool.mask } := by
  unfold State.refuseFrame
  suffices ∀ t : State, t = { s with ports := t.ports, flags := s.flags ||| Flag.pool.mask } →
      (blame.foldl (fun t p => t.count p (fun k => { k with poolRefusals := bump k.poolRefusals })) t) =
        { s with
          ports := (blame.foldl (fun t p => t.count p (fun k => { k with poolRefusals := bump k.poolRefusals })) t).ports
          flags := s.flags ||| Flag.pool.mask } from this _ rfl
  induction blame with
  | nil => exact fun t h => h
  | cons p ps ih =>
    intro t h
    refine ih _ ?_
    rw [h]
    rfl

/-- An admitted copy that is enqueued: its descriptor stands on its port, and the stored frame in the pool (R147, R149). -/
theorem State.requestAdmission_placed (s : State) (frame : List Byte) (cls : DataClass) (copies : List Copy) (blame : List Port)
    (hd : (copies.map Copy.port).Nodup) (c : Copy) (hc : c ∈ copies) (ha : admissible cls (cellsFor frame.length) s.freeCells = true)
    (hf : s.fateOf cls c = .enqueued) :
    (⟨s.nextName, c.form, c.handle⟩ : Descriptor) ∈ ((s.requestAdmission frame cls copies blame).1.port c.port).descriptors
      ∧ ∃ g ∈ (s.requestAdmission frame cls copies blame).1.pool, g.name = s.nextName ∧ g.bytes = frame ∧ g.cls = cls := by
  rw [State.requestAdmission_stored s frame cls copies blame (List.ne_nil_of_mem hc) ha]
  refine ⟨?_, ?_⟩
  · rw [State.storeFrame_port s frame cls copies hd c hc, hf]
    exact PortUnit.mem_offered _ _ _ _ _
  · rw [State.storeFrame_pool s frame cls copies hd]
    have hn : enqueuedCount (copies.map (s.fateOf cls)) ≠ 0 := by
      have hm : Fate.enqueued ∈ copies.map (s.fateOf cls) := List.mem_map.mpr ⟨c, hc, hf⟩
      exact Nat.ne_of_gt (List.count_pos_iff.mpr hm)
    rw [if_neg hn]
    exact ⟨_, List.mem_append_right _ (List.mem_singleton_self _), rfl, rfl, rfl⟩

/-- A port that no copy names and that is not blamed is as it was, whatever becomes of the request (R147, R148). -/
theorem State.requestAdmission_port_other (s : State) (frame : List Byte) (cls : DataClass) (copies : List Copy) (blame : List Port)
    (q : Port) (hq : q ∉ copies.map Copy.port) (hb : q ∉ blame) : (s.requestAdmission frame cls copies blame).1.port q = s.port q := by
  unfold State.requestAdmission
  split
  · rfl
  · split
    · exact State.storeFrame_port_other s frame cls copies q hq
    · unfold State.refuseFrame
      suffices ∀ t : State, t.port q = s.port q →
          (blame.foldl (fun t p => t.count p (fun k => { k with poolRefusals := bump k.poolRefusals })) t).port q = s.port q from this _ rfl
      induction blame with
      | nil => exact fun t h => h
      | cons p ps ih =>
        intro t h
        have hp : q ≠ p := fun e => hb (e ▸ List.mem_cons_self)
        refine ih (fun e => hb (List.mem_cons_of_mem _ e)) _ ?_
        show (t.modPort p (fun u =>
          { u with counters := { u.counters with poolRefusals := bump u.counters.poolRefusals } })).port q = s.port q
        rw [State.port_modPort, if_neg hp, h]

/-- What no request touches of a port: any field that neither a choice, nor an offer, nor a count of a refusal moves. -/
theorem State.requestAdmission_field {α : Type} (g : PortUnit → α) (hc : ∀ u q, g (PortUnit.choose u q) = g u)
    (ho : ∀ u f n cls c, g (PortUnit.offered u f n cls c) = g u)
    (hr : ∀ u : PortUnit, g { u with counters := { u.counters with poolRefusals := bump u.counters.poolRefusals } } = g u)
    (s : State) (frame : List Byte) (cls : DataClass) (copies : List Copy) (blame : List Port) (q : Port) :
    g ((s.requestAdmission frame cls copies blame).1.port q) = g (s.port q) := by
  have hoff : ∀ (cs : List Copy) (n : Nat) (t : State), g ((t.offerAll n cls cs).1.port q) = g (t.port q) := by
    intro cs n
    induction cs with
    | nil => exact fun t => rfl
    | cons c cs ih =>
      intro t
      show g (((t.offer n cls c).offerAll n cls cs).1.port q) = _
      rw [ih, State.offer_port]
      split
      · rename_i h; rw [ho, h]
      · rfl
  unfold State.requestAdmission
  split
  · rfl
  · split
    · unfold State.storeFrame
      dsimp only
      rw [State.serveAll_field g hc]
      split
      · exact hoff _ _ _
      · exact hoff _ _ _
    · unfold State.refuseFrame
      suffices ∀ t : State, g (t.port q) = g (s.port q) →
          g ((blame.foldl (fun t p => t.count p (fun k => { k with poolRefusals := bump k.poolRefusals })) t).port q) =
            g (s.port q) from this _ rfl
      induction blame with
      | nil => exact fun t h => h
      | cons p ps ih =>
        intro t h
        refine ih _ ?_
        show g ((t.modPort p (fun u =>
          { u with counters := { u.counters with poolRefusals := bump u.counters.poolRefusals } })).port q) = _
        rw [State.port_modPort]
        split
        · rename_i hq; rw [hr, ← h, hq]
        · exact h

/-! ## Copies that leave (R145, R152, R154) -/

theorem State.sendNotice_eq (s : State) (h : Nat) : s.sendNotice h = { s with notices := (s.sendNotice h).notices } := by
  unfold State.sendNotice
  split <;> rfl

theorem State.mem_sendNotice (s : State) (h k : Nat) : k ∈ (s.sendNotice h).notices ↔ k ∈ s.notices ∨ k = h := by
  unfold State.sendNotice
  split
  · rename_i hn
    have hn : h ∈ s.notices := by simpa using hn
    constructor
    · exact .inl
    · rintro (hk | rfl)
      · exact hk
      · exact hn
  · simp

theorem State.tallyDown_eq (s : State) (h : Nat) :
    s.tallyDown h = { s with tallies := (s.tallyDown h).tallies, notices := (s.tallyDown h).notices } := by
  unfold State.tallyDown
  dsimp only
  split
  · rw [State.sendNotice_eq]; rfl
  · rfl

theorem State.tallyDown_tally (s : State) (h k : Nat) :
    (s.tallyDown h).tally k = if k = h then s.tally k - 1 else s.tally k := by
  have hp : (s.tallyDown h).tally k = (s.putTally h (s.tally h - 1)).tally k := by
    unfold State.tallyDown
    dsimp only
    split
    · rw [State.sendNotice_eq]; rfl
    · rfl
  rw [hp]
  by_cases hk : k = h
  · subst hk; simp
  · simp [hk]

theorem State.mem_tallyDown (s : State) (h k : Nat) :
    k ∈ (s.tallyDown h).notices ↔ k ∈ s.notices ∨ (k = h ∧ s.tally h = 1) := by
  unfold State.tallyDown
  dsimp only
  split
  · rename_i ht
    rw [State.mem_sendNotice]
    simp [ht]
  · rename_i ht
    simp [ht]

/-- A copy that leaves touches pool, tallies and notices alone. -/
theorem State.releaseCopy_eq (s : State) (d : Descriptor) :
    s.releaseCopy d = { s with
      pool := releaseFrame s.pool d.frame, tallies := (s.releaseCopy d).tallies, notices := (s.releaseCopy d).notices } := by
  unfold State.releaseCopy
  cases d.handle with
  | none => rfl
  | some h => dsimp only; rw [State.tallyDown_eq]

theorem State.releaseCopy_port (s : State) (d : Descriptor) (q : Port) : (s.releaseCopy d).port q = s.port q := by
  unfold State.port
  rw [releaseCopy_eq]

theorem State.releaseCopy_tally (s : State) (d : Descriptor) (h : Nat) :
    (s.releaseCopy d).tally h = if d.handle = some h then s.tally h - 1 else s.tally h := by
  unfold State.releaseCopy
  cases hd : d.handle with
  | none => rfl
  | some k =>
    dsimp only
    rw [State.tallyDown_tally]
    simp only [Option.some.injEq]
    by_cases hk : h = k
    · subst hk; simp; rfl
    · simp [hk, Ne.symm hk]; rfl

theorem State.releaseCopy_notices (s : State) (d : Descriptor) (h : Nat) :
    h ∈ (s.releaseCopy d).notices ↔ h ∈ s.notices ∨ (d.handle = some h ∧ s.tally h = 1) := by
  unfold State.releaseCopy
  cases hd : d.handle with
  | none => simp
  | some k =>
    dsimp only
    rw [State.mem_tallyDown]
    simp only [Option.some.injEq]
    constructor
    · rintro (hk | ⟨rfl, h1⟩)
      · exact .inl hk
      · exact .inr ⟨rfl, h1⟩
    · rintro (hk | ⟨rfl, h1⟩)
      · exact .inl hk
      · exact .inr ⟨rfl, h1⟩

/-- Copies that leave one after another touch pool, tallies and notices alone. -/
theorem State.releaseAll_eq (ds : List Descriptor) (s : State) :
    ds.foldl State.releaseCopy s = { s with
      pool := (ds.foldl State.releaseCopy s).pool, tallies := (ds.foldl State.releaseCopy s).tallies
      notices := (ds.foldl State.releaseCopy s).notices } := by
  induction ds generalizing s with
  | nil => rfl
  | cons d ds ih =>
    simp only [List.foldl_cons]
    rw [ih (s.releaseCopy d), s.releaseCopy_eq d]

/-- What a release leaves of a stored frame. -/
theorem mem_releaseFrame (pool : List StoredFrame) (name : Nat) (g : StoredFrame) :
    g ∈ releaseFrame pool name ↔
      g.outstanding ≠ 0 ∧ ∃ f ∈ pool, (if f.name = name then { f with outstanding := f.outstanding - 1 } else f) = g := by
  simp only [releaseFrame, List.mem_filter, List.mem_map, bne_iff_ne, ne_eq]
  exact and_comm

/-- Each copy that leaves takes one from its handle's tally (R154). -/
theorem State.releaseAll_tally (ds : List Descriptor) (s : State) (h : Nat) :
    (ds.foldl State.releaseCopy s).tally h = s.tally h - ds.countP (fun d => d.handle == some h) := by
  induction ds generalizing s with
  | nil => rfl
  | cons d ds ih =>
    simp only [List.foldl_cons, List.countP_cons, beq_iff_eq]
    rw [ih (s.releaseCopy d), State.releaseCopy_tally]
    split <;> omega

/-- A tally that falls to 0 as copies leave has its notice on the list (R30, R154). -/
theorem State.releaseAll_notices (ds : List Descriptor) (s : State) (h : Nat) :
    h ∈ (ds.foldl State.releaseCopy s).notices ↔
      h ∈ s.notices ∨ (0 < s.tally h ∧ s.tally h ≤ ds.countP (fun d => d.handle == some h)) := by
  induction ds generalizing s with
  | nil => simp; omega
  | cons d ds ih =>
    simp only [List.foldl_cons, List.countP_cons, beq_iff_eq]
    rw [ih (s.releaseCopy d), State.releaseCopy_tally, State.releaseCopy_notices]
    by_cases hd : d.handle = some h
    · simp only [hd, if_true, true_and]
      constructor
      · rintro ((hn | h1) | h2)
        · exact .inl hn
        · exact .inr (by omega)
        · exact .inr (by omega)
      · rintro (hn | h1)
        · exact .inl (.inl hn)
        · by_cases h2 : s.tally h = 1
          · exact .inl (.inr h2)
          · exact .inr (by omega)
    · simp only [hd, if_false, false_and, or_false, Nat.add_zero]

/-- What copies that leave one after another make of a pool in which every frame has a copy outstanding (R145). -/
theorem releaseAll_pool (ds : List Descriptor) (pool : List StoredFrame) (hp : ∀ g ∈ pool, 0 < g.outstanding) :
    ds.foldl (fun m d => releaseFrame m d.frame) pool =
      (pool.map (fun g => { g with outstanding := g.outstanding - ds.countP (fun d => d.frame == g.name) })).filter
        (fun g => decide (0 < g.outstanding)) := by
  induction ds generalizing pool with
  | nil =>
    simp only [List.foldl_nil, List.countP_nil, Nat.sub_zero, List.map_id']
    exact (List.filter_eq_self.mpr fun g hg => decide_eq_true (hp g hg)).symm
  | cons d ds ih =>
    rw [List.foldl_cons, ih (releaseFrame pool d.frame)
      (fun g hg => Nat.pos_of_ne_zero ((mem_releaseFrame pool d.frame g).mp hg).1)]
    clear ih
    unfold releaseFrame
    induction pool with
    | nil => rfl
    | cons g pool ih =>
      have ih := ih (fun k hk => hp k (List.mem_cons_of_mem _ hk))
      have hg := hp g List.mem_cons_self
      simp only [List.map_cons, List.filter_cons, List.countP_cons, beq_iff_eq] at ih ⊢
      by_cases hn : g.name = d.frame
      · simp only [hn, if_true]
        by_cases h1 : g.outstanding - 1 = 0
        · have h2 : ¬ 0 < g.outstanding - (ds.countP (fun e => e.frame == d.frame) + 1) := by omega
          simp only [h1, bne_self_eq_false, Bool.false_eq_true, if_false, h2, decide_false, ih]
        · have h2 : g.outstanding - 1 - ds.countP (fun e => e.frame == d.frame) =
              g.outstanding - (ds.countP (fun e => e.frame == d.frame) + 1) := by omega
          simp only [bne_iff_ne, ne_eq, h1, not_false_eq_true, if_true, List.map_cons, List.filter_cons, h2, ih]
      · have hb : (g.outstanding != 0) = true := by simp; omega
        simp only [hn, if_false, hb, if_true, List.map_cons, List.filter_cons, Ne.symm hn, Nat.add_zero, ih]

theorem State.releaseAll_pool_eq (ds : List Descriptor) (s : State) :
    (ds.foldl State.releaseCopy s).pool = ds.foldl (fun m d => releaseFrame m d.frame) s.pool := by
  induction ds generalizing s with
  | nil => rfl
  | cons d ds ih =>
    simp only [List.foldl_cons]
    rw [ih (s.releaseCopy d)]
    congr 1
    rw [State.releaseCopy_eq]

/-- Copies that leave one after another, put together. -/
theorem State.releaseAll_copiesLeave (ds : List Descriptor) (s : State) : s.copiesLeave (ds.foldl State.releaseCopy s) ds :=
  ⟨fun hp => (s.releaseAll_pool_eq ds).trans (releaseAll_pool ds s.pool hp), s.releaseAll_tally ds, s.releaseAll_notices ds⟩

/-- A flush empties its port and touches no other port (R155). -/
theorem State.flush_ports (s : State) (p : Port) : (s.flush p).ports = s.ports.set p (s.port p).emptied := by
  unfold State.flush
  rw [State.releaseAll_eq]
  rfl

theorem State.flush_eq (s : State) (p : Port) :
    s.flush p = { s with
      ports := s.ports.set p (s.port p).emptied, pool := (s.flush p).pool, tallies := (s.flush p).tallies
      notices := (s.flush p).notices } := by
  rw [← State.flush_ports]
  unfold State.flush
  rw [State.releaseAll_eq]
  rfl

/-- A flush takes its port's copies from their frames and from their handles' tallies (R155). -/
theorem State.flush_copiesLeave (s : State) (p : Port) : s.copiesLeave (s.flush p) (s.port p).descriptors := by
  unfold State.flush
  exact State.releaseAll_copiesLeave (s.port p).descriptors (s.modPort p _)

/-- The end of a transmission touches its port, the pool, the tallies and the notices alone (R152). -/
theorem State.endTransmission_eq (s : State) (p : Port) (d : Descriptor) :
    s.endTransmission p d = { s with
      ports := (s.endTransmission p d).ports, pool := releaseFrame s.pool d.frame, tallies := (s.endTransmission p d).tallies
      notices := (s.endTransmission p d).notices } := by
  unfold State.endTransmission State.serve
  dsimp only
  rw [State.releaseCopy_eq]
  rfl

end Sys2Proof.Machine
end

