-- ==== Sys2Proof/Laws/Ports.lean ====
section
/-! SUPPORT. What a change of a port's state does (R115 to R118, R135, R137, R155), said once: to the port, to the others, to the flags
and to the probe unit. -/

namespace Sys2Proof.Machine

/-- A port takes frames and sends in UP and PROVING alone (R117). -/
theorem PortState.inService_iff (st : PortState) : st.inService = true ↔ st = .up ∨ st = .proving := by
  cases st <;> simp [PortState.inService]

/-! ## The ring state set anew (R137) -/

/-- The ring state the table gives hangs on the settings, the lanes' states and the miss counts alone. -/
theorem State.ringNow_congr {s t : State} (hv : t.settings = s.settings) (hl : t.lanesUp = s.lanesUp)
    (ha : t.probe.missA = s.probe.missA) (hb : t.probe.missB = s.probe.missB) : t.ringNow = s.ringNow := by
  simp only [State.ringNow, hv, hl, ha, hb]

/-- A change of a port that keeps its state leaves the ring state's table as it was. -/
theorem State.ringNow_modPort (s : State) (p : Port) (g : PortUnit → PortUnit) (hg : ∀ u, (g u).state = u.state) :
    (s.modPort p g).ringNow = s.ringNow := by
  have hs : ∀ q, ((s.modPort p g).port q).state = (s.port q).state := by
    intro q
    rw [State.port_modPort]
    split
    · rename_i h; rw [hg, h]
    · rfl
  exact State.ringNow_congr rfl (by simp only [State.lanesUp, State.isUp, hs]) rfl rfl

/-- Setting the ring state anew touches the ring state and the flags alone. -/
theorem State.judgeRing_eq (s : State) :
    s.judgeRing = { s with probe := { s.probe with ring := s.judgeRing.probe.ring }, flags := s.judgeRing.flags } := by
  unfold State.judgeRing
  split <;> rfl

theorem State.judgeRing_stopped (s : State) (h : s.probe.boundary = none) : s.judgeRing = s := by simp [State.judgeRing, h]

/-- On a started unit the ring state becomes the one its table gives. -/
theorem State.judgeRing_ring (s : State) (h : s.probe.boundary.isSome = true) : s.judgeRing.probe.ring = s.ringNow := by
  unfold State.judgeRing
  split
  · rename_i hc
    rcases Bool.or_eq_true_iff.mp hc with hn | hr
    · rw [Option.isNone_iff_eq_none.mp hn] at h; simp at h
    · exact (eq_of_beq hr).symm
  · rfl

@[simp] theorem State.judgeRing_lanesUp (s : State) : s.judgeRing.lanesUp = s.lanesUp := by rw [judgeRing_eq]; rfl

@[simp] theorem State.judgeRing_ringNow (s : State) : s.judgeRing.ringNow = s.ringNow := by rw [judgeRing_eq]; rfl

/-- RING is set on a change of the ring state and no other flag moves. -/
theorem State.judgeRing_flag (s : State) (f : Flag) :
    s.judgeRing.flag f = (s.flag f || (decide (f = .ring) && s.judgeRing.probe.ring != s.probe.ring)) := by
  unfold State.judgeRing
  split
  · simp
  · rename_i hc
    simp only [Bool.or_eq_true, beq_iff_eq, not_or] at hc
    rw [State.flag_raise]
    have hne : (s.ringNow != s.probe.ring) = true := by simpa using hc.2
    show (s.flag f || decide (Flag.ring = f)) = (s.flag f || (decide (f = Flag.ring) && s.ringNow != s.probe.ring))
    rw [hne, Bool.and_true]
    congr 1
    exact decide_eq_decide.mpr eq_comm

/-! ## What a lane's change of state does to the unit (R135, R137) -/

theorem State.laneMoved_eq (s : State) (old new : PortState) :
    s.laneMoved old new = { s with probe := (s.laneMoved old new).probe, flags := (s.laneMoved old new).flags } := by
  unfold State.laneMoved
  dsimp only
  split
  · rfl
  · split <;> split <;> first | rfl | (rw [State.judgeRing_eq]; try rfl)

/-- A lane that neither enters nor leaves UP leaves the unit alone. -/
theorem State.laneMoved_away (s : State) (old new : PortState) (ho : old ≠ .up) (hn : new ≠ .up) : s.laneMoved old new = s := by
  simp [State.laneMoved, ho, hn]

/-- On a started unit, a lane that enters or leaves UP sets the ring state anew, with both counts at 15 when it left. -/
theorem State.laneMoved_ring (s : State) (old new : PortState) (hb : s.probe.boundary.isSome = true) (hu : old = .up ∨ new = .up) :
    (s.laneMoved old new).probe.ring = (s.laneMoved old new).ringNow
      ∧ (old = .up → s.settings.node ≠ 0 → (s.laneMoved old new).probe.missA = 15 ∧ (s.laneMoved old new).probe.missB = 15)
      ∧ ∀ f, (s.laneMoved old new).flag f =
          (s.flag f || (decide (f = .ring) && (s.laneMoved old new).probe.ring != s.probe.ring)) := by
  have hn : s.probe.boundary.isNone = false := by
    cases h : s.probe.boundary <;> simp_all
  unfold State.laneMoved
  simp only [hn, Bool.false_eq_true, if_false, hu, if_true]
  by_cases hc : old = .up ∧ s.settings.node ≠ 0
  · simp only [hc, ne_eq, not_false_eq_true, and_self, if_true]
    refine ⟨?_, ?_, ?_⟩
    · rw [State.judgeRing_ringNow]; exact State.judgeRing_ring _ hb
    · intro _ _; rw [State.judgeRing_eq]; exact ⟨rfl, rfl⟩
    · intro f; exact State.judgeRing_flag _ f
  · simp only [hc, if_false]
    refine ⟨?_, ?_, ?_⟩
    · rw [State.judgeRing_ringNow]; exact State.judgeRing_ring _ hb
    · intro h1 h2; exact absurd ⟨h1, h2⟩ hc
    · intro f; exact State.judgeRing_flag _ f

/-- No flag is cleared. -/
theorem State.laneMoved_flag (s : State) (old new : PortState) (f : Flag) (h : s.flag f = true) :
    (s.laneMoved old new).flag f = true := by
  unfold State.laneMoved
  dsimp only
  split
  · exact h
  · generalize ht : (if old = .up ∧ s.settings.node ≠ 0 then s.modProbe ProbeUnit.distrust else s) = t
    have hf : t.flag f = true := by
      rw [← ht]
      split
      · exact h
      · exact h
    split
    · rw [State.judgeRing_flag, hf]; rfl
    · exact hf

theorem State.laneMoved_stopped (s : State) (old new : PortState) (h : s.probe.boundary = none) : s.laneMoved old new = s := by
  simp [State.laneMoved, h]

/-! ## A port takes another state (R115 to R118) -/

/-- The unit of a flushed port is the unit emptied; out of service a port is not flushed. -/
theorem State.flushIfInService_eq (s : State) (p : Port) :
    s.flushIfInService p = { s with
      ports := s.ports.set p (if (s.port p).state.inService then (s.port p).emptied else s.port p)
      pool := (s.flushIfInService p).pool, tallies := (s.flushIfInService p).tallies
      notices := (s.flushIfInService p).notices } := by
  unfold State.flushIfInService
  by_cases h : (s.port p).state.inService = true
  · have hs : s.inService p = true := h
    rw [hs, if_pos h, if_pos rfl]
    exact s.flush_eq p
  · have hs : s.inService p = false := by simpa [State.inService] using h
    rw [hs, if_neg h, if_neg Bool.false_ne_true]
    simp only [State.port, PortMap.set_get]

/-- The ports after a change of state: the one port as `PortUnit.after` says, every other as it was. -/
theorem State.enterState_ports (s : State) (p : Port) (new : PortState) :
    (s.enterState p new).ports = s.ports.set p ((s.port p).after new) := by
  have hm : ((s.flushIfInService p).modPort p (fun u => { u with state := new, underWay := u.underWay && new.inService })).ports =
      s.ports.set p ((s.port p).after new) := by
    rw [State.flushIfInService_eq]
    simp only [State.modPort, PortMap.get_set_same, PortMap.set_set]
    congr 1
    unfold PortUnit.after
    split <;> rfl
  unfold State.enterState
  dsimp only
  cases p with
  | lane l => dsimp only; rw [State.laneMoved_eq]; exact hm
  | bay q => exact hm

theorem State.enterState_port_same (s : State) (p : Port) (new : PortState) :
    (s.enterState p new).port p = (s.port p).after new := by
  simp [State.port, State.enterState_ports]

theorem State.enterState_port_other (s : State) {p q : Port} (new : PortState) (h : q ≠ p) :
    (s.enterState p new).port q = s.port q := by
  simp [State.port, State.enterState_ports, h]

/-- A change of a port's state reaches ports, pool, tallies, notices, flags and the probe unit alone. -/
theorem State.enterState_moves (s : State) (p : Port) (new : PortState) : s.onlyPortsMove (s.enterState p new) := by
  have h1 : s.onlyPortsMove (s.flushIfInService p) := by
    unfold State.onlyPortsMove
    rw [State.flushIfInService_eq]
  have h2 : (s.flushIfInService p).onlyPortsMove (((s.flushIfInService p).modPort p
      (fun u => { u with state := new, underWay := u.underWay && new.inService })).raise .port) := rfl
  unfold State.enterState
  dsimp only
  cases p with
  | lane l =>
    refine State.onlyPortsMove_trans (State.onlyPortsMove_trans h1 h2) ?_
    dsimp only
    unfold State.onlyPortsMove
    rw [State.laneMoved_eq]
  | bay q => exact State.onlyPortsMove_trans h1 h2

/-- Out of service there is no copy to flush: pool, tallies and notices stay. -/
theorem State.enterState_idle (s : State) (p : Port) (new : PortState) (h : (s.port p).state.inService = false) :
    (s.enterState p new).pool = s.pool ∧ (s.enterState p new).tallies = s.tallies ∧ (s.enterState p new).notices = s.notices := by
  unfold State.enterState State.flushIfInService State.inService
  simp only [h, Bool.false_eq_true, if_false]
  cases p with
  | lane l => dsimp only; rw [State.laneMoved_eq]; exact ⟨rfl, rfl, rfl⟩
  | bay q => exact ⟨rfl, rfl, rfl⟩

/-- In service the port's copies are flushed: they leave their frames and their handles' tallies (R118, R155). -/
theorem State.enterState_flushed (s : State) (p : Port) (new : PortState) (h : (s.port p).state.inService = true) :
    s.copiesLeave (s.enterState p new) (s.port p).descriptors := by
  have hs : s.inService p = true := h
  have hf := s.flush_copiesLeave p
  unfold State.enterState State.flushIfInService
  simp only [hs, if_true]
  cases p with
  | lane l => dsimp only; rw [State.laneMoved_eq]; exact hf
  | bay q => exact hf

/-- PORT is set and no flag is cleared. -/
theorem State.enterState_flag_port (s : State) (p : Port) (new : PortState) : (s.enterState p new).flag .port = true := by
  unfold State.enterState
  dsimp only
  cases p with
  | lane l =>
    exact State.laneMoved_flag _ _ _ _ (State.flag_raise_same _ _)
  | bay q => simp

/-- A bay port's change leaves the probe unit alone and sets PORT alone. -/
theorem State.enterState_bay (s : State) (q : BayPort) (new : PortState) :
    (s.enterState (.bay q) new).probe = s.probe ∧ (s.enterState (.bay q) new).flags = s.flags ||| Flag.port.mask := by
  unfold State.enterState
  dsimp only
  rw [State.flushIfInService_eq]
  exact ⟨rfl, rfl⟩

/-- A lane that neither enters nor leaves UP leaves the probe unit alone and sets PORT alone. -/
theorem State.enterState_away (s : State) (l : Lane) (new : PortState) (ho : (s.port (.lane l)).state ≠ .up) (hn : new ≠ .up) :
    (s.enterState (.lane l) new).probe = s.probe ∧ (s.enterState (.lane l) new).flags = s.flags ||| Flag.port.mask := by
  unfold State.enterState
  dsimp only
  rw [State.laneMoved_away _ _ _ ho hn, State.flushIfInService_eq]
  exact ⟨rfl, rfl⟩

/-- A lane that enters or leaves UP moves the probe unit as `ringFollows` says. -/
theorem State.enterState_ring (s : State) (l : Lane) (new : PortState) (hu : (s.port (.lane l)).state = .up ∨ new = .up) :
    s.ringFollows (s.enterState (.lane l) new) ((s.port (.lane l)).state == .up) := by
  intro hb
  have hv := State.onlyPortsMove_settings (s.enterState_moves (.lane l) new)
  unfold State.enterState at hv ⊢
  dsimp only at hv ⊢
  generalize ht : ((s.flushIfInService (.lane l)).modPort (.lane l)
      (fun u => { u with state := new, underWay := u.underWay && new.inService })).raise .port = t
  have hp : t.probe = s.probe := by rw [← ht, State.flushIfInService_eq]; rfl
  have hs : t.settings = s.settings := by rw [← ht, State.flushIfInService_eq]; rfl
  have hf : t.flag .ring = s.flag .ring := by
    rw [← ht, State.flag_raise, State.flushIfInService_eq]
    simp [State.flag]
  have hb' : t.probe.boundary.isSome = true := by rw [hp]; exact hb
  obtain ⟨h1, h2, h3⟩ := State.laneMoved_ring t (s.port (.lane l)).state new hb' hu
  refine ⟨h1, fun hl hn => h2 (eq_of_beq hl) (by rw [hs]; exact hn), ?_⟩
  rw [h3 .ring, hf, hp]
  simp

/-! ## A port is moved to a state (R115) -/

theorem State.movePort_same (s : State) (p : Port) (new : PortState) (h : (s.port p).state = new) : s.movePort p new = s := by
  simp [State.movePort, h]

theorem State.movePort_other (s : State) (p : Port) (new : PortState) (h : (s.port p).state ≠ new) :
    s.movePort p new = s.enterState p new := by
  simp [State.movePort, h]

theorem State.movePort_moves (s : State) (p : Port) (new : PortState) : s.onlyPortsMove (s.movePort p new) := by
  unfold State.movePort
  split
  · rfl
  · exact s.enterState_moves p new

end Sys2Proof.Machine
end

