-- ==== Sys2Proof/Laws/Balance.lean ====
section
/-! SUPPORT. The balance of copies, stored frames, cells and tallies (R145, R148, R154): what it says of any list of descriptors, and that
a copy that leaves, a flush, a change of a port's state, a transmitter's choice and an admission request keep it. -/

namespace Sys2Proof.Machine

/-! ## The balance for a list of descriptors -/

/-- The laws of pool and tallies, said of a list of descriptors in place of the state's own. -/
structure Balanced (s : State) (ds : List Descriptor) : Prop where
  cells : CellLaw s
  names : (s.pool.map StoredFrame.name).Nodup
  older : ∀ f ∈ s.pool, f.name < s.nextName
  copies : ∀ f ∈ s.pool, 0 < f.outstanding ∧ f.outstanding = ds.countP (fun d => d.frame == f.name)
  stored : ∀ d ∈ ds, ∃ f ∈ s.pool, f.name = d.frame
  canonical : Sparse.wf 0 s.tallies = true
  tallied : ∀ h, s.tally h = ds.countP (fun d => d.handle == some h)

/-- The three laws are the balance for the state's own descriptors. -/
theorem balanced_iff (s : State) : Balanced s s.descriptors ↔ CellLaw s ∧ PoolLaw s ∧ TallyLaw s := by
  constructor
  · rintro ⟨a, b, c, d, e, f, g⟩
    exact ⟨a, ⟨b, c, d, e⟩, f, g⟩
  · rintro ⟨a, ⟨b, c, d, e⟩, f, g⟩
    exact ⟨a, b, c, d, e, f, g⟩

/-- The order of the descriptors does not matter. -/
theorem Balanced.perm {s : State} {ds es : List Descriptor} (h : Balanced s ds) (hp : ds.Perm es) : Balanced s es where
  cells := h.cells
  names := h.names
  older := h.older
  copies := fun f hf => by rw [← hp.countP_eq]; exact h.copies f hf
  stored := fun d hd => h.stored d (hp.mem_iff.mpr hd)
  canonical := h.canonical
  tallied := fun k => by rw [h.tallied k, hp.countP_eq]

/-- Pool, names and tallies are all of a state that the balance reads. -/
theorem Balanced.congr {s t : State} {ds : List Descriptor} (h : Balanced s ds) (hp : t.pool = s.pool)
    (hn : t.nextName = s.nextName) (ht : t.tallies = s.tallies) : Balanced t ds where
  cells := by
    have := h.cells
    simp only [CellLaw, State.heldBy] at this ⊢
    rw [hp]
    exact this
  names := by rw [hp]; exact h.names
  older := by rw [hp, hn]; exact h.older
  copies := by rw [hp]; exact h.copies
  stored := by rw [hp]; exact h.stored
  canonical := by rw [ht]; exact h.canonical
  tallied := fun k => by
    have := h.tallied k
    simp only [State.tally] at this ⊢
    rw [ht]
    exact this

/-! ## The descriptors of the ports -/

/-- Over a list of different ports, descriptors added at one port are added to them all. -/
theorem flatMap_added (ps : List Port) (hn : ps.Nodup) (p : Port) (hp : p ∈ ps) (f g : Port → List Descriptor) (new : List Descriptor)
    (hother : ∀ q, q ≠ p → f q = g q) (hthis : (f p).Perm (new ++ g p)) : (ps.flatMap f).Perm (new ++ ps.flatMap g) := by
  induction ps with
  | nil => simp at hp
  | cons q ps ih =>
    simp only [List.nodup_cons] at hn
    simp only [List.flatMap_cons]
    rcases List.mem_cons.mp hp with rfl | hp
    · have : ps.flatMap f = ps.flatMap g := by
        rw [List.flatMap_def, List.flatMap_def]
        congr 1
        refine List.map_congr_left fun r hr => hother r ?_
        rintro rfl
        exact hn.1 hr
      rw [this, ← List.append_assoc]
      exact hthis.append_right _
    · have hq : q ≠ p := by rintro rfl; exact hn.1 hp
      rw [hother q hq]
      refine ((ih hn.2 hp).append_left (g q)).trans ?_
      rw [← List.append_assoc, ← List.append_assoc]
      exact List.perm_append_comm.append_right _

/-- Descriptors added at one port, in any order, are added to the part's. -/
theorem State.descriptors_added {s t : State} (p : Port) (new : List Descriptor)
    (hother : ∀ q, q ≠ p → (t.port q).descriptors = (s.port q).descriptors)
    (hthis : (t.port p).descriptors.Perm (new ++ (s.port p).descriptors)) : t.descriptors.Perm (new ++ s.descriptors) :=
  flatMap_added allPorts (by decide) p (by rcases p with ⟨⟨⟩⟩ | ⟨⟨⟩⟩ <;> decide) _ _ new hother hthis

/-- Ports with the same descriptors make a part with the same descriptors. -/
theorem State.descriptors_congr {s t : State} (h : ∀ p, (t.port p).descriptors.Perm (s.port p).descriptors) :
    t.descriptors.Perm s.descriptors := by
  unfold State.descriptors
  have : ∀ ps : List Port, (ps.flatMap fun p => (t.port p).descriptors).Perm (ps.flatMap fun p => (s.port p).descriptors) := by
    intro ps
    induction ps with
    | nil => exact List.Perm.refl _
    | cons p ps ih => simp only [List.flatMap_cons]; exact (h p).append ih
  exact this allPorts

/-! ## A copy leaves (R145, R154) -/

theorem heldCells_release (which : DataClass → Bool) (pool : List StoredFrame) (name : Nat) :
    heldCells ((releaseFrame pool name).filter (fun f => which f.cls)) ≤ heldCells (pool.filter (fun f => which f.cls)) := by
  induction pool with
  | nil => exact Nat.le_refl _
  | cons f fs ih =>
    simp only [releaseFrame, heldCells, List.map_cons, List.filter_cons] at ih ⊢
    generalize hf' : (if f.name = name then { f with outstanding := f.outstanding - 1 } else f) = f'
    have hc : f'.cls = f.cls ∧ f'.cells = f.cells := by
      rw [← hf']; split <;> exact ⟨rfl, rfl⟩
    by_cases ho : (f'.outstanding != 0) = true
    · simp only [ho, if_true, List.filter_cons, hc.1]
      by_cases hw : which f.cls = true
      · simp only [hw, if_true, List.map_cons, List.sum_cons, hc.2]
        exact Nat.add_le_add_left ih _
      · simp only [hw]
        exact ih
    · simp only [ho]
      by_cases hw : which f.cls = true
      · simp only [hw, if_true, List.map_cons, List.sum_cons]
        exact Nat.le_trans ih (Nat.le_add_left _ _)
      · simp only [hw]
        exact ih

/-- A copy that leaves takes its descriptor out of the balance. -/
theorem Balanced.release {s : State} {d : Descriptor} {ds : List Descriptor} (h : Balanced s (d :: ds)) :
    Balanced (s.releaseCopy d) ds := by
  have hpool : (s.releaseCopy d).pool = releaseFrame s.pool d.frame := by rw [State.releaseCopy_eq]
  have hname : (s.releaseCopy d).nextName = s.nextName := by rw [State.releaseCopy_eq]
  have hkey : ∀ f : StoredFrame, (if f.name = d.frame then { f with outstanding := f.outstanding - 1 } else f).name = f.name := by
    intro f; split <;> rfl
  have hcount : ∀ n, (d :: ds).countP (fun e => e.frame == n) = ds.countP (fun e => e.frame == n) + if d.frame = n then 1 else 0 := by
    intro n; rw [List.countP_cons]; simp
  refine ⟨?_, ?_, ?_, ?_, ?_, ?_, ?_⟩
  · obtain ⟨h1, h2, h3⟩ := h.cells
    have hfull : ∀ fs : List StoredFrame, fs.filter (fun _ => true) = fs := fun fs => List.filter_eq_self.mpr (fun _ _ => rfl)
    have hall := heldCells_release (fun _ => true) s.pool d.frame
    rw [hfull, hfull] at hall
    refine ⟨?_, ?_, ?_⟩
    · rw [hpool]; exact Nat.le_trans hall h1
    · simp only [State.heldBy, hpool]; exact Nat.le_trans (heldCells_release (fun c => c != .trip) _ _) h2
    · simp only [State.heldBy, hpool]; exact Nat.le_trans (heldCells_release (fun c => c == .status) _ _) h3
  · rw [hpool]
    have : ((s.pool.map (fun f => if f.name = d.frame then { f with outstanding := f.outstanding - 1 } else f)).map
        StoredFrame.name) = s.pool.map StoredFrame.name := by
      rw [List.map_map]; exact List.map_congr_left fun f _ => hkey f
    refine List.Nodup.sublist (List.filter_sublist.map _) ?_
    rw [this]
    exact h.names
  · intro f hf
    rw [hpool, mem_releaseFrame] at hf
    obtain ⟨-, g, hg, rfl⟩ := hf
    rw [hname, hkey]
    exact h.older g hg
  · intro f hf
    rw [hpool, mem_releaseFrame] at hf
    obtain ⟨h0, g, hg, rfl⟩ := hf
    refine ⟨Nat.pos_of_ne_zero h0, ?_⟩
    rw [hkey]
    have hc := (h.copies g hg).2
    rw [hcount] at hc
    by_cases hn : g.name = d.frame
    · simp only [hn, if_true] at hc ⊢
      omega
    · simp only [hn, if_false, Ne.symm hn] at hc ⊢
      omega
  · intro e he
    obtain ⟨g, hg, hge⟩ := h.stored e (List.mem_cons_of_mem _ he)
    refine ⟨if g.name = d.frame then { g with outstanding := g.outstanding - 1 } else g, ?_, (hkey g).trans hge⟩
    rw [hpool, mem_releaseFrame]
    refine ⟨?_, g, hg, rfl⟩
    have hc := h.copies g hg
    rw [hcount] at hc
    have hpos : 0 < ds.countP (fun x => x.frame == g.name) := List.countP_pos_iff.mpr ⟨e, he, by simp [hge]⟩
    split
    · rename_i hn
      rw [if_pos hn.symm] at hc
      show g.outstanding - 1 ≠ 0
      omega
    · omega
  · have hwf : Sparse.wf 0 (s.releaseCopy d).tallies = true := by
      unfold State.releaseCopy
      cases d.handle with
      | none => exact h.canonical
      | some k =>
        have ht : ∀ t : State, (t.tallyDown k).tallies = Sparse.put 0 t.tallies k (t.tally k - 1) := by
          intro t
          unfold State.tallyDown
          dsimp only
          split
          · rw [State.sendNotice_eq]; rfl
          · rfl
        dsimp only
        rw [ht]
        exact Sparse.wf_put 0 _ _ _ h.canonical
    exact hwf
  · intro k
    rw [State.releaseCopy_tally, h.tallied k, List.countP_cons]
    by_cases hk : d.handle = some k
    · simp [hk]
    · simp [hk]

/-- Copies that leave one after another take their descriptors out of the balance. -/
theorem Balanced.releaseAll (ds rest : List Descriptor) {s : State} (h : Balanced s (ds ++ rest)) :
    Balanced (ds.foldl State.releaseCopy s) rest := by
  induction ds generalizing s with
  | nil => exact h
  | cons d ds ih => exact ih (Balanced.release h)

/-- A flush keeps the balance (R155). -/
theorem Balanced.flush {s : State} (p : Port) (h : Balanced s s.descriptors) : Balanced (s.flush p) (s.flush p).descriptors := by
  have hport : ∀ q, ((s.flush p).port q).descriptors = if q = p then [] else (s.port q).descriptors := by
    intro q
    simp only [State.port, State.flush_ports, PortMap.get_set]
    split
    · rfl
    · rfl
  have hadd : s.descriptors.Perm ((s.port p).descriptors ++ (s.flush p).descriptors) := by
    refine State.descriptors_added p _ (fun q hq => ?_) ?_
    · rw [hport q, if_neg hq]
    · rw [hport p, if_pos rfl, List.append_nil]
  have h1 : Balanced (s.modPort p (fun u => { u with
      trip := [], sample := [], status := [], sending := none, quota := 0
      counters := u.counters.addFlushed (s.port p).descriptors.length })) ((s.port p).descriptors ++ (s.flush p).descriptors) :=
    (h.perm hadd).congr rfl rfl rfl
  exact Balanced.releaseAll _ _ h1

/-- A port's change of state keeps the balance. -/
theorem Balanced.enterState {s : State} (p : Port) (new : PortState) (h : Balanced s s.descriptors) :
    Balanced (s.enterState p new) (s.enterState p new).descriptors := by
  generalize hf : s.flushIfInService p = f
  have h1 : Balanced f f.descriptors := by
    rw [← hf]
    unfold State.flushIfInService
    split
    · exact h.flush p
    · exact h
  have hpool : (s.enterState p new).pool = f.pool ∧ (s.enterState p new).nextName = f.nextName
      ∧ (s.enterState p new).tallies = f.tallies ∧ (s.enterState p new).ports =
        f.ports.set p { f.port p with state := new, underWay := (f.port p).underWay && new.inService } := by
    unfold State.enterState
    rw [hf]
    dsimp only
    cases p with
    | lane l => dsimp only; rw [State.laneMoved_eq]; exact ⟨rfl, rfl, rfl, rfl⟩
    | bay q => exact ⟨rfl, rfl, rfl, rfl⟩
  have hd : f.descriptors.Perm (s.enterState p new).descriptors := by
    refine State.descriptors_congr fun q => ?_
    simp only [State.port, hpool.2.2.2, PortMap.get_set]
    split
    · rename_i hq; subst hq; exact List.Perm.refl _
    · exact List.Perm.refl _
  exact (h1.perm hd).congr hpool.1 hpool.2.1 hpool.2.2.1

theorem Balanced.movePort {s : State} (p : Port) (new : PortState) (h : Balanced s s.descriptors) :
    Balanced (s.movePort p new) (s.movePort p new).descriptors := by
  unfold State.movePort
  split
  · exact h
  · exact h.enterState p new

/-- A change of one port's unit that keeps its descriptors keeps the balance. -/
theorem Balanced.modPort {s : State} (p : Port) (g : PortUnit → PortUnit) (hg : ∀ u, (g u).descriptors.Perm u.descriptors)
    (h : Balanced s s.descriptors) : Balanced (s.modPort p g) (s.modPort p g).descriptors := by
  have hd : s.descriptors.Perm (s.modPort p g).descriptors := by
    refine State.descriptors_congr fun q => ?_
    rw [State.port_modPort]
    split
    · rename_i hq; subst hq; exact (hg _).symm
    · exact List.Perm.refl _
  exact (h.perm hd).congr rfl rfl rfl

theorem Balanced.serve {s : State} (p : Port) (h : Balanced s s.descriptors) : Balanced (s.serve p) (s.serve p).descriptors :=
  h.modPort p _ (fun u => u.choose_perm _)

theorem Balanced.serveAll (cs : List Copy) {s : State} (h : Balanced s s.descriptors) :
    Balanced (s.serveAll cs) (s.serveAll cs).descriptors := by
  induction cs generalizing s with
  | nil => exact h
  | cons c cs ih => exact ih (h.serve c.port)

/-- A transmission's end keeps the balance (R152). -/
theorem Balanced.endTransmission {s : State} (p : Port) (d : Descriptor) (hs : (s.port p).sending = some d)
    (h : Balanced s s.descriptors) : Balanced (s.endTransmission p d) (s.endTransmission p d).descriptors := by
  unfold State.endTransmission
  dsimp only
  refine Balanced.serve p ?_
  generalize hm : s.modPort p (fun u =>
    { u with
      sending := none, lastOut := s.wireBytes d, counters := { u.counters with framesOut := bump u.counters.framesOut } }) = m
  have hadd : s.descriptors.Perm ([d] ++ m.descriptors) := by
    refine State.descriptors_added p [d] (fun q hq => ?_) ?_
    · rw [← hm, State.port_modPort, if_neg hq]
    · rw [← hm, State.port_modPort, if_pos rfl]
      simp only [PortUnit.descriptors, hs, Option.toList, List.append_nil]
      exact List.perm_append_comm
  have h1 : Balanced m (d :: m.descriptors) := (h.perm hadd).congr (by rw [← hm]; rfl) (by rw [← hm]; rfl) (by rw [← hm]; rfl)
  have h2 := h1.release
  have hd : m.descriptors = (m.releaseCopy d).descriptors := by
    simp only [State.descriptors, State.releaseCopy_port]
  rw [hd] at h2
  exact h2

/-! ## An admission request (R148, R149, R154) -/

/-- The descriptor a copy becomes when it is enqueued. -/
def Copy.descriptor (c : Copy) (name : Nat) : Descriptor := ⟨name, c.form, c.handle⟩

/-- An offer adds the copy's descriptor when it is enqueued, and none otherwise. -/
theorem State.offer_descriptors (s : State) (name : Nat) (cls : DataClass) (c : Copy) :
    (s.offer name cls c).descriptors.Perm ((if s.fateOf cls c = .enqueued then [c.descriptor name] else []) ++ s.descriptors) := by
  refine State.descriptors_added c.port _ (fun q hq => ?_) ?_
  · rw [State.offer_port, if_neg hq]
  · rw [State.offer_port, if_pos rfl]
    cases hf : s.fateOf cls c
    · exact List.Perm.refl _
    · exact List.Perm.refl _
    · simp only [if_true]
      rw [List.singleton_append]
      cases cls <;> simp only [PortUnit.offered, PortUnit.setQueue, PortUnit.queue, PortUnit.descriptors, List.append_assoc]
      · exact List.perm_middle
      · exact (List.perm_middle.append_left _).trans (by rw [← List.append_assoc, ← List.append_assoc]; exact List.perm_middle.trans (by simp [Copy.descriptor]))
      · rw [← List.append_assoc, ← List.append_assoc]
        refine List.perm_middle.trans ?_
        simp [Copy.descriptor, List.append_assoc]

theorem State.offer_wf (s : State) (name : Nat) (cls : DataClass) (c : Copy) (h : Sparse.wf 0 s.tallies = true) :
    Sparse.wf 0 (s.offer name cls c).tallies = true := by
  unfold State.offer
  split
  · exact h
  · exact h
  · cases c.handle with
    | none => exact h
    | some k => exact Sparse.wf_put 0 s.tallies k (s.tally k + 1) h

/-- The descriptors that the enqueued copies of a request become. -/
def enqueuedDescriptors (name : Nat) (cs : List Copy) (fates : List Fate) : List Descriptor :=
  ((cs.zip fates).filter (fun e => e.2 == .enqueued)).map (fun e => e.1.descriptor name)

theorem State.offerAll_descriptors (name : Nat) (cls : DataClass) (cs : List Copy) (s : State) :
    (s.offerAll name cls cs).1.descriptors.Perm
      (enqueuedDescriptors name cs (s.offerAll name cls cs).2 ++ s.descriptors) := by
  induction cs generalizing s with
  | nil => exact List.Perm.refl _
  | cons c cs ih =>
    simp only [State.offerAll]
    refine (ih (s.offer name cls c)).trans ?_
    refine ((State.offer_descriptors s name cls c).append_left _).trans ?_
    simp only [enqueuedDescriptors, List.zip_cons_cons, List.filter_cons]
    cases hf : s.fateOf cls c
    · exact List.Perm.refl _
    · exact List.Perm.refl _
    · exact List.perm_middle

/-- Offers keep the tallies canonical and count each enqueued copy under its handle. -/
theorem State.offerAll_tallies (name : Nat) (cls : DataClass) (cs : List Copy) (s : State) (hw : Sparse.wf 0 s.tallies = true) :
    Sparse.wf 0 (s.offerAll name cls cs).1.tallies = true
      ∧ ∀ h, (s.offerAll name cls cs).1.tally h =
          (enqueuedDescriptors name cs (s.offerAll name cls cs).2).countP (fun d => d.handle == some h) + s.tally h := by
  induction cs generalizing s with
  | nil => exact ⟨hw, fun h => by simp [State.offerAll, enqueuedDescriptors]⟩
  | cons c cs ih =>
    obtain ⟨i1, i2⟩ := ih (s.offer name cls c) (s.offer_wf name cls c hw)
    simp only [State.offerAll]
    refine ⟨i1, fun h => ?_⟩
    rw [i2 h, State.offer_tally]
    simp only [enqueuedDescriptors, List.zip_cons_cons, List.filter_cons]
    cases hf : s.fateOf cls c
    · simp
    · simp
    · simp only [beq_self_eq_true, if_true, List.map_cons, List.countP_cons, Copy.descriptor, true_and, beq_iff_eq]
      omega

theorem enqueuedDescriptors_length (name : Nat) (cs : List Copy) (fates : List Fate) (h : fates.length = cs.length) :
    (enqueuedDescriptors name cs fates).length = enqueuedCount fates := by
  induction cs generalizing fates with
  | nil => simp only [List.length_nil] at h; rw [List.length_eq_zero_iff.mp h]; rfl
  | cons c cs ih =>
    cases fates with
    | nil => simp at h
    | cons f fs =>
      simp only [List.length_cons, Nat.add_right_cancel_iff] at h
      have := ih fs h
      simp only [enqueuedDescriptors, enqueuedCount, List.zip_cons_cons, List.filter_cons, List.count_cons] at this ⊢
      cases f <;> simp_all

theorem State.offerAll_length (name : Nat) (cls : DataClass) (cs : List Copy) (s : State) :
    (s.offerAll name cls cs).2.length = cs.length := by
  induction cs generalizing s with
  | nil => rfl
  | cons c cs ih => simp only [State.offerAll, List.length_cons, ih]

/-- What admission leaves free and what is held: with the reserve of its class free, every bound of R148 holds of the pool with the
frame in it. -/
theorem CellLaw_stored {s : State} (h : CellLaw s) (frame : List Byte) (cls : DataClass) (name n : Nat)
    (ha : admissible cls (cellsFor frame.length) s.freeCells = true) :
    ∀ t : State, t.pool = s.pool ++ [⟨name, frame, cls, n⟩] → CellLaw t := by
  intro t ht
  obtain ⟨h1, h2, h3⟩ := h
  have ha : cellsFor frame.length + reserveOf cls ≤ 384 - heldCells s.pool := of_decide_eq_true ha
  have hfilter : ∀ which : StoredFrame → Bool, heldCells (s.pool.filter which) ≤ heldCells s.pool := by
    intro which
    unfold heldCells
    induction s.pool with
    | nil => exact Nat.le_refl _
    | cons f fs ih =>
      simp only [List.filter_cons]
      split
      · simp only [List.map_cons, List.sum_cons]; omega
      · simp only [List.map_cons, List.sum_cons]; omega
  have happ : ∀ which : StoredFrame → Bool, heldCells ((s.pool ++ [(⟨name, frame, cls, n⟩ : StoredFrame)]).filter which) =
      heldCells (s.pool.filter which) + if which ⟨name, frame, cls, n⟩ then cellsFor frame.length else 0 := by
    intro which
    simp only [List.filter_append, heldCells, List.map_append, List.sum_append, List.filter_cons, List.filter_nil]
    cases which { name := name, bytes := frame, cls := cls, outstanding := n } <;> simp [StoredFrame.cells]
  have hsum : heldCells (s.pool ++ [(⟨name, frame, cls, n⟩ : StoredFrame)]) = heldCells s.pool + cellsFor frame.length := by
    simp [heldCells, StoredFrame.cells]
  have f2 := hfilter (fun f => f.cls != DataClass.trip)
  have f3 := hfilter (fun f => f.cls == DataClass.status)
  simp only [State.heldBy] at h2 h3
  refine ⟨?_, ?_, ?_⟩
  · rw [ht, hsum]; cases cls <;> simp only [reserveOf] at ha <;> omega
  · simp only [State.heldBy, ht, happ]
    cases cls <;> simp only [reserveOf] at ha <;> simp <;> omega
  · simp only [State.heldBy, ht, happ]
    cases cls <;> simp only [reserveOf] at ha <;> simp <;> omega

/-- Storing a frame keeps the balance. -/
theorem Balanced.storeFrame {s : State} (frame : List Byte) (cls : DataClass) (cs : List Copy)
    (ha : admissible cls (cellsFor frame.length) s.freeCells = true) (h : Balanced s s.descriptors) :
    Balanced (s.storeFrame frame cls cs).1 (s.storeFrame frame cls cs).1.descriptors := by
  unfold State.storeFrame
  dsimp only
  refine Balanced.serveAll cs ?_
  have hperm := State.offerAll_descriptors s.nextName cls cs s
  obtain ⟨hwf, htally⟩ := State.offerAll_tallies s.nextName cls cs s h.canonical
  have hlen := enqueuedDescriptors_length s.nextName cs (s.offerAll s.nextName cls cs).2 (State.offerAll_length _ _ _ _)
  have heq := State.offerAll_eq s.nextName cls cs s
  generalize hp : s.offerAll s.nextName cls cs = placed at *
  generalize hnew : enqueuedDescriptors s.nextName cs placed.2 = new at *
  have hpool : placed.1.pool = s.pool := by rw [heq]
  have hname : placed.1.nextName = s.nextName := by rw [heq]
  have hnews : ∀ d ∈ new, d.frame = s.nextName := by
    intro d hd
    rw [← hnew, enqueuedDescriptors] at hd
    obtain ⟨e, -, rfl⟩ := List.mem_map.mp hd
    rfl
  have hcount : ∀ n, n < s.nextName → new.countP (fun d => d.frame == n) = 0 := by
    intro n hn
    rw [List.countP_eq_zero]
    intro d hd
    rw [hnews d hd]
    simp only [beq_iff_eq]
    omega
  have hcountNew : new.countP (fun d => d.frame == s.nextName) = new.length := by
    rw [List.countP_eq_length]
    intro d hd
    rw [hnews d hd]
    simp
  have holdNew : s.descriptors.countP (fun d => d.frame == s.nextName) = 0 := by
    rw [List.countP_eq_zero]
    intro d hd
    obtain ⟨f, hf, hfd⟩ := h.stored d hd
    have := h.older f hf
    simp only [beq_iff_eq]
    omega
  split
  · rename_i hz
    have hnil : new = [] := List.length_eq_zero_iff.mp (hlen.trans hz)
    rw [hnil, List.nil_append] at hperm
    have hb : Balanced s placed.1.descriptors := h.perm hperm.symm
    refine ⟨?_, by rw [hpool]; exact hb.names, by rw [hpool, hname]; exact hb.older, by rw [hpool]; exact hb.copies,
      by rw [hpool]; exact hb.stored, hwf, fun k => ?_⟩
    · have := hb.cells
      simp only [CellLaw, State.heldBy] at this ⊢
      rw [hpool]
      exact this
    · rw [htally k, hnil, ← hb.tallied k]; simp
  · rename_i hz
    have hpos : 0 < new.length := by rw [hlen]; exact Nat.pos_of_ne_zero hz
    refine Balanced.perm ?_ hperm.symm
    refine ⟨?_, ?_, ?_, ?_, ?_, hwf, ?_⟩
    · exact CellLaw_stored h.cells frame cls s.nextName _ ha _ (by show placed.1.pool ++ _ = _; rw [hpool])
    · show ((placed.1.pool ++ [_]).map StoredFrame.name).Nodup
      rw [hpool, List.map_append, List.nodup_append]
      refine ⟨h.names, by simp, ?_⟩
      intro a ha b hb
      simp only [List.map_cons, List.map_nil, List.mem_singleton] at hb
      obtain ⟨f, hf, rfl⟩ := List.mem_map.mp ha
      have := h.older f hf
      omega
    · show ∀ f ∈ placed.1.pool ++ [_], f.name < s.nextName + 1
      rw [hpool]
      intro f hf
      rcases List.mem_append.mp hf with hf | hf
      · have := h.older f hf; omega
      · simp only [List.mem_singleton] at hf; rw [hf]; exact Nat.lt_succ_self _
    · show ∀ f ∈ placed.1.pool ++ [_], _
      rw [hpool]
      intro f hf
      rcases List.mem_append.mp hf with hf | hf
      · have hc := h.copies f hf
        refine ⟨hc.1, ?_⟩
        rw [List.countP_append, hcount f.name (h.older f hf), Nat.zero_add]
        exact hc.2
      · simp only [List.mem_singleton] at hf
        rw [hf]
        refine ⟨Nat.pos_of_ne_zero hz, ?_⟩
        show enqueuedCount placed.2 = _
        rw [List.countP_append, hcountNew, holdNew, Nat.add_zero, hlen]
    · intro d hd
      show ∃ f ∈ placed.1.pool ++ [_], f.name = d.frame
      rw [hpool]
      rcases List.mem_append.mp hd with hd | hd
      · exact ⟨_, List.mem_append_right _ (List.mem_singleton_self _), (hnews d hd).symm⟩
      · obtain ⟨f, hf, hfd⟩ := h.stored d hd
        exact ⟨f, List.mem_append_left _ hf, hfd⟩
    · intro k
      show placed.1.tally k = _
      rw [htally k, List.countP_append, h.tallied k]

/-- Counting a refusal keeps the balance. -/
theorem Balanced.refuseFrame (blame : List Port) {s : State} (h : Balanced s s.descriptors) :
    Balanced (s.refuseFrame blame) (s.refuseFrame blame).descriptors := by
  unfold State.refuseFrame
  suffices ∀ t : State, Balanced t t.descriptors →
      Balanced (blame.foldl (fun t p => t.count p (fun k => { k with poolRefusals := bump k.poolRefusals })) t)
        (blame.foldl (fun t p => t.count p (fun k => { k with poolRefusals := bump k.poolRefusals })) t).descriptors from
    this _ (h.congr rfl rfl rfl)
  induction blame with
  | nil => exact fun t h => h
  | cons p ps ih => exact fun t h => ih _ (h.modPort p _ (fun u => List.Perm.refl _))

/-- An admission request keeps the balance. -/
theorem Balanced.requestAdmission {s : State} (frame : List Byte) (cls : DataClass) (cs : List Copy) (blame : List Port)
    (h : Balanced s s.descriptors) :
    Balanced (s.requestAdmission frame cls cs blame).1 (s.requestAdmission frame cls cs blame).1.descriptors := by
  unfold State.requestAdmission
  split
  · exact h
  · split
    · rename_i ha
      exact h.storeFrame frame cls cs ha
    · exact h.refuseFrame blame

end Sys2Proof.Machine
end

