-- ==== Sys2Proof/Laws/Command.lean ====
section
/-! SUPPORT. How a command frame is judged (R156 to R161), said once: an immediate command, a timed command at its claim, a timed
operation at its grant. -/

namespace Sys2Proof.Machine

/-! ## Immediate commands (R159, R160) -/

/-- A whole frame on a ready part is answered with the command's own result and data. -/
theorem State.immediate_whole {α : Type} (s : State) (x : α) (argBytes : Nat) (act : α → State × Result × List Byte)
    (hr : s.ready = true) :
    s.immediate (.whole x) argBytes act = s.replied (act x).1 argBytes (act x).2.1 (act x).2.2 := by
  simp only [State.immediate, hr, if_true]; rfl

/-- A frame cut short on a ready part posts BAD_VALUE and does nothing else. -/
theorem State.immediate_cut {α : Type} (s : State) (argBytes : Nat) (act : α → State × Result × List Byte) (hr : s.ready = true) :
    s.immediate .cut argBytes act = { s with spiOut := [s.statusByte], lastResult := .badValue } := by
  simp only [State.immediate, hr, if_true]; rfl

/-- While the load runs a frame, whole or cut, posts NOT_READY and does nothing else. -/
theorem State.immediate_notReady {α : Type} (s : State) (arg : FrameArg α) (argBytes : Nat) (act : α → State × Result × List Byte)
    (hr : s.ready = false) :
    s.immediate arg argBytes act = { s with spiOut := [s.statusByte], lastResult := .notReady } := by
  simp only [State.immediate, hr, Bool.false_eq_true, if_false]; rfl

/-! ## Timed commands at their claim (R161) -/

theorem State.claimTimed_free (s : State) (kind : TimedKind) (h : Word) (copy : List Byte) (hr : s.ready = true)
    (hf : s.inFlight = none) :
    s.claimTimed kind (.whole h) copy = { s with
      spiOut := [s.statusByte], inFlight := some ⟨kind, h, copy⟩, inHand := s.inHand.or s.lowTurn } := by
  simp [State.claimTimed, hr, State.isBusy, hf]

theorem State.claimTimed_busy (s : State) (kind : TimedKind) (h : Word) (copy : List Byte) (hr : s.ready = true)
    (hf : s.inFlight ≠ none) :
    s.claimTimed kind (.whole h) copy = { s with spiOut := [s.statusByte], lastResult := .busy } := by
  have : s.inFlight.isSome = true := Option.isSome_iff_ne_none.mpr hf
  simp [State.claimTimed, hr, State.isBusy, this, State.post]

theorem State.claimTimed_cut (s : State) (kind : TimedKind) (copy : List Byte) (hr : s.ready = true) :
    s.claimTimed kind .cut copy = { s with spiOut := [s.statusByte], lastResult := .badValue } := by
  simp only [State.claimTimed, hr, if_true]; rfl

theorem State.claimTimed_notReady (s : State) (kind : TimedKind) (arg : FrameArg Word) (copy : List Byte) (hr : s.ready = false) :
    s.claimTimed kind arg copy = { s with spiOut := [s.statusByte], lastResult := .notReady } := by
  simp only [State.claimTimed, hr, Bool.false_eq_true, if_false]; rfl

/-! ## Timed operations at their grant (R96) -/

/-- At its turn the operation acts and its result ends it. -/
theorem State.grantTimed_turn (s : State) (kind : TimedKind) (h : Nat) (copy : List Byte)
    (op : State → Nat → List Byte → State × Result) (ht : s.timedTurn kind h copy) :
    s.grantTimed kind op = (op s h copy).1.ended (op s h copy).2 := by
  obtain ⟨hturn, o, ho, hk, hh, hc⟩ := ht
  simp only [State.grantTimed, ho, hturn, hk, and_self, if_true, hh, hc]
  rfl

/-- Out of its turn it does nothing. -/
theorem State.grantTimed_idle (s : State) (kind : TimedKind) (op : State → Nat → List Byte → State × Result)
    (ht : s.turn ≠ .timed) : s.grantTimed kind op = s := by
  unfold State.grantTimed
  split
  · simp [ht]
  · rfl

/-! ## PORT COMMAND (R116) -/

theorem State.portCommand_known (s : State) (n : Byte) (p : Port) (action : State → Port → State × Result)
    (hp : portOfNumber n = some p) : s.portCommand n action = action s p := by
  simp [State.portCommand, hp]

theorem State.portCommand_unknown (s : State) (n : Byte) (action : State → Port → State × Result) (hp : portOfNumber n = none) :
    s.portCommand n action = (s, .badValue) := by
  simp [State.portCommand, hp]

/-- A port number names a port exactly when it is 5 or below (R114). -/
theorem portOfNumber_none (n : Byte) : portOfNumber n = none ↔ 5 < n.toNat := by
  revert n
  decide +kernel

end Sys2Proof.Machine
end

