-- ==== Sys2Proof/Laws/Frame.lean ====
section
/-! SUPPORT. Times, frames and their bytes: what the comparisons of times say (R83), and what is read back of a frame that was put
together (R3, R178). -/

namespace Sys2Proof.Machine

/-! ## Times (R83) -/

theorem hasPassed_iff (t u : Time) : hasPassed t u = true ↔ 1 ≤ (t - u).toNat ∧ (t - u).toNat ≤ 0x7FFFFFFF := by
  rw [hasPassed, Bool.and_eq_true, decide_eq_true_eq, decide_eq_true_eq]
  exact Iff.rfl

theorem hasReached_iff (t u : Time) : hasReached t u = true ↔ (t - u).toNat ≤ 0x7FFFFFFF := by
  rw [hasReached, decide_eq_true_eq]

theorem wildDistance_iff (d : Nat) : wildDistance d = true ↔ 1025 ≤ d ∧ d ≤ 65472 := by
  rw [wildDistance, Bool.and_eq_true, decide_eq_true_eq, decide_eq_true_eq]

theorem Record.marked_iff (r : Record) (seq : Word) :
    r.marked seq = true ↔ (r.highest - seq).toNat < 64 ∧ r.seen.getLsbD (r.highest - seq).toNat = true := by
  rw [Record.marked, Bool.and_eq_true, decide_eq_true_eq]
  exact Iff.rfl

theorem admissible_iff (cls : DataClass) (need free : Nat) : admissible cls need free = true ↔ need + reserveOf cls ≤ free := by
  rw [admissible, decide_eq_true_eq]

theorem probeAccepted_iff (limit : Byte) (hops : BitVec 6) :
    probeAccepted limit hops = true ↔ 1 ≤ limit.toNat ∧ limit.toNat ≤ 63 ∧ hops.toNat ≤ limit.toNat := by
  rw [probeAccepted, Bool.and_eq_true, Bool.and_eq_true, decide_eq_true_eq, decide_eq_true_eq, decide_eq_true_eq, and_assoc]

/-! ## Words of bytes (R178) -/

/-- The two bytes of a word make the word. -/
theorem wordOf_bytes (w : Word) : wordOf (w.extractLsb' 8 8) (w.extractLsb' 0 8) = w := by
  apply BitVec.eq_of_getLsbD_eq
  intro i hi
  simp only [wordOf, BitVec.getLsbD_append, BitVec.getLsbD_extractLsb']
  split
  · rename_i h
    simp [h]
  · rename_i h
    have h1 : i - 8 < 8 := by omega
    have h2 : 8 + (i - 8) = i := by omega
    simp [h1, h2]

/-! ## The FCS and the tag (R3, 12.2) -/

theorem fcsBytes_length (contents : List Byte) : (fcsBytes contents).length = 4 := rfl

theorem withFcs_length (contents : List Byte) : (withFcs contents).length = contents.length + 4 := by
  rw [withFcs, List.length_append, fcsBytes_length]

/-- The contents of a frame put together with its FCS are the contents it was made from. -/
theorem contentsOf_withFcs (contents : List Byte) : contentsOf (withFcs contents) = contents := by
  rw [contentsOf, withFcs_length, Nat.add_sub_cancel, withFcs, List.take_left']
  rfl

/-- A frame put together with its FCS has a matching FCS. -/
theorem fcsMatches_withFcs (contents : List Byte) : fcsMatches (withFcs contents) = true := by
  have hd : (withFcs contents).drop ((withFcs contents).length - 4) = fcsBytes contents := by
    rw [withFcs_length, Nat.add_sub_cancel, withFcs, List.drop_left']
    rfl
  rw [fcsMatches, contentsOf_withFcs, hd, withFcs_length]
  simp

/-- The seven covered bytes, their length. -/
theorem Tag.covered_length (t : Tag) : t.covered.length = 7 := rfl

theorem TagClass.ofCode_code (c : TagClass) : TagClass.ofCode c.code = c := by cases c <;> decide

/-- The bytes of a tag's seven covered bytes, where they stand in a frame. -/
theorem byteAt_covered (t : Tag) (before after : List Byte) (h : before.length = 14) (i : Nat) (hi : i < 7) :
    byteAt (before ++ t.covered ++ after) (14 + i) = t.covered.getD i 0 := by
  simp only [byteAt, List.getD_eq_getElem?_getD, List.append_assoc]
  rw [List.getElem?_append_right (by omega), h, Nat.add_sub_cancel_left, List.getElem?_append_left (by rw [Tag.covered_length]; exact hi)]

/-- A frame the part makes itself has 64 bytes (R126, R134). -/
theorem makeFrame_length (dest : List Byte) (node : Byte) (typeWord : Word) (tag : Tag) (payload : List Byte)
    (hd : dest.length = 6) (hp : payload.length ≤ 38) : (makeFrame dest node typeWord tag payload).length = 64 := by
  have hw : (wordBytes typeWord).length = 2 := rfl
  simp only [makeFrame, withFcs_length, Tag.bytes, List.length_append, List.length_replicate, Tag.covered_length, hd, hw,
    List.length_cons, List.length_nil]
  omega

theorem Settings.probeGroup_length (v : Settings) : v.probeGroup.length = 6 := rfl

end Sys2Proof.Machine
end

