-- ==== Sys2Proof/Laws/Window.lean ====
section
/-! SUPPORT. What the stages of an arrival do to its record (R38 to R60), said once: which fields a stage can touch, and the laws of one
record that the stages keep. -/

namespace Sys2Proof.Machine

/-! ## What the stages leave alone -/

/-- The fields of a record that no stage before the last touches. -/
def Record.sameIdentity (r r' : Record) : Prop :=
  r'.state = r.state ∧ r'.config = r.config ∧ r'.held = r.held ∧ r'.inAttention = r.inAttention ∧ r'.echoNoted = r.echoNoted
    ∧ r'.sendCounter = r.sendCounter

theorem Record.sameIdentity_refl (r : Record) : r.sameIdentity r := ⟨rfl, rfl, rfl, rfl, rfl, rfl⟩

theorem Record.sameIdentity_trans {r r' r'' : Record} (h : r.sameIdentity r') (k : r'.sameIdentity r'') : r.sameIdentity r'' := by
  obtain ⟨a, b, c, d, e, f⟩ := h
  obtain ⟨a', b', c', d', e', f'⟩ := k
  exact ⟨a'.trans a, b'.trans b, c'.trans c, d'.trans d, e'.trans e, f'.trans f⟩

theorem Record.setLeg_same (r : Record) (l : LegId) (x : Leg) : r.sameIdentity (r.setLeg l x) := by
  cases l <;> exact ⟨rfl, rfl, rfl, rfl, rfl, rfl⟩

theorem Record.miss_same (r : Record) (l : LegId) : r.sameIdentity (r.miss l) := by
  cases l <;> exact ⟨rfl, rfl, rfl, rfl, rfl, rfl⟩

theorem Record.makeRoom_same (r : Record) : r.sameIdentity r.makeRoom := by
  unfold Record.makeRoom
  split
  · exact r.sameIdentity_refl
  · split
    · exact Record.sameIdentity_trans (r' := { r with twins := _ }) ⟨rfl, rfl, rfl, rfl, rfl, rfl⟩ (Record.miss_same _ _)
    · exact r.sameIdentity_refl

theorem Record.applyPlacement_same (r : Record) (x : Arrival) (p : Placement) : r.sameIdentity (r.applyPlacement x p) := by
  cases p <;> exact ⟨rfl, rfl, rfl, rfl, rfl, rfl⟩

theorem Record.pairFirst_same (r : Record) (x : Arrival) : r.sameIdentity (r.pairFirst x) := by
  unfold Record.pairFirst
  split
  · exact Record.sameIdentity_trans r.makeRoom_same ⟨rfl, rfl, rfl, rfl, rfl, rfl⟩
  · split <;> exact ⟨rfl, rfl, rfl, rfl, rfl, rfl⟩

theorem Record.pairAgain_same (r : Record) (x : Arrival) : r.sameIdentity (r.pairAgain x) := by
  unfold Record.pairAgain
  split
  · split
    · exact Record.sameIdentity_trans (r' := r.dropTwin x.seq) ⟨rfl, rfl, rfl, rfl, rfl, rfl⟩ (Record.setLeg_same _ _ _)
    · exact ⟨rfl, rfl, rfl, rfl, rfl, rfl⟩
  · exact ⟨rfl, rfl, rfl, rfl, rfl, rfl⟩

/-- Stages 1 to 3 leave the state, the configuration, the held flag, the attention marks and the send counter. -/
theorem Record.stages123_same (r : Record) (x : Arrival) : r.sameIdentity (r.stages123 x).record := by
  have hp := r.applyPlacement_same x (r.place x)
  unfold Record.stages123
  dsimp only
  split
  · exact hp
  · exact Record.sameIdentity_trans hp (Record.sameIdentity_trans (Record.setLeg_same _ _ _) (Record.pairAgain_same _ _))
  all_goals
    exact Record.sameIdentity_trans hp (Record.sameIdentity_trans (Record.setLeg_same _ _ _)
      (Record.sameIdentity_trans (Record.pairFirst_same _ _) ⟨rfl, rfl, rfl, rfl, rfl, rfl⟩))

@[simp] theorem Record.stages123_placement (r : Record) (x : Arrival) : (r.stages123 x).placement = r.place x := by
  unfold Record.stages123
  dsimp only
  split <;> (rename_i h; rw [h])

/-- Stage 5 touches the marks and two counters alone. -/
theorem Record.settle_eq (r : Record) (seq : Word) (wanted got injected : Nat) :
    r.settle seq wanted got injected = { r with
      seen := (r.settle seq wanted got injected).seen
      counters := { r.counters with
        refused := (r.settle seq wanted got injected).counters.refused
        injected := (r.settle seq wanted got injected).counters.injected } } := by
  unfold Record.settle
  dsimp only
  split <;> split <;> rfl

/-- Stage 6 touches the state and the two marks alone. -/
theorem Record.stage6_eq (r before : Record) (o : Stage3) :
    r.stage6 before o = { r with
      state := r.stateAfter o.legChange o.placement.accepted
      inAttention := (r.stage6 before o).inAttention, echoNoted := (r.stage6 before o).echoNoted } := rfl

/-- What an arrival leaves of its record's configuration and held flag, whatever its copies came to. -/
theorem Record.arrival_config (r before : Record) (x : Arrival) (wanted got injected : Nat) :
    let o := r.stages123 x
    let r5 := if o.placement.accepted then o.record.settle x.seq wanted got injected else o.record
    (r5.stage6 before o).config = r.config ∧ (r5.stage6 before o).held = r.held := by
  intro o r5
  obtain ⟨-, hc, hh, -, -, -⟩ := r.stages123_same x
  have h5 : r5.config = o.record.config ∧ r5.held = o.record.held := by
    simp only [r5]
    split
    · rw [Record.settle_eq]; exact ⟨rfl, rfl⟩
    · exact ⟨rfl, rfl⟩
  rw [Record.stage6_eq]
  exact ⟨h5.1.trans hc, h5.2.trans hh⟩

/-! ## The twin list (R47 to R50) -/

theorem Record.makeRoom_twins (r : Record) : r.makeRoom.twins = if 4 ≤ r.twins.length then r.twins.drop 1 else r.twins := by
  unfold Record.makeRoom
  cases h : r.twins with
  | nil => simp [h]
  | cons e rest =>
    dsimp only
    split
    · cases he : e.awaits <;> simp [Record.miss, Record.setLeg]
    · exact h

/-- The twin list after a first copy. -/
theorem Record.pairFirst_twins (r : Record) (x : Arrival) :
    (r.pairFirst x).twins =
      match r.twinFor x.seq with
      | none => (if 4 ≤ r.twins.length then r.twins.drop 1 else r.twins) ++ [r.newTwin x]
      | some e => if e.awaits = x.leg then r.twins.filter (fun e => e.seq != x.seq)
          else r.twins.filter (fun e => e.seq != x.seq) ++ [r.newTwin x] := by
  unfold Record.pairFirst
  cases r.twinFor x.seq with
  | none =>
    show r.makeRoom.twins ++ _ = _
    rw [Record.makeRoom_twins]
  | some e =>
    dsimp only
    split <;> rfl

theorem Record.twinFor_none {r : Record} {seq : Word} (h : r.twinFor seq = none) : ∀ e ∈ r.twins, e.seq ≠ seq := by
  intro e he
  have := List.find?_eq_none.mp h e he
  simpa using this

/-- A filter that drops an entry which stands in the list makes it shorter. -/
theorem Record.twinFor_some {r : Record} {seq : Word} {e : TwinEntry} (h : r.twinFor seq = some e) :
    e ∈ r.twins ∧ e.seq = seq := by
  refine ⟨List.mem_of_find?_eq_some h, ?_⟩
  have := List.find?_some h
  simpa using this

/-- At most four entries with distinct sequences stay so under a first copy (R47). -/
theorem Record.pairFirst_lawful (r : Record) (x : Arrival) (hl : r.twins.length ≤ 4) (hn : (r.twins.map TwinEntry.seq).Nodup) :
    (r.pairFirst x).twins.length ≤ 4 ∧ ((r.pairFirst x).twins.map TwinEntry.seq).Nodup := by
  rw [Record.pairFirst_twins]
  have hfresh : ∀ (ts : List TwinEntry), (ts.map TwinEntry.seq).Nodup → (∀ e ∈ ts, e.seq ≠ x.seq) →
      ((ts ++ [r.newTwin x]).map TwinEntry.seq).Nodup := by
    intro ts h1 h2
    rw [List.map_append, List.nodup_append]
    refine ⟨h1, by simp, ?_⟩
    intro a ha b hb
    simp only [List.map_cons, List.map_nil, List.mem_singleton, Record.newTwin] at hb
    obtain ⟨e, he, rfl⟩ := List.mem_map.mp ha
    rw [hb]
    exact h2 e he
  have hfilter : ((r.twins.filter (fun e => e.seq != x.seq)).map TwinEntry.seq).Nodup :=
    hn.sublist (List.filter_sublist.map _)
  split
  · rename_i ht
    have hne := Record.twinFor_none ht
    split
    · refine ⟨by simp; omega, hfresh _ (hn.sublist ((List.drop_sublist 1 _).map _)) fun e he => hne e (List.mem_of_mem_drop he)⟩
    · exact ⟨by simp; omega, hfresh _ hn hne⟩
  · rename_i e ht
    obtain ⟨hmem, hseq⟩ := Record.twinFor_some ht
    have hlt : (r.twins.filter (fun e => e.seq != x.seq)).length < r.twins.length :=
      List.length_filter_lt_length_iff_exists.mpr ⟨e, hmem, by simp [hseq]⟩
    split
    · exact ⟨by omega, hfilter⟩
    · refine ⟨by simp; omega, hfresh _ hfilter fun e he => ?_⟩
      have := (List.mem_filter.mp he).2
      simpa using this

/-! ## What a first copy leaves (R42 to R53) -/

@[simp] theorem Record.setLeg_leg (r : Record) (l : LegId) (y : Leg) : (r.setLeg l y).leg l = y := by cases l <;> rfl

@[simp] theorem Record.setLeg_other (r : Record) (l : LegId) (y : Leg) : (r.setLeg l y).leg l.other = r.leg l.other := by
  cases l <;> rfl

/-- A leg's content touches nothing of the record but its two legs. -/
theorem Record.setLeg_eq (r : Record) (l : LegId) (y : Leg) :
    r.setLeg l y = { r with legA := (r.setLeg l y).legA, legB := (r.setLeg l y).legB } := by cases l <;> rfl

/-- A miss touches the legs and the two twin-miss counters alone (R51). -/
theorem Record.miss_eq (r : Record) (l : LegId) :
    r.miss l = { r with
      legA := (r.miss l).legA, legB := (r.miss l).legB
      counters := { r.counters with twinMissA := (r.miss l).counters.twinMissA, twinMissB := (r.miss l).counters.twinMissB } } := by
  cases l <;> rfl

theorem Record.miss_counters (r : Record) (l : LegId) :
    (r.miss l).counters.twinMissA = (if l = .a then bump r.counters.twinMissA else r.counters.twinMissA)
      ∧ (r.miss l).counters.twinMissB = (if l = .b then bump r.counters.twinMissB else r.counters.twinMissB) := by
  cases l <;> exact ⟨rfl, rfl⟩

/-- Room is made on a list of four alone, and then by one miss of the oldest entry's leg (R50). -/
theorem Record.makeRoom_short (r : Record) (h : r.twins.length < 4) : r.makeRoom = r := by
  unfold Record.makeRoom
  split
  · rfl
  · rw [if_neg (by omega)]

theorem Record.makeRoom_full (r : Record) (oldest : TwinEntry) (rest : List TwinEntry) (ht : r.twins = oldest :: rest)
    (h : 3 ≤ rest.length) : r.makeRoom = { r with twins := rest }.miss oldest.awaits := by
  unfold Record.makeRoom
  rw [ht]
  simp only [List.length_cons]
  rw [if_pos (by omega)]

/-- A first copy at the twin list touches the entries, the legs and the two twin-miss counters alone (R48, R50). -/
theorem Record.pairFirst_eq (r : Record) (x : Arrival) :
    r.pairFirst x = { r with
      twins := (r.pairFirst x).twins, legA := (r.pairFirst x).legA, legB := (r.pairFirst x).legB
      counters := { r.counters with
        twinMissA := (r.pairFirst x).counters.twinMissA, twinMissB := (r.pairFirst x).counters.twinMissB } } := by
  unfold Record.pairFirst
  split
  · unfold Record.makeRoom
    split
    · rfl
    · split
      · rw [Record.miss_eq]; rfl
      · rfl
  · split <;> rfl

/-- The arrival's new entry needs room that the list does not have (R50). -/
def Record.evictsFor (r : Record) (seq : Word) : Prop := 4 ≤ r.twins.length ∧ r.twinFor seq = none

/-- Without an eviction the legs and the counters stay (R48). -/
theorem Record.pairFirst_quiet (r : Record) (x : Arrival) (h : ¬ r.evictsFor x.seq) :
    (r.pairFirst x).legA = r.legA ∧ (r.pairFirst x).legB = r.legB ∧ (r.pairFirst x).counters = r.counters := by
  unfold Record.pairFirst
  split
  · rename_i hn
    rw [Record.makeRoom_short r (by unfold Record.evictsFor at h; simp only [hn, and_true] at h; omega)]
    exact ⟨rfl, rfl, rfl⟩
  · split <;> exact ⟨rfl, rfl, rfl⟩

/-- With an eviction the oldest entry counts a miss and the new one stands last (R50, R51). -/
theorem Record.pairFirst_evicts (r : Record) (x : Arrival) (oldest : TwinEntry) (rest : List TwinEntry)
    (ht : r.twins = oldest :: rest) (h : r.evictsFor x.seq) :
    r.pairFirst x = ({ r with twins := rest }.miss oldest.awaits).appendTwin (r.newTwin x) := by
  obtain ⟨h4, hn⟩ := h
  rw [ht, List.length_cons] at h4
  unfold Record.pairFirst
  simp only [hn]
  rw [Record.makeRoom_full r oldest rest ht (by omega)]

/-- Stages 1 to 3 of an accepted arrival: placement, its leg, the twin list, the deadline (R42 to R53). -/
theorem Record.stages123_first (r : Record) (x : Arrival) (ha : (r.place x).accepted = true) :
    (r.stages123 x).record =
        (((r.applyPlacement x (r.place x)).hearFirst x).pairFirst x).setDeadline x.time (renewalInterval x.renewal r.config.renewalLimit)
      ∧ (r.stages123 x).legChange =
        (legsDiffer (r.applyPlacement x (r.place x)) ((r.applyPlacement x (r.place x)).hearFirst x)
          || legsDiffer ((r.applyPlacement x (r.place x)).hearFirst x) (((r.applyPlacement x (r.place x)).hearFirst x).pairFirst x))
      ∧ (r.stages123 x).echo = false := by
  have hcfg : (((r.applyPlacement x (r.place x)).hearFirst x).pairFirst x).config = r.config := by
    obtain ⟨-, h, -⟩ := Record.sameIdentity_trans (r.applyPlacement_same x (r.place x))
      (Record.sameIdentity_trans (Record.setLeg_same _ x.leg _) (Record.pairFirst_same _ x))
    exact h
  unfold Record.stages123
  dsimp only
  rw [← hcfg]
  split <;> rename_i h <;> rw [h] at ha ⊢
  · simp [Placement.accepted] at ha
  · simp [Placement.accepted] at ha
  all_goals exact ⟨rfl, rfl, rfl⟩

/-! ## Leg statuses and the state (R29) -/

theorem legsDiffer_false {r r' : Record} (h : legsDiffer r r' = false) :
    r'.legA.status = r.legA.status ∧ r'.legB.status = r.legB.status := by
  simp only [legsDiffer, Bool.or_eq_false_iff, bne_eq_false_iff_eq] at h
  exact ⟨h.1.symm, h.2.symm⟩

/-- The state the leg statuses give hangs on the kind and the two statuses alone. -/
theorem Record.stateAnew_congr {r r' : Record} (hc : r'.config = r.config) (ha : r'.legA.status = r.legA.status)
    (hb : r'.legB.status = r.legB.status) : r'.stateAnew = r.stateAnew := by
  have h1 : r'.twoLeg = r.twoLeg := by rw [Record.twoLeg, hc]; rfl
  have h2 : r'.someLegLost = r.someLegLost := by rw [Record.someLegLost, ha, hb]; rfl
  rw [Record.stateAnew, h1, h2]
  rfl

theorem Record.stateAnew_arriving (r : Record) : r.stateAnew.arriving = true := by
  unfold Record.stateAnew
  split <;> rfl

/-- A leg whose status no sub-step changed stands at the status it had (R60; log 20). -/
theorem Record.stages123_legs (r : Record) (x : Arrival) (h : (r.stages123 x).legChange = false) :
    (r.stages123 x).record.legA.status = r.legA.status ∧ (r.stages123 x).record.legB.status = r.legB.status := by
  have hp : ∀ p, (r.applyPlacement x p).legA = r.legA ∧ (r.applyPlacement x p).legB = r.legB := by
    intro p; cases p <;> exact ⟨rfl, rfl⟩
  have hq := hp (r.place x)
  unfold Record.stages123 at h ⊢
  dsimp only at h ⊢
  split at h <;> rename_i he <;> simp only [he] at h hq ⊢
  · rw [hq.1, hq.2]; exact ⟨rfl, rfl⟩
  · have := legsDiffer_false h
    rw [hq.1, hq.2] at this
    exact this
  all_goals
    have h1 := legsDiffer_false (Bool.or_eq_false_iff.mp h).1
    have h2 := legsDiffer_false (Bool.or_eq_false_iff.mp h).2
    rw [hq.1, hq.2] at h1
    exact ⟨h2.1.trans h1.1, h2.2.trans h1.2⟩

/-- What stages 1 to 3 make of the deadline mark and the twin list. -/
theorem Record.stages123_running (r : Record) (x : Arrival) :
    (r.stages123 x).record.running = if (r.place x).accepted then true else r.running := by
  have hp : (r.applyPlacement x (r.place x)).running = r.running := by cases r.place x <;> rfl
  have hs : ∀ (t : Record) l y, (t.setLeg l y).running = t.running := by intro t l y; cases l <;> rfl
  unfold Record.stages123
  dsimp only
  split <;> rename_i he <;> rw [he] at hp ⊢
  · exact hp
  · show (((r.applyPlacement x .duplicate).hearAgain x).pairAgain x).running = r.running
    unfold Record.pairAgain
    split
    · split
      · rw [hs]; exact (hs _ _ _).trans hp
      · exact (hs _ _ _).trans hp
    · exact (hs _ _ _).trans hp
  all_goals rfl

theorem Record.stages123_twins (r : Record) (x : Arrival) (hl : r.twins.length ≤ 4) (hn : (r.twins.map TwinEntry.seq).Nodup) :
    ((r.stages123 x).record.twins.length ≤ 4 ∧ ((r.stages123 x).record.twins.map TwinEntry.seq).Nodup)
      ∧ ((r.place x).accepted = false → (r.stages123 x).record.twins.Sublist r.twins) := by
  have hs : ∀ (t : Record) l y, (t.setLeg l y).twins = t.twins := by intro t l y; cases l <;> rfl
  have hp : (r.applyPlacement x (r.place x)).twins = [] ∨ (r.applyPlacement x (r.place x)).twins = r.twins := by
    cases r.place x <;> first | exact .inl rfl | exact .inr rfl
  have hsub : ∀ ts : List TwinEntry, ts.Sublist r.twins → ts.length ≤ 4 ∧ (ts.map TwinEntry.seq).Nodup := by
    intro ts h
    exact ⟨Nat.le_trans h.length_le hl, hn.sublist (h.map _)⟩
  unfold Record.stages123
  dsimp only
  split <;> rename_i he <;> rw [he] at hp ⊢
  · have hw : (r.applyPlacement x .wild).twins = r.twins := rfl
    rw [hw]
    exact ⟨⟨hl, hn⟩, fun _ => List.Sublist.refl _⟩
  · have hk : (((r.applyPlacement x .duplicate).hearAgain x).pairAgain x).twins.Sublist r.twins := by
      have ht : ((r.applyPlacement x .duplicate).hearAgain x).twins = r.twins := hs _ _ _
      have same : ∀ {ts us : List TwinEntry}, ts = us → ts.Sublist us := by intro ts us h; cases h; exact List.Sublist.refl _
      unfold Record.pairAgain
      split
      · split
        · rw [hs]
          show (List.filter _ ((r.applyPlacement x .duplicate).hearAgain x).twins).Sublist r.twins
          rw [ht]
          exact List.filter_sublist
        · exact same ht
      · exact same ht
    exact ⟨hsub _ hk, fun _ => hk⟩
  all_goals
    refine ⟨?_, fun h => by simp [Placement.accepted] at h⟩
    show ((Record.pairFirst (Record.hearFirst _ x) x).twins.length ≤ 4 ∧ _)
    refine Record.pairFirst_lawful _ x ?_ ?_
    · rw [Record.hearFirst, hs]
      rcases hp with hp | hp <;> rw [hp]
      · exact Nat.zero_le _
      · exact hl
    · rw [Record.hearFirst, hs]
      rcases hp with hp | hp <;> rw [hp]
      · exact List.nodup_nil
      · exact hn

/-! ## The laws of one record under an arrival -/

/-- An occupied record stays occupied, and goes to no other state than LIVE and SINGLE. -/
theorem Record.stateAfter_cases (r : Record) (legChange accepted : Bool) :
    r.stateAfter legChange accepted = r.state ∨ r.stateAfter legChange accepted = r.stateAnew := by
  unfold Record.stateAfter
  cases r.state <;> cases legChange <;> cases accepted <;> simp

/-- Accepting a frame leaves a record found by a lookup LIVE or SINGLE; else it is arriving as before. -/
theorem Record.stateAfter_arriving (r : Record) (legChange accepted : Bool) (ho : r.state.occupied = true) :
    (r.stateAfter legChange accepted).arriving = if accepted then true else r.state.arriving := by
  have ha := r.stateAnew_arriving
  unfold Record.stateAfter
  generalize r.stateAnew = n at ha
  revert ho
  generalize r.state = st
  cases st <;> cases legChange <;> cases accepted <;> simp [RecState.occupied, RecState.arriving] <;> exact ha

/-- A changed leg sets the state of a LIVE or SINGLE record anew. -/
theorem Record.stateAfter_anew (r : Record) (legChange accepted : Bool) (ha : r.state.arriving = true) (hl : legChange = true) :
    r.stateAfter legChange accepted = r.stateAnew := by
  subst hl
  unfold Record.stateAfter
  revert ha
  generalize r.stateAnew = n
  generalize r.state = st
  cases st <;> simp [RecState.arriving]

/-- A two-leg record that lookups find keeps its laws through an arrival, whatever its copies came to. -/
theorem Record.arrival_lawful (r : Record) (x : Arrival) (wanted got injected : Nat) (hl : r.lawful = true)
    (ho : r.state.occupied = true) (h2 : r.twoLeg = true) :
    let o := r.stages123 x
    let r5 := if o.placement.accepted then o.record.settle x.seq wanted got injected else o.record
    (r5.stage6 r o).lawful = true := by
  intro o r5
  obtain ⟨hst, hcfg, -, -, -, -⟩ := r.stages123_same x
  simp only [Record.lawful, Bool.and_eq_true] at hl
  obtain ⟨⟨⟨⟨⟨-, hdl⟩, hsl⟩, htl⟩, -⟩, hfit⟩ := hl
  simp only [Record.twinsLawful, Bool.and_eq_true, decide_eq_true_eq, Bool.or_eq_true, List.isEmpty_iff] at htl
  obtain ⟨⟨ht4, htn⟩, hte⟩ := htl
  obtain ⟨⟨hn4, hnn⟩, hsub⟩ := r.stages123_twins x ht4 htn
  have hrun := r.stages123_running x
  have hlegs := r.stages123_legs x
  have h5 : r5 = { o.record with seen := r5.seen, counters := r5.counters } := by
    simp only [r5]
    split
    · rw [Record.settle_eq]
    · rfl
  have e5 : r5.state = r.state ∧ r5.config = r.config ∧ r5.running = o.record.running ∧ r5.twins = o.record.twins
      ∧ r5.legA = o.record.legA ∧ r5.legB = o.record.legB := by
    rw [h5]; exact ⟨hst, hcfg, rfl, rfl, rfl, rfl⟩
  obtain ⟨e1, e2, e3, e4, e6, e7⟩ := e5
  have hacc : o.placement.accepted = (r.place x).accepted := by rw [Record.stages123_placement]
  have hnew : (r5.stage6 r o).state = r5.stateAfter o.legChange o.placement.accepted := rfl
  have hanew : (r5.stage6 r o).stateAnew = r5.stateAnew := rfl
  have htwo : (r5.stage6 r o).twoLeg = true := by
    show (r5.config.kind != .originatedSingle) = true
    rw [e2]; exact h2
  have hocc : (r5.stage6 r o).state.occupied = true := by
    rw [hnew]
    rcases r5.stateAfter_cases o.legChange o.placement.accepted with h | h <;> rw [h]
    · rw [e1]; exact ho
    · unfold Record.stateAnew; split <;> rfl
  have hsame : o.legChange = false → r5.stateAnew = r.stateAnew := by
    intro h
    exact Record.stateAnew_congr e2 (by rw [e6]; exact (hlegs h).1) (by rw [e7]; exact (hlegs h).2)
  have harr : (r5.stage6 r o).state.arriving = if (r.place x).accepted then true else r.state.arriving := by
    rw [hnew, hacc, Record.stateAfter_arriving r5 _ _ (by rw [e1]; exact ho), e1]
  simp only [Record.lawful, Bool.and_eq_true]
  refine ⟨⟨⟨⟨⟨?_, ?_⟩, ?_⟩, ?_⟩, ?_⟩, ?_⟩
  · simp only [Record.presenceLawful, hocc, Bool.or_true, Bool.and_true, Bool.or_eq_true, bne_iff_ne, ne_eq]
    left
    intro h
    rw [h] at hocc
    simp [RecState.occupied] at hocc
  · simp only [Record.deadlineLawful, beq_iff_eq]
    rw [harr]
    show r5.running = _
    rw [e3, hrun]
    have := eq_of_beq hdl
    split
    · rfl
    · exact this
  · simp only [Record.stateLawful, Bool.or_eq_true, Bool.not_eq_true', beq_iff_eq]
    rw [hanew]
    rcases r5.stateAfter_cases o.legChange o.placement.accepted with h | h
    · by_cases harr' : r.state.arriving = true
      · by_cases hlc : o.legChange = true
        · right
          rw [hnew]
          exact Record.stateAfter_anew r5 _ _ (by rw [e1]; exact harr') hlc
        · right
          have hlc' : o.legChange = false := by simpa using hlc
          rw [hnew, h, e1, hsame hlc']
          simp only [Record.stateLawful, harr', Bool.not_true, Bool.false_or] at hsl
          exact eq_of_beq hsl
      · left
        rw [hnew, h, e1]
        simpa using harr'
    · exact .inr (hnew.trans h)
  · simp only [Record.twinsLawful, Bool.and_eq_true, decide_eq_true_eq, Bool.or_eq_true, List.isEmpty_iff]
    have ht : (r5.stage6 r o).twins = o.record.twins := e4
    rw [ht, harr]
    refine ⟨⟨hn4, hnn⟩, ?_⟩
    by_cases hac : (r.place x).accepted = true
    · simp [hac]
    · have hac' : (r.place x).accepted = false := by simpa using hac
      rcases hte with hte | hte
      · left; rw [hac']; exact hte
      · right
        have := hsub hac'
        rw [hte] at this
        exact List.sublist_nil.mp this
  · simp [Record.oneLegLawful, htwo]
  · show r5.config.legModeFits = true
    rw [e2]; exact hfit

end Sys2Proof.Machine
end

