-- ==== Sys2Proof/Laws/Intake.lean ====
section
/-! SUPPORT. What an intake's frame and the grant of its lookup do (R9 to R17, R31 to R38), said once: which frame is taken, where the
checks stand, and what a handled arrival leaves in each part of the state. -/

namespace Sys2Proof.Machine

/-! ## Frames and checks -/

theorem lengthAndFcsPass_iff (frame : List Byte) (upper : Nat) :
    lengthAndFcsPass frame upper = true ↔ 64 ≤ frame.length ∧ frame.length ≤ upper ∧ fcsMatches frame = true := by
  simp [lengthAndFcsPass, and_assoc]

/-- The frame an intake takes heads the store of a port in service whose intake does not wait. -/
theorem State.nextFrame_some {s : State} {p : Port} {f : RxFrame} (h : s.nextFrame p = some f) :
    s.inService p = true ∧ (s.port p).claim = none ∧ (s.port p).store.head? = some f := by
  unfold State.nextFrame at h
  split at h
  · rename_i hc
    have hc := Bool.and_eq_true_iff.mp hc
    exact ⟨hc.1, Option.isNone_iff_eq_none.mp hc.2, h⟩
  · simp at h

/-- Settling a frame takes it from its port's store and touches nothing else (R146). -/
theorem State.settleFrame_eq (s : State) (p : Port) :
    s.settleFrame p = { s with ports := s.ports.set p { s.port p with store := (s.port p).store.drop 1, claim := none } } := rfl

theorem State.settleFrame_port (s : State) (p q : Port) :
    (s.settleFrame p).port q = if q = p then (s.port p).settled else s.port q := State.port_modPort _ _ _ _

/-- A discard settles the frame and counts it, and does nothing else. -/
theorem State.discard_eq (s : State) (p : Port) (g : PortCounters → PortCounters) :
    s.discard p g = { s with ports := s.ports.set p { s.port p with
      store := (s.port p).store.drop 1, claim := none, counters := g (s.port p).counters } } := by
  simp [State.discard, State.settleFrame, State.count, State.modPort, PortUnit.settled, State.port]

theorem State.settleFrame_isUp (s : State) (p q : Port) : (s.settleFrame p).isUp q = s.isUp q := by
  simp only [State.isUp, State.settleFrame_port]
  split
  · rename_i h; rw [h]; rfl
  · rfl

/-! ## A handled arrival (R38) -/

/-- The record a handled arrival leaves, by what its copies came to: stages 1 to 3, 5 and 6. -/
def Record.arrived (r : Record) (x : Arrival) (wanted got injected : Nat) : Record :=
  (if (r.stages123 x).placement.accepted then (r.stages123 x).record.settle x.seq wanted got injected
    else (r.stages123 x).record).stage6 r (r.stages123 x)

/-- The record of an accepted arrival at the end of its twin stage (R42 to R51). -/
def Record.paired (r : Record) (x : Arrival) : Record := ((r.applyPlacement x (r.place x)).hearFirst x).pairFirst x

theorem Record.paired_same (r : Record) (x : Arrival) : r.sameIdentity (r.paired x) :=
  Record.sameIdentity_trans (r.applyPlacement_same x (r.place x))
    (Record.sameIdentity_trans (Record.setLeg_same _ x.leg _) (Record.pairFirst_same _ x))

/-- The record an accepted arrival leaves, field by field: the twin stage's, with the deadline, the mark and two counters settled by its
copies, the state by its legs, and its place in the attention set (R29, R53, R58, R60). -/
theorem Record.arrived_first (r : Record) (x : Arrival) (wanted got injected : Nat) (ha : (r.place x).accepted = true) :
    let t := r.arrived x wanted got injected
    t = { r.paired x with
      deadline := x.time + milliseconds (renewalInterval x.renewal r.config.renewalLimit), running := true
      seen := ((r.paired x).settle x.seq wanted got injected).seen
      counters := { (r.paired x).counters with
        refused := ((r.paired x).settle x.seq wanted got injected).counters.refused
        injected := ((r.paired x).settle x.seq wanted got injected).counters.injected }
      state := (r.paired x).stateAfter (r.stages123 x).legChange true, echoNoted := r.echoNoted
      inAttention := r.inAttention || (t.state != r.state || (r.stages123 x).legChange || r.place x == .resync) } := by
  intro t
  obtain ⟨s1, -, s3⟩ := r.stages123_first x ha
  obtain ⟨-, -, -, hi, he, -⟩ := r.paired_same x
  have hs : ∀ (q : Record) (d : Time), ({ q with deadline := d, running := true } : Record).settle x.seq wanted got injected =
      { q.settle x.seq wanted got injected with deadline := d, running := true } := by
    intro q d; unfold Record.settle; dsimp only; split <;> split <;> rfl
  have ht : t = (((r.paired x).setDeadline x.time (renewalInterval x.renewal r.config.renewalLimit)).settle x.seq wanted got injected).stage6
      r (r.stages123 x) := by
    show (if (r.stages123 x).placement.accepted then _ else _ : Record).stage6 r (r.stages123 x) = _
    rw [if_pos (by rw [Record.stages123_placement]; exact ha), s1]
    rfl
  rw [ht]
  unfold Record.setDeadline
  rw [hs, Record.settle_eq]
  unfold Record.stage6 joinsAttention
  simp only [Record.stages123_placement, ha, s3, Bool.or_false, Bool.false_and, hi, he]
  rfl

/-- The copies of a handled arrival: those it always has, and its own when it is accepted on an unheld record. -/
def Record.copiesOf (r : Record) (x : Arrival) (always own : List Copy) : List Copy :=
  always ++ if (r.place x).accepted && !r.held then own else []

/-- The number of copies the record had to make (R58). -/
def Record.wantedOf (r : Record) (x : Arrival) (own : List Copy) : Nat :=
  (if (r.place x).accepted && !r.held then own else []).length

/-- A handled arrival, put together: the request, the record it leaves, and the flag ATTENTION when it joins the set. -/
theorem State.handleArrival_eq (s : State) (h : Nat) (p : Port) (f : RxFrame) (always own : List Copy) :
    s.handleArrival h p f always own =
      ((s.requestAdmission f.bytes (tagOf f.bytes).cls.dataClass ((s.record h).copiesOf (arrivalOf p f) always own) [p]).1.putRecord h
        ((s.record h).arrived (arrivalOf p f) ((s.record h).wantedOf (arrivalOf p f) own)
          (answeredEnqueued Copy.carriesHandle ((s.record h).copiesOf (arrivalOf p f) always own)
            (s.requestAdmission f.bytes (tagOf f.bytes).cls.dataClass ((s.record h).copiesOf (arrivalOf p f) always own) [p]).2)
          (answeredEnqueued Copy.isInjection ((s.record h).copiesOf (arrivalOf p f) always own)
            (s.requestAdmission f.bytes (tagOf f.bytes).cls.dataClass ((s.record h).copiesOf (arrivalOf p f) always own) [p]).2))).raiseIf
        (joinsAttention (s.record h)
          ((s.record h).arrived (arrivalOf p f) ((s.record h).wantedOf (arrivalOf p f) own)
            (answeredEnqueued Copy.carriesHandle ((s.record h).copiesOf (arrivalOf p f) always own)
              (s.requestAdmission f.bytes (tagOf f.bytes).cls.dataClass ((s.record h).copiesOf (arrivalOf p f) always own) [p]).2)
            (answeredEnqueued Copy.isInjection ((s.record h).copiesOf (arrivalOf p f) always own)
              (s.requestAdmission f.bytes (tagOf f.bytes).cls.dataClass ((s.record h).copiesOf (arrivalOf p f) always own) [p]).2))
          ((s.record h).stages123 (arrivalOf p f))) .attention := by
  unfold State.handleArrival Record.copiesOf Record.wantedOf Record.arrived
  simp only [Record.stages123_placement]

/-- The numbers of copies that a handled arrival's request came to: wanted, enqueued with the record's handle, and injected. -/
theorem State.handleArrival_record (s : State) (h : Nat) (p : Port) (f : RxFrame) (always own : List Copy) :
    ∃ got injected, (s.handleArrival h p f always own).record h =
        (s.record h).arrived (arrivalOf p f) ((s.record h).wantedOf (arrivalOf p f) own) got injected
      ∧ got = answeredEnqueued Copy.carriesHandle ((s.record h).copiesOf (arrivalOf p f) always own)
          (s.requestAdmission f.bytes (tagOf f.bytes).cls.dataClass ((s.record h).copiesOf (arrivalOf p f) always own) [p]).2
      ∧ injected = answeredEnqueued Copy.isInjection ((s.record h).copiesOf (arrivalOf p f) always own)
          (s.requestAdmission f.bytes (tagOf f.bytes).cls.dataClass ((s.record h).copiesOf (arrivalOf p f) always own) [p]).2
      ∧ ∀ g, (s.handleArrival h p f always own).flag g =
          ((s.requestAdmission f.bytes (tagOf f.bytes).cls.dataClass ((s.record h).copiesOf (arrivalOf p f) always own) [p]).1.flag g
            || (joinsAttention (s.record h)
                ((s.record h).arrived (arrivalOf p f) ((s.record h).wantedOf (arrivalOf p f) own) got injected)
                ((s.record h).stages123 (arrivalOf p f)) && decide (Flag.attention = g))) := by
  refine ⟨_, _, ?_, rfl, rfl, ?_⟩
  · rw [State.handleArrival_eq]
    have hr : ∀ (t : State) c g k, (t.raiseIf c g).record k = t.record k := by intro t c g k; cases c <;> rfl
    rw [hr, State.record_putRecord_same]
  · intro g
    rw [State.handleArrival_eq, State.flag_raiseIf]
    rfl

/-- A handled arrival reaches one record, and what its request reaches. -/
theorem State.handleArrival_moves (s : State) (h : Nat) (p : Port) (f : RxFrame) (always own : List Copy) :
    s.handleArrival h p f always own = { s with
      table := (s.handleArrival h p f always own).table, ports := (s.handleArrival h p f always own).ports
      pool := (s.handleArrival h p f always own).pool, nextName := (s.handleArrival h p f always own).nextName
      tallies := (s.handleArrival h p f always own).tallies, flags := (s.handleArrival h p f always own).flags } := by
  rw [State.handleArrival_eq]
  have ht := s.requestAdmission_traffic f.bytes (tagOf f.bytes).cls.dataClass ((s.record h).copiesOf (arrivalOf p f) always own) [p]
  generalize s.requestAdmission f.bytes (tagOf f.bytes).cls.dataClass ((s.record h).copiesOf (arrivalOf p f) always own) [p] = a at *
  generalize hc : joinsAttention _ _ _ = c
  unfold State.onlyTrafficMoves at ht
  cases c
  · simp only [State.raiseIf, Bool.false_eq_true, if_false, State.putRecord]
    rw [ht]
  · simp only [State.raiseIf, if_true, State.putRecord, State.raise]
    rw [ht]

theorem State.handleArrival_others (s : State) {h k : Nat} (p : Port) (f : RxFrame) (always own : List Copy) (hk : k ≠ h) :
    (s.handleArrival h p f always own).record k = s.record k := by
  rw [State.handleArrival_eq]
  have hr : ∀ (t : State) c g j, (t.raiseIf c g).record j = t.record j := by intro t c g j; cases c <;> rfl
  rw [hr, State.record_putRecord_other _ _ hk]
  have := State.onlyTrafficMoves_table
    (s.requestAdmission_traffic f.bytes (tagOf f.bytes).cls.dataClass ((s.record h).copiesOf (arrivalOf p f) always own) [p])
  exact congrArg (fun m => Sparse.get Record.free m k) this

/-- The queues, the pool and the tallies after a handled arrival are those its request leaves. -/
theorem State.handleArrival_traffic (s : State) (h : Nat) (p : Port) (f : RxFrame) (always own : List Copy) :
    (s.handleArrival h p f always own).ports =
        (s.requestAdmission f.bytes (tagOf f.bytes).cls.dataClass ((s.record h).copiesOf (arrivalOf p f) always own) [p]).1.ports
      ∧ (s.handleArrival h p f always own).pool =
        (s.requestAdmission f.bytes (tagOf f.bytes).cls.dataClass ((s.record h).copiesOf (arrivalOf p f) always own) [p]).1.pool
      ∧ (s.handleArrival h p f always own).nextName =
        (s.requestAdmission f.bytes (tagOf f.bytes).cls.dataClass ((s.record h).copiesOf (arrivalOf p f) always own) [p]).1.nextName
      ∧ (s.handleArrival h p f always own).tallies =
        (s.requestAdmission f.bytes (tagOf f.bytes).cls.dataClass ((s.record h).copiesOf (arrivalOf p f) always own) [p]).1.tallies := by
  rw [State.handleArrival_eq]
  generalize joinsAttention _ _ _ = c
  cases c <;> exact ⟨rfl, rfl, rfl, rfl⟩

/-- A handled arrival keeps the balance of copies, cells and tallies. -/
theorem Balanced.handleArrival {s : State} (h : Nat) (p : Port) (f : RxFrame) (always own : List Copy) (hb : Balanced s s.descriptors) :
    Balanced (s.handleArrival h p f always own) (s.handleArrival h p f always own).descriptors := by
  obtain ⟨t1, t2, t3, t4⟩ := s.handleArrival_traffic h p f always own
  have h1 := hb.requestAdmission f.bytes (tagOf f.bytes).cls.dataClass ((s.record h).copiesOf (arrivalOf p f) always own) [p]
  have hd : (s.handleArrival h p f always own).descriptors =
      (s.requestAdmission f.bytes (tagOf f.bytes).cls.dataClass ((s.record h).copiesOf (arrivalOf p f) always own) [p]).1.descriptors := by
    simp only [State.descriptors, State.port, t1]
  rw [hd]
  exact h1.congr t2 t3 t4

/-! ## The copies of a request name different ports (R151) -/

theorem State.deliveryCopies_ports (s : State) (h : Nat) (c : StreamConfig) (struck : BayPort → Bool) :
    (s.deliveryCopies h c struck).map Copy.port =
      (bayPorts.filter (fun p => c.delivery.getLsbD p.index && !struck p && s.isUp (.bay p))).map Port.bay := by
  simp [State.deliveryCopies]

theorem State.injectionCopies_ports (s : State) (h : Nat) (form : Form) : (s.injectionCopies h form).map Copy.port = s.upLanes := by
  simp only [State.injectionCopies, List.map_map]
  exact List.map_id _

theorem State.deliveryCopies_nodup (s : State) (h : Nat) (c : StreamConfig) (struck : BayPort → Bool) :
    ((s.deliveryCopies h c struck).map Copy.port).Nodup := by
  rw [State.deliveryCopies_ports]
  have hb : bayPorts.Nodup := by decide
  exact List.Pairwise.map Port.bay (fun a b hne e => hne (by cases e; rfl)) (hb.sublist List.filter_sublist)

theorem State.injectionAndDelivery_nodup (s : State) (h k : Nat) (form : Form) (c : StreamConfig) (struck : BayPort → Bool) :
    ((s.injectionCopies h form ++ s.deliveryCopies k c struck).map Copy.port).Nodup := by
  rw [List.map_append, List.nodup_append]
  refine ⟨?_, s.deliveryCopies_nodup k c struck, ?_⟩
  · rw [State.injectionCopies_ports]
    exact (by decide : [Port.lane .a, .lane .b].Nodup).sublist List.filter_sublist
  · rw [State.injectionCopies_ports, State.deliveryCopies_ports]
    intro a ha b hb e
    subst e
    obtain ⟨q, -, rfl⟩ := List.mem_map.mp hb
    simp [State.upLanes] at ha

theorem State.transitAndDelivery_nodup (s : State) (l : Lane) (frame : List Byte) (h : Nat) (c : StreamConfig)
    (struck : BayPort → Bool) : ((s.transitCopies l frame ++ s.deliveryCopies h c struck).map Copy.port).Nodup := by
  rw [List.map_append, List.nodup_append]
  refine ⟨?_, s.deliveryCopies_nodup h c struck, ?_⟩
  · unfold State.transitCopies; dsimp only; split <;> simp
  · rw [State.deliveryCopies_ports]
    intro a ha b hb e
    subst e
    obtain ⟨q, -, rfl⟩ := List.mem_map.mp hb
    unfold State.transitCopies at ha
    dsimp only at ha
    split at ha <;> simp at ha

/-! ## The answer of a request (R57, R149) -/

/-- A copy that is enqueued counts in the answer. -/
theorem answeredEnqueued_pos (which : Copy → Bool) (copies : List Copy) (fate : Copy → Fate) (c : Copy) (hc : c ∈ copies)
    (hw : which c = true) (hf : fate c ≠ .dropped) : 0 < answeredEnqueued which copies (copies.map fate) := by
  unfold answeredEnqueued
  refine List.length_pos_of_mem (a := (c, fate c)) (List.mem_filter.mpr ⟨?_, by simp [hw, hf]⟩)
  clear hw hf
  induction copies with
  | nil => simp at hc
  | cons d ds ih =>
    simp only [List.map_cons, List.zip_cons_cons]
    rcases List.mem_cons.mp hc with rfl | hc
    · exact List.mem_cons_self
    · exact List.mem_cons_of_mem _ (ih hc)

/-- When each copy that counts is dropped, the answer counts none. -/
theorem answeredEnqueued_zero (which : Copy → Bool) (copies : List Copy) (fate : Copy → Fate)
    (h : ∀ c ∈ copies, which c = true → fate c = .dropped) : answeredEnqueued which copies (copies.map fate) = 0 := by
  unfold answeredEnqueued
  rw [List.length_eq_zero_iff, List.filter_eq_nil_iff]
  induction copies with
  | nil => simp
  | cons d ds ih =>
    intro e he
    simp only [List.map_cons, List.zip_cons_cons, List.mem_cons] at he
    rcases he with rfl | he
    · cases hw : which d with
      | false => simp
      | true => simp [h d List.mem_cons_self hw]
    · exact ih (fun c hc => h c (List.mem_cons_of_mem _ hc)) e he

/-! ## The grant of a lookup (R31, R34) -/

/-- The copies an arrival has whatever its record says: a lane frame's transit copy. -/
def State.alwaysCopies (s : State) (p : Port) (frame : List Byte) : List Copy :=
  match p with
  | .lane l => s.transitCopies l frame
  | .bay _ => []

/-- The copies of an accepted arrival on an unheld record of handle `h`. -/
def State.ownCopies (s : State) (p : Port) (h : Nat) : List Copy :=
  match p with
  | .lane _ => s.deliveryCopies h (s.record h).config (fun _ => false)
  | .bay q =>
    s.injectionCopies h (.hopsRewritten (s.settings.hopLimit.extractLsb' 0 6))
      ++ s.deliveryCopies h (s.record h).config (fun r => r.pair == q.pair)

/-- The state in which a granted frame is looked up: the frame settled, the rotation moved on, any grant in hand ended. -/
def State.looking (s : State) (p : Port) : State := (s.settleFrame p).rotate p

/-- A lookup that finds a record which takes the frame handles the arrival on it. -/
theorem State.lookup_taken (s : State) (p : Port) (f : RxFrame) (h : Nat) (ht : s.lookupTakes p f h) :
    exec (.lookupByKey p) s =
      .next ((s.looking p).handleArrival h p f ((s.looking p).alwaysCopies p f.bytes) ((s.looking p).ownCopies p h)) := by
  obtain ⟨hg, hst, hk, hm⟩ := ht
  simp only [exec, execLookupByKey, hst, hg, if_true]
  have hfind : (s.looking p).findKey (tagOf f.bytes).origin (tagOf f.bytes).stream = some h := hk
  cases p with
  | lane l =>
    have hm' : ((s.looking (.lane l)).record h).config.kind = .subscribed := hm
    show Host.Outcome.next ((s.looking (.lane l)).laneLookup l f) = _
    simp only [State.laneLookup, hfind, hm', if_true]
    rfl
  | bay q =>
    have hm' : ((s.looking (.bay q)).record h).config.isPair q.pair = true := hm
    show Host.Outcome.next ((s.looking (.bay q)).pairLookup q f) = _
    simp only [State.pairLookup, hfind, hm', if_true]
    rfl

/-- Settling a frame and moving the rotation leaves the table, the flags, pool, tallies and every other port; a grant in hand ends. -/
theorem State.looking_eq (s : State) (p : Port) :
    s.looking p = { s with
      ports := s.ports.set p (s.port p).settled, rotation := nextInRotation p
      inHand := none } := rfl

theorem State.looking_isUp (s : State) (p q : Port) : (s.looking p).isUp q = s.isUp q := s.settleFrame_isUp p q

theorem State.looking_port (s : State) (p q : Port) : (s.looking p).port q = if q = p then (s.port p).settled else s.port q :=
  s.settleFrame_port p q

end Sys2Proof.Machine
end

