-- ==== Sys2Proof/Laws/Load.lean ====
section
/-! SUPPORT. The end of an image load (R93, R132, R174 to R176), said once: what the ONs and the standing records leave, and how the sweep
and the probe unit start. -/

namespace Sys2Proof.Machine

/-! ## The handle a pass comes to (R80, R81) -/

theorem Settings.unmaskedAmong_spec (v : Settings) (n h : Nat) (hn : h + n = 512) :
    h ≤ v.unmaskedAmong n h ∧ v.unmaskedAmong n h ≤ 512 ∧ (v.unmaskedAmong n h < 512 → v.masked (v.unmaskedAmong n h) = false)
      ∧ ∀ k, h ≤ k → k < v.unmaskedAmong n h → v.masked k = true := by
  induction n generalizing h with
  | zero =>
    have : v.unmaskedAmong 0 h = 512 := rfl
    rw [this]
    exact ⟨by omega, by omega, fun hl => by omega, fun k _ _ => by omega⟩
  | succ n ih =>
    unfold Settings.unmaskedAmong
    split
    · rename_i hm
      obtain ⟨a, b, c, d⟩ := ih (h + 1) (by omega)
      refine ⟨by omega, b, c, fun k hk hl => ?_⟩
      rcases Nat.eq_or_lt_of_le hk with he | hg
      · rw [← he]; exact hm
      · exact d k hg hl
    · rename_i hm
      exact ⟨Nat.le_refl _, by omega, fun _ => Bool.eq_false_iff.mpr hm, fun k _ _ => by omega⟩

/-- A pass that comes to a handle claims the visit of the first one from there on that SWEEP MASK does not name; 512 when there is none. -/
theorem Settings.nextVisit_spec (v : Settings) {h : Nat} (hh : h ≤ 512) :
    h ≤ v.nextVisit h ∧ v.nextVisit h ≤ 512 ∧ (v.nextVisit h < 512 → v.masked (v.nextVisit h) = false)
      ∧ ∀ k, h ≤ k → k < v.nextVisit h → v.masked k = true :=
  v.unmaskedAmong_spec _ _ (by simp only [Config.handles]; omega)

/-! ## The ONs of a load (R116, R175, R176) -/

/-- The probe unit's answered marks and serial list, which no change of a lane moves. -/
def ProbeUnit.returns (u : ProbeUnit) : Bool × Bool × List Word := (u.answeredA, u.answeredB, u.serials)

theorem State.laneMoved_returns (s : State) (old new : PortState) : (s.laneMoved old new).probe.returns = s.probe.returns := by
  unfold State.laneMoved
  dsimp only
  split
  · rfl
  · split <;> split <;> first | rfl | (rw [State.judgeRing_eq]; rfl)

theorem State.enterState_returns (s : State) (p : Port) (new : PortState) : (s.enterState p new).probe.returns = s.probe.returns := by
  cases p with
  | lane l =>
    unfold State.enterState
    dsimp only
    rw [State.laneMoved_returns, State.flushIfInService_eq]
    rfl
  | bay q => rw [(s.enterState_bay q new).1]

/-- An ON moves an OFF port by its mark, and any other port not at all. -/
theorem State.commandOn_state (s : State) (p : Port) :
    (s.commandOn p).1 = if (s.port p).state = .off then s.enterState p (s.port p).onState else s := by
  unfold State.commandOn
  split <;> rename_i h <;> rw [h] <;> simp only [reduceCtorEq, if_false, if_true]
  show s.movePort p (s.port p).onState = _
  rw [State.movePort_other]
  rw [h]
  unfold PortUnit.onState
  split <;> exact PortState.noConfusion

theorem State.commandOn_moves (s : State) (p : Port) : s.onlyPortsMove (s.commandOn p).1 := by
  rw [State.commandOn_state]
  split
  · exact s.enterState_moves p _
  · rfl

theorem State.commandOn_returns (s : State) (p : Port) : (s.commandOn p).1.probe.returns = s.probe.returns := by
  rw [State.commandOn_state]
  split
  · exact s.enterState_returns p _
  · rfl

theorem State.commandOn_port_other (s : State) {p q : Port} (h : q ≠ p) : (s.commandOn p).1.port q = s.port q := by
  rw [State.commandOn_state]
  split
  · exact s.enterState_port_other _ h
  · rfl

/-- The ONs of a load reach ports, pool, tallies, notices, flags and the probe unit alone. -/
theorem State.turnOnAll_moves (ps : List Port) : ∀ s : State, s.onlyPortsMove (s.turnOnAll ps) := by
  induction ps with
  | nil => exact fun _ => rfl
  | cons p ps ih => exact fun s => State.onlyPortsMove_trans (s.commandOn_moves p) (ih _)

theorem State.turnOnAll_returns (ps : List Port) : ∀ s : State, (s.turnOnAll ps).probe.returns = s.probe.returns := by
  induction ps with
  | nil => exact fun _ => rfl
  | cons p ps ih => exact fun s => (ih _).trans (s.commandOn_returns p)

theorem State.turnOnAll_port_other {q : Port} (ps : List Port) (hq : q ∉ ps) : ∀ s : State, (s.turnOnAll ps).port q = s.port q := by
  induction ps with
  | nil => exact fun _ => rfl
  | cons p ps ih =>
    intro s
    have hp : q ≠ p := fun h => hq (h ▸ List.mem_cons_self)
    exact (ih (fun h => hq (List.mem_cons_of_mem _ h)) _).trans (s.commandOn_port_other hp)

/-- Each OFF port that is given an ON once goes UP or DOWN by its mark. -/
theorem State.turnOnAll_state {q : Port} (ps : List Port) (hn : ps.Nodup) (hq : q ∈ ps) :
    ∀ s : State, (s.port q).state = .off → ((s.turnOnAll ps).port q).state = (s.port q).onState := by
  induction ps with
  | nil => cases hq
  | cons p ps ih =>
    intro s ho
    obtain ⟨hp, hr⟩ := List.nodup_cons.mp hn
    by_cases hqp : q = p
    · subst hqp
      show ((State.turnOnAll (s.commandOn q).1 ps).port q).state = _
      rw [State.turnOnAll_port_other ps hp, State.commandOn_state, if_pos ho, State.enterState_port_same]
      rfl
    · have hs := s.commandOn_port_other hqp
      rcases List.mem_cons.mp hq with he | hm
      · exact absurd he hqp
      · rw [← hs] at ho ⊢
        exact ih hr hm _ ho

/-- The bit of the port enable word for a port (12.5). -/
def enableBit : Port → Nat
  | .lane .a => 0
  | .lane .b => 1
  | .bay .p0 => 2
  | .bay .p1 => 3
  | .bay .p2 => 4
  | .bay .p3 => 5

/-- The ports a port enable word names, each once (R175). -/
theorem enabledPorts_spec (w : Word) : (enabledPorts w).Nodup ∧ ∀ p, p ∈ enabledPorts w ↔ w.getLsbD (enableBit p) = true := by
  unfold enabledPorts
  simp only [List.filterMap_cons, List.filterMap_nil]
  refine ⟨?_, fun p => ?_⟩
  · generalize w.getLsbD 0 = b0, w.getLsbD 1 = b1, w.getLsbD 2 = b2, w.getLsbD 3 = b3, w.getLsbD 4 = b4, w.getLsbD 5 = b5
    revert b0 b1 b2 b3 b4 b5
    decide
  · rcases p with l | q
    · cases l <;> simp only [enableBit] <;>
        generalize w.getLsbD 0 = b0, w.getLsbD 1 = b1, w.getLsbD 2 = b2, w.getLsbD 3 = b3, w.getLsbD 4 = b4, w.getLsbD 5 = b5 <;>
        revert b0 b1 b2 b3 b4 b5 <;> decide
    · cases q <;> simp only [enableBit] <;>
        generalize w.getLsbD 0 = b0, w.getLsbD 1 = b1, w.getLsbD 2 = b2, w.getLsbD 3 = b3, w.getLsbD 4 = b4, w.getLsbD 5 = b5 <;>
        revert b0 b1 b2 b3 b4 b5 <;> decide

/-! ## The standing records (R174) -/

theorem State.installStanding_moves (s : State) (h : Nat) (image : List Byte) :
    s.installStanding h image = { s with
      table := (s.installStanding h image).table
      loader := { s.loader with skipped := (s.installStanding h image).loader.skipped } } := by
  unfold State.installStanding
  split <;> rfl

/-- The standing records reach the table and the skipped count alone. -/
theorem State.installAll_moves (s : State) (store : List Byte) :
    s.installAll store = { s with
      table := (s.installAll store).table, loader := { s.loader with skipped := (s.installAll store).loader.skipped } } := by
  unfold State.installAll
  generalize List.range (recordCount store) = ks
  induction ks generalizing s with
  | nil => rfl
  | cons k ks ih =>
    rw [List.foldl_cons, ih, State.installStanding_moves]

/-! ## The sweep and the probe unit start (R93, R132, R175) -/

/-- The sweep of a part whose load ends now. -/
def State.sweepAtStart (s : State) : Sweep :=
  { s.sweep with position := s.settings.nextVisit 0, periodStart := s.bayClock, periodLength := s.settings.sweepLength }

theorem State.startSweep_eq (s : State) : s.startSweep = { s with sweep := s.sweepAtStart } := rfl

/-- The probe unit at its start, before the ring state is set anew. -/
def State.unitAtStart (s : State) : ProbeUnit :=
  { (if s.settings.node = 0 then s.probe else s.probe.distrust) with
    boundary := some (s.bayClock + milliseconds s.settings.probeInterval) }

theorem State.unitAtStart_spec (s : State) :
    (s.settings.node ≠ 0 → s.unitAtStart.missA = 15 ∧ s.unitAtStart.missB = 15) ∧ s.unitAtStart.returns = s.probe.returns := by
  unfold State.unitAtStart
  refine ⟨fun h => ?_, ?_⟩
  · rw [if_neg h]; exact ⟨rfl, rfl⟩
  · split <;> rfl

theorem State.startProbes_judged (s : State) : s.startProbes = ({ s with probe := s.unitAtStart } : State).judgeRing := rfl

/-- The start of the unit moves the unit and the flags alone: the unit is that at its start, with the ring state of its table (R132, R137). -/
theorem State.startProbes_eq (s : State) :
    s.startProbes = { s with
      probe := { s.unitAtStart with ring := ({ s with probe := s.unitAtStart } : State).ringNow }, flags := s.startProbes.flags } := by
  rw [← State.judgeRing_ring { s with probe := s.unitAtStart } rfl, State.startProbes_judged, State.judgeRing_eq]

/-- At its start no direction is trusted: the ring state is OPEN, or NONE at NODE 0, while PROBE MISS LIMIT lies in its range (R132). -/
theorem State.ringNow_unitAtStart (s : State) (hl : s.settings.probeMissLimit.toNat ≤ 15) :
    ({ s with probe := s.unitAtStart } : State).ringNow = if s.settings.node = 0 then .noRing else .isOpen := by
  unfold State.ringNow
  dsimp only
  by_cases h : s.settings.node = 0
  · rw [if_pos h, if_pos h]
  · obtain ⟨ha, -⟩ := s.unitAtStart_spec.1 h
    rw [if_neg h, if_neg h, ha]
    split
    · rfl
    · exact if_pos (Or.inl hl)

/-- The probe unit at its start: the grid, the miss counts, the returns and the ring state (R132, R137). -/
theorem State.startProbes_probe (s : State) :
    s.startProbes.probe.boundary = some (s.bayClock + milliseconds s.settings.probeInterval)
      ∧ (s.settings.node ≠ 0 → s.startProbes.probe.missA = 15 ∧ s.startProbes.probe.missB = 15)
      ∧ s.startProbes.probe.returns = s.probe.returns
      ∧ (s.settings.probeMissLimit.toNat ≤ 15 → s.startProbes.probe.ring = if s.settings.node = 0 then .noRing else .isOpen) := by
  rw [State.startProbes_eq]
  exact ⟨rfl, s.unitAtStart_spec.1, s.unitAtStart_spec.2, s.ringNow_unitAtStart⟩

theorem State.startProbes_flag (s : State) (f : Flag) (h : s.flag f = true) : s.startProbes.flag f = true := by
  rw [State.startProbes_judged, State.judgeRing_flag]
  show (s.flag f || _) = true
  rw [h]
  rfl

/-- The end of a load: READY and LOADED, the sweep and the probe unit started, and all else as it was (R175, R176). -/
theorem State.endLoad_eq (s : State) (outcome : LoadState) :
    s.endLoad outcome = { s with
      loader := { s.loader with state := outcome }, sweep := s.sweepAtStart
      probe := (s.endLoad outcome).probe, flags := (s.endLoad outcome).flags }
    ∧ (s.endLoad outcome).flag .loaded = true
    ∧ (s.endLoad outcome).probe.boundary = some (s.bayClock + milliseconds s.settings.probeInterval)
    ∧ (s.settings.node ≠ 0 → (s.endLoad outcome).probe.missA = 15 ∧ (s.endLoad outcome).probe.missB = 15)
    ∧ (s.endLoad outcome).probe.returns = s.probe.returns
    ∧ (s.settings.probeMissLimit.toNat ≤ 15 →
        (s.endLoad outcome).probe.ring = if s.settings.node = 0 then .noRing else .isOpen) := by
  obtain ⟨x, hx⟩ : ∃ x : State, x = { s with
    loader := { s.loader with state := outcome }, sweep := s.sweepAtStart, flags := s.flags ||| Flag.loaded.mask } := ⟨_, rfl⟩
  have he : s.endLoad outcome = x.startProbes := by rw [hx]; rfl
  have hf : x.flag .loaded = true := by
    have := State.flag_raise_same s .loaded
    rw [hx]
    exact this
  have hv : x.settings = s.settings := by rw [hx]
  have hb : x.bayClock = s.bayClock := by rw [hx]
  have hp : x.probe = s.probe := by rw [hx]
  obtain ⟨a, b, c, d⟩ := x.startProbes_probe
  rw [hv] at a b d
  rw [hb] at a
  rw [hp] at c
  rw [he]
  refine ⟨?_, x.startProbes_flag _ hf, a, b, c, d⟩
  rw [State.startProbes_eq x, hx]

end Sys2Proof.Machine
end

