-- ==== Sys2Proof/Laws/Sweep.lean ====
section
/-! SUPPORT. What a visit of the supervision sweep, and a one-leg record's frame, do to a record (R69, R82 to R87), said once, and the laws
of one record that they keep. -/

namespace Sys2Proof.Machine

/-! ## The steps of a visit (R82) -/

theorem Record.missAll_eq (es : List TwinEntry) (r : Record) :
    es.foldl (fun t e => t.miss e.awaits) r = { r with
      legA := { r.legA with
        status := (es.foldl (fun t e => t.miss e.awaits) r).legA.status
        misses := (es.foldl (fun t e => t.miss e.awaits) r).legA.misses }
      legB := { r.legB with
        status := (es.foldl (fun t e => t.miss e.awaits) r).legB.status
        misses := (es.foldl (fun t e => t.miss e.awaits) r).legB.misses }
      counters := { r.counters with
        twinMissA := (es.foldl (fun t e => t.miss e.awaits) r).counters.twinMissA
        twinMissB := (es.foldl (fun t e => t.miss e.awaits) r).counters.twinMissB } } := by
  induction es generalizing r with
  | nil => rfl
  | cons e es ih =>
    simp only [List.foldl_cons]
    rw [ih (r.miss e.awaits)]
    cases e.awaits <;> rfl

/-- Misses counted one after another: a leg's consecutive misses rise by the entries that await it and stop at 15, and it is LOST when
one of them brought it to the threshold (R51). -/
theorem Record.missAll_leg (es : List TwinEntry) (r : Record) (l : LegId) :
    ((es.foldl (fun t e => t.miss e.awaits) r).leg l).misses.toNat =
        min 15 ((r.leg l).misses.toNat + es.countP (fun e => decide (e.awaits = l)))
      ∧ ((es.foldl (fun t e => t.miss e.awaits) r).leg l).status =
        if 0 < es.countP (fun e => decide (e.awaits = l)) ∧ r.config.missThreshold.toNat ≤
            ((es.foldl (fun t e => t.miss e.awaits) r).leg l).misses.toNat then .lost else (r.leg l).status := by
  induction es generalizing r with
  | nil =>
    have h : (r.leg l).misses.toNat < 2 ^ 4 := (r.leg l).misses.isLt
    simp only [List.foldl_nil, List.countP_nil, Nat.lt_irrefl, false_and, if_false, and_true]
    omega
  | cons e es ih =>
    obtain ⟨h1, h2⟩ := ih (r.miss e.awaits)
    simp only [List.foldl_cons]
    have hc : (r.miss e.awaits).config = r.config := (r.miss_same e.awaits).2.1
    rw [hc] at h2
    by_cases hl : e.awaits = l
    · have hleg : (r.miss e.awaits).leg l = (r.leg l).miss r.config.missThreshold := by
        rw [hl]; cases l <;> rfl
      rw [hleg] at h1 h2
      have hb : (bump (r.leg l).misses).toNat = min 15 ((r.leg l).misses.toNat + 1) := toNat_bump _
      have hm : ((r.leg l).miss r.config.missThreshold).misses = bump (r.leg l).misses := rfl
      rw [hm, hb] at h1
      have hcount : (e :: es).countP (fun e => decide (e.awaits = l)) = es.countP (fun e => decide (e.awaits = l)) + 1 := by
        rw [List.countP_cons_of_pos (by simpa using hl)]
      rw [hcount]
      refine ⟨by omega, ?_⟩
      rw [h2]
      have hs : ((r.leg l).miss r.config.missThreshold).status =
          if r.config.missThreshold.toNat ≤ (bump (r.leg l).misses).toNat then .lost else (r.leg l).status := rfl
      rw [hs, hb]
      simp only [Nat.succ_pos, true_and]
      split
      · rename_i h; rw [if_pos h.2]
      · rename_i h
        split
        · rename_i h'; rw [if_pos (by omega)]
        · rename_i h'
          rw [if_neg]
          intro hbad
          by_cases hz : 0 < es.countP (fun e => decide (e.awaits = l))
          · exact h ⟨hz, hbad⟩
          · omega
    · have hleg : (r.miss e.awaits).leg l = r.leg l := by
        revert hl
        cases e.awaits <;> cases l <;> intro hl <;> first | rfl | exact absurd rfl hl
      rw [hleg] at h1 h2
      have hcount : (e :: es).countP (fun e => decide (e.awaits = l)) = es.countP (fun e => decide (e.awaits = l)) := by
        rw [List.countP_cons_of_neg (by simpa using hl)]
      rw [hcount]
      exact ⟨h1, h2⟩

/-- Misses counted one after another: the twin-miss counters rise by the entries that await their legs and stop at 0xFFFF (R51). -/
theorem Record.missAll_counters (es : List TwinEntry) (r : Record) :
    (es.foldl (fun t e => t.miss e.awaits) r).counters.twinMissA.toNat =
        min 0xFFFF (r.counters.twinMissA.toNat + es.countP (fun e => decide (e.awaits = .a)))
      ∧ (es.foldl (fun t e => t.miss e.awaits) r).counters.twinMissB.toNat =
        min 0xFFFF (r.counters.twinMissB.toNat + es.countP (fun e => decide (e.awaits = .b))) := by
  induction es generalizing r with
  | nil =>
    have ha : r.counters.twinMissA.toNat < 2 ^ 16 := r.counters.twinMissA.isLt
    have hb : r.counters.twinMissB.toNat < 2 ^ 16 := r.counters.twinMissB.isLt
    simp only [List.foldl_nil, List.countP_nil]
    omega
  | cons e es ih =>
    obtain ⟨h1, h2⟩ := ih (r.miss e.awaits)
    simp only [List.foldl_cons]
    rw [h1, h2]
    cases he : e.awaits
    · have ea : (r.miss .a).counters.twinMissA.toNat = min 0xFFFF (r.counters.twinMissA.toNat + 1) :=
        toNat_bump r.counters.twinMissA
      have eb : (r.miss .a).counters.twinMissB = r.counters.twinMissB := rfl
      rw [ea, eb, List.countP_cons_of_pos (by simp [he]), List.countP_cons_of_neg (by simp [he])]
      omega
    · have ea : (r.miss .b).counters.twinMissA = r.counters.twinMissA := rfl
      have eb : (r.miss .b).counters.twinMissB.toNat = min 0xFFFF (r.counters.twinMissB.toNat + 1) :=
        toNat_bump r.counters.twinMissB
      rw [ea, eb, List.countP_cons_of_neg (by simp [he]), List.countP_cons_of_pos (by simp [he])]
      omega

/-- Step 1 touches the twin list, the legs' statuses and misses, and the twin-miss counters alone (R84). -/
theorem Record.lapseTwins_eq (r : Record) (now : Time) :
    r.lapseTwins now = { r with
      twins := if r.twoLeg then r.twins.filter (fun e => !hasPassed now e.deadline) else r.twins
      legA := { r.legA with status := (r.lapseTwins now).legA.status, misses := (r.lapseTwins now).legA.misses }
      legB := { r.legB with status := (r.lapseTwins now).legB.status, misses := (r.lapseTwins now).legB.misses }
      counters := { r.counters with
        twinMissA := (r.lapseTwins now).counters.twinMissA, twinMissB := (r.lapseTwins now).counters.twinMissB } } := by
  by_cases h : r.twoLeg = true
  · unfold Record.lapseTwins
    simp only [h, if_true]
    rw [Record.missAll_eq]
  · unfold Record.lapseTwins
    simp only [h]
    rfl

/-- Step 2 touches the legs' statuses alone (R85). -/
theorem State.loseLegs_eq (s : State) (r : Record) :
    s.loseLegs r = { r with
      legA := { r.legA with status := (s.loseLegs r).legA.status }
      legB := { r.legB with status := (s.loseLegs r).legB.status } } := by
  have h : ∀ port x, s.legByPort port x = { x with status := (s.legByPort port x).status } := by
    intro port x
    unfold State.legByPort
    split
    · split <;> rfl
    · rfl
  unfold State.loseLegs
  rw [h (r.config.legMode.port .a) r.legA, h (r.config.legMode.port .b) r.legB]

/-- Step 3 touches the state, the twin list, the deadline mark and "silences" alone (R86). -/
theorem Record.judgeDeadline_eq (r : Record) (now : Time) :
    r.judgeDeadline now = { r with
      state := (r.judgeDeadline now).state, twins := (r.judgeDeadline now).twins, running := (r.judgeDeadline now).running
      counters := { r.counters with silences := (r.judgeDeadline now).counters.silences } } := by
  unfold Record.judgeDeadline
  split <;> rfl

/-- A record whose deadline does not lapse goes through step 3 as it is. -/
theorem Record.judgeDeadline_kept (r : Record) (now : Time) (h : (r.state.arriving && r.running && hasPassed now r.deadline) = false) :
    r.judgeDeadline now = r := by
  simp [Record.judgeDeadline, h]

/-- Step 4 and the attention mark touch the state and that mark alone (R87). -/
theorem State.visitRecord_eq (s : State) (r : Record) :
    s.visitRecord r = { s.visitSteps r with
      state := (s.visitState r).state, inAttention := (s.visitRecord r).inAttention } := by
  unfold State.visitRecord State.visitState
  dsimp only
  split <;> rfl

/-- Steps 1 to 3 together: of the record they keep the configuration, the flags, the window, the deadline and the send counter. -/
theorem State.visitSteps_kept (s : State) (r : Record) :
    (s.visitSteps r).config = r.config ∧ (s.visitSteps r).inAttention = r.inAttention ∧ (s.visitSteps r).held = r.held := by
  unfold State.visitSteps
  rw [Record.judgeDeadline_eq, State.loseLegs_eq, Record.lapseTwins_eq]
  exact ⟨rfl, rfl, rfl⟩

/-- A visit keeps the laws of the record it judges. -/
theorem State.visitRecord_lawful (s : State) (r : Record) (hl : r.lawful = true) (ho : r.state.occupied = true) :
    (s.visitRecord r).lawful = true := by
  simp only [Record.lawful, Bool.and_eq_true] at hl
  obtain ⟨⟨⟨⟨⟨-, hdl⟩, hsl⟩, htl⟩, hol⟩, hfit⟩ := hl
  simp only [Record.twinsLawful, Bool.and_eq_true, decide_eq_true_eq, Bool.or_eq_true, List.isEmpty_iff] at htl
  obtain ⟨⟨ht4, htn⟩, hte⟩ := htl
  generalize hm : s.loseLegs (r.lapseTwins s.bayClock) = m
  have hms : m.state = r.state ∧ m.config = r.config ∧ m.running = r.running ∧ m.deadline = r.deadline ∧ m.twins.Sublist r.twins := by
    rw [← hm, State.loseLegs_eq, Record.lapseTwins_eq]
    refine ⟨rfl, rfl, rfl, rfl, ?_⟩
    dsimp only
    split
    · exact List.filter_sublist
    · exact List.Sublist.refl _
  obtain ⟨m1, m2, m3, -, m5⟩ := hms
  have hsteps : s.visitSteps r = m.judgeDeadline s.bayClock := by rw [← hm]; rfl
  have hdl := eq_of_beq hdl
  -- the record after step 3: lapsed to SILENT, or as step 2 left it
  have hcase : (m.judgeDeadline s.bayClock = m) ∨ ((m.judgeDeadline s.bayClock).state = .silent
      ∧ (m.judgeDeadline s.bayClock).twins = [] ∧ (m.judgeDeadline s.bayClock).running = false) := by
    unfold Record.judgeDeadline
    split
    · exact .inr ⟨rfl, rfl, rfl⟩
    · exact .inl rfl
  have hjl : (m.judgeDeadline s.bayClock).legA = m.legA ∧ (m.judgeDeadline s.bayClock).legB = m.legB
      ∧ (m.judgeDeadline s.bayClock).config = r.config := by
    rw [Record.judgeDeadline_eq]; exact ⟨rfl, rfl, m2⟩
  have hv : (s.visitRecord r).state = (s.visitState r).state := rfl
  have hvs : (s.visitState r).state =
      if (s.visitSteps r).state.arriving && legsDiffer r (s.visitSteps r) then (s.visitSteps r).stateAnew
      else (s.visitSteps r).state := by
    unfold State.visitState
    dsimp only
    split <;> rfl
  have hcfg : (s.visitRecord r).config = r.config := by rw [State.visitRecord_eq]; exact (s.visitSteps_kept r).1
  have hrun : (s.visitRecord r).running = (s.visitSteps r).running := by rw [State.visitRecord_eq]
  have htw : (s.visitRecord r).twins = (s.visitSteps r).twins := by rw [State.visitRecord_eq]
  have hla : (s.visitRecord r).legA = m.legA ∧ (s.visitRecord r).legB = m.legB := by
    rw [State.visitRecord_eq, hsteps]; exact ⟨hjl.1, hjl.2.1⟩
  have hanew : (s.visitRecord r).stateAnew = (s.visitSteps r).stateAnew := by
    refine Record.stateAnew_congr ?_ ?_ ?_
    · rw [hcfg, hsteps, hjl.2.2]
    · rw [hla.1, hsteps, hjl.1]
    · rw [hla.2, hsteps, hjl.2.1]
  have harr : (s.visitRecord r).state.arriving = (s.visitSteps r).state.arriving := by
    rw [hv, hvs]
    split
    · rename_i h
      rw [(s.visitSteps r).stateAnew_arriving, (Bool.and_eq_true_iff.mp h).1]
    · rfl
  have hocc : (s.visitRecord r).state.occupied = true := by
    rw [hv, hvs]
    split
    · unfold Record.stateAnew; split <;> rfl
    · rw [hsteps]
      rcases hcase with h | h
      · rw [h, m1]; exact ho
      · rw [h.1]; rfl
  simp only [Record.lawful, Bool.and_eq_true]
  refine ⟨⟨⟨⟨⟨?_, ?_⟩, ?_⟩, ?_⟩, ?_⟩, ?_⟩
  · simp only [Record.presenceLawful, hocc, Bool.or_true, Bool.and_true, Bool.or_eq_true, bne_iff_ne, ne_eq]
    left
    intro h
    rw [h] at hocc
    simp [RecState.occupied] at hocc
  · simp only [Record.deadlineLawful, beq_iff_eq]
    rw [harr, hrun, hsteps]
    rcases hcase with h | h
    · rw [h, m1, m3]; exact hdl
    · rw [h.1, h.2.2]; rfl
  · simp only [Record.stateLawful, Bool.or_eq_true, Bool.not_eq_true', beq_iff_eq]
    rw [hanew, harr, hv, hvs]
    by_cases ha : (s.visitSteps r).state.arriving = true
    · right
      by_cases hd : legsDiffer r (s.visitSteps r) = true
      · simp [ha, hd]
      · have hd' : legsDiffer r (s.visitSteps r) = false := by simpa using hd
        have hs := legsDiffer_false hd'
        simp only [hd', Bool.and_false, Bool.false_eq_true, if_false]
        have hk : m.judgeDeadline s.bayClock = m := by
          rcases hcase with h | h
          · exact h
          · rw [hsteps, h.1] at ha; simp [RecState.arriving] at ha
        have hst : (s.visitSteps r).state = r.state := by rw [hsteps, hk, m1]
        rw [hst] at ha ⊢
        simp only [Record.stateLawful, ha, Bool.not_true, Bool.false_or] at hsl
        rw [Record.stateAnew_congr (s.visitSteps_kept r).1 hs.1 hs.2]
        exact eq_of_beq hsl
    · left
      simpa using ha
  · simp only [Record.twinsLawful, Bool.and_eq_true, decide_eq_true_eq, Bool.or_eq_true, List.isEmpty_iff]
    rw [htw, harr, hsteps]
    rcases hcase with h | h
    · rw [h, m1]
      refine ⟨⟨Nat.le_trans m5.length_le ht4, htn.sublist (m5.map _)⟩, ?_⟩
      rcases hte with hte | hte
      · exact .inl hte
      · rw [hte] at m5; exact .inr (List.sublist_nil.mp m5)
    · rw [h.2.1]
      exact ⟨⟨Nat.zero_le _, List.nodup_nil⟩, .inr rfl⟩
  · by_cases h2 : r.twoLeg = true
    · have : (s.visitRecord r).twoLeg = true := by rw [Record.twoLeg, hcfg]; exact h2
      simp [Record.oneLegLawful, this]
    · have h2' : r.twoLeg = false := by simpa using h2
      simp only [Record.oneLegLawful, h2', Bool.false_or, Bool.and_eq_true, List.isEmpty_iff, beq_iff_eq] at hol
      have hk : r.lapseTwins s.bayClock = r := by simp [Record.lapseTwins, h2']
      rw [hk] at hm
      have hkind : r.config.kind = .originatedSingle := by simpa [Record.twoLeg] using h2'
      have hport : r.config.legMode.port .b = none := by
        simp only [StreamConfig.legModeFits, hkind] at hfit
        cases hmode : r.config.legMode <;> rw [hmode] at hfit <;> simp_all [LegMode.port]
      have hb : m.legB = r.legB := by rw [← hm]; simp [State.loseLegs, hport, State.legByPort]
      have ha : m.legA.misses = r.legA.misses := by rw [← hm, State.loseLegs_eq]
      have ht : (s.visitRecord r).twins = [] := by
        rw [htw, hsteps]
        rcases hcase with h | h
        · rw [h]; rw [hol.1.1] at m5; exact List.sublist_nil.mp m5
        · exact h.2.1
      simp only [Record.oneLegLawful, Bool.or_eq_true, Bool.and_eq_true, List.isEmpty_iff, beq_iff_eq]
      right
      rw [ht, hla.1, hla.2, ha, hb]
      exact ⟨⟨rfl, hol.1.2⟩, hol.2⟩
  · rw [hcfg]; exact hfit

/-! ## A one-leg record's frame (R68, R69) -/

/-- The bookkeeping of a one-leg record keeps its laws, whatever its copies came to: `counted` is the record after R66 and R68. -/
theorem Record.frame_lawful (r counted : Record) (arrival : Time) (hl : r.lawful = true) (ho : r.state.occupied = true)
    (hk : r.config.kind = .originatedSingle)
    (hc : counted = { r.takeFrame arrival with sendCounter := counted.sendCounter, counters := counted.counters }) :
    (counted.settleSingle r).lawful = true := by
  simp only [Record.lawful, Bool.and_eq_true] at hl
  obtain ⟨⟨⟨⟨⟨-, -⟩, hsl⟩, -⟩, hol⟩, hfit⟩ := hl
  have h2 : r.twoLeg = false := by simp [Record.twoLeg, hk]
  simp only [Record.oneLegLawful, h2, Bool.false_or, Bool.and_eq_true, List.isEmpty_iff, beq_iff_eq] at hol
  have hanew : ∀ t : Record, t.config = r.config → t.stateAnew = .live := by
    intro t h
    simp [Record.stateAnew, Record.twoLeg, h, hk]
  have hcs : counted.state = r.state ∧ counted.config = r.config ∧ counted.running = true ∧ counted.twins = r.twins
      ∧ counted.legA.misses = r.legA.misses ∧ counted.legB = r.legB := by
    rw [hc]; exact ⟨rfl, rfl, rfl, rfl, rfl, rfl⟩
  obtain ⟨c1, c2, c3, c4, c5, c6⟩ := hcs
  have hstate : (counted.settleSingle r).state = .live := by
    show counted.stateAfter (legsDiffer r counted) true = .live
    have ha := hanew counted c2
    have hr := hanew r rfl
    unfold Record.stateAfter
    rw [c1, ha]
    simp only [Record.stateLawful, hr, Bool.or_eq_true, Bool.not_eq_true', beq_iff_eq] at hsl
    revert ho hsl
    generalize r.state = st
    cases st <;> simp [RecState.occupied, RecState.arriving]
  have hrest : (counted.settleSingle r).config = r.config ∧ (counted.settleSingle r).running = true
      ∧ (counted.settleSingle r).twins = [] ∧ (counted.settleSingle r).legA.misses = 0
      ∧ (counted.settleSingle r).legB = Leg.zero := by
    exact ⟨c2, c3, c4.trans hol.1.1, c5.trans hol.1.2, c6.trans hol.2⟩
  obtain ⟨r1, r2, r3, r4, r5⟩ := hrest
  simp [Record.lawful, Record.presenceLawful, Record.deadlineLawful, Record.stateLawful, Record.twinsLawful, Record.oneLegLawful,
    hstate, r1, r2, r3, r4, r5, RecState.occupied, RecState.arriving, hanew _ r1, hfit]

end Sys2Proof.Machine
end

