-- ==== Sys2Proof/Tests/Slice0.lean ====
section
/-! SUPPORT. The model's own tests: ill-formed terms, check values, the spec's worked examples, and for each statement that has
hypotheses a state that meets them, clause by clause at the boundary values. -/

namespace Sys2Proof.Tests

set_option Elab.async false

open Sys2Proof Sys2Proof.Machine

/-! ## Well-formed terms: one ill-formed term for each check -/

theorem test_transfer_of_no_part_size_refused :
    (Instr.transfer (.acknowledged [0, 0, 0])).wellFormed = false ∧ (Instr.transfer (.acknowledged [0, 0])).wellFormed = true := by
  decide

theorem test_empty_reception_refused :
    (Instr.frameReception (.lane .a) []).wellFormed = false ∧ (Instr.frameReception (.lane .a) [0]).wellFormed = true := by decide

theorem test_setting_write_of_own_row_refused :
    (Instr.settingWrite (.whole (0x0B, 1))).wellFormed = false ∧ (Instr.settingWrite (.whole (0x0A, 1))).wellFormed = true := by
  decide

theorem test_known_command_byte_as_unknown_refused :
    (Instr.unknownCommand (.commandByte 0x3F)).wellFormed = false ∧ (Instr.unknownCommand (.commandByte 0x3E)).wellFormed = true := by
  decide

theorem test_known_port_action_as_unknown_refused :
    (Instr.unknownCommand (.portAction 0 4)).wellFormed = false ∧ (Instr.unknownCommand (.portAction 0 5)).wellFormed = true := by
  decide

/-! ## Command frames and table words -/

theorem test_command_frames_read :
    commandOfFrame [0x10, 0x00, 0x28] = .install (.whole 40) ∧ commandOfFrame [0x05, 0x0B, 0x00, 0x81] = .freezeWrite 0x81
      ∧ commandOfFrame [0x05, 0x02, 0x00, 0x3F] = .settingWrite (.whole (2, 63)) ∧ commandOfFrame [0x05, 0x02, 0x00] = .settingWrite .cut
      ∧ commandOfFrame [0x20, 0x01, 0x01] = .portReadClear 1 ∧ commandOfFrame [0x21, 0x00, 0x02] = .prove 0
      ∧ commandOfFrame [0x21, 0x00, 0x05] = .unknownCommand (.portAction 0 5) ∧ commandOfFrame [] = .unknownCommand .noByte := by
  decide

theorem test_table_words_spell_nothing : decodeTableWord 0 0 = none ∧ State.reset.withFetchWord 16 7 = State.reset := by decide

/-! ## Check values and layouts -/

/-- The ASCII text "123456789", the usual check message of a CRC. -/
def checkText : List Byte := [0x31, 0x32, 0x33, 0x34, 0x35, 0x36, 0x37, 0x38, 0x39]

/-- The check value of this CRC-8, 0xF4, and of the Ethernet FCS, 0xCBF43926, least significant byte first. -/
theorem test_crc_check_values : crc8 checkText = 0xF4 ∧ fcsBytes checkText = [0x26, 0x39, 0xF4, 0xCB] := by decide +kernel

/-- A tag of key (9, 70): the layout of 12.2 written out by hand. -/
def tag70 (hops : BitVec 6) (seq : Word) : Tag :=
  { cls := .trip, origin := 9, hops := hops, epoch := 2, stream := 70, seq := seq, renewal := 0 }

theorem test_tag_bytes : (tag70 12 0x1234).covered = [0x09, 0x30, 0x80, 0x46, 0x12, 0x34, 0x00] := by decide

/-- A frame of 64 bytes with this tag. -/
def frameOf (t : Tag) : List Byte := makeFrame [0x01, 0x0C, 0xCD, 0x01, 0x00, 0x01] 9 0x9B1E t []

/-- An untagged frame of 64 bytes. -/
def plainFrame : List Byte := withFcs (List.replicate 60 0xAA)

theorem test_frame_passes_the_intake_checks :
    (frameOf (tag70 12 7)).length = 64 ∧ lengthAndFcsPass (frameOf (tag70 12 7)) 1536 = true
      ∧ tagValid (frameOf (tag70 12 7)) = true ∧ tagOf (frameOf (tag70 12 7)) = tag70 12 7
      ∧ rewriteHops 11 (frameOf (tag70 12 7)) = frameOf (tag70 11 7)
      ∧ removeTag (insertTag 0x9B1E (tag70 12 7) plainFrame) = plainFrame := by decide +kernel

/-- One's-complement addition adds the carry back in (R172). -/
theorem test_ones_complement_sum : onesSum [0xFF, 0xFF, 0x00, 0x01] = 1 ∧ onesSum [0x80, 0x00, 0x80, 0x01] = 2 := by decide

/-! ## Small states -/

/-- A port in service. -/
def unitUp : PortUnit := { PortUnit.reset true with state := .up }

/-- A loaded part of node 5, every port but P3 UP, the ring closed. -/
def running : State :=
  { State.reset with
    settings := { Settings.reset with node := 5 }
    loader := { Loader.reset with state := .loaded }
    sweep := { Sweep.reset with periodLength := 500 }
    probe := { ProbeUnit.reset with ring := .closed, boundary := some 10000 }
    ports := ⟨unitUp, unitUp, unitUp, unitUp, unitUp, .reset true⟩ }

/-- The part with another state of one port. -/
def portIn (st : PortState) (p : Port) (s : State) : State := s.modPort p (fun u => { u with state := st })

/-- The part with a frame at the head of a port's receive store. -/
def arrived (p : Port) (frame : List Byte) (s : State) : State :=
  s.modPort p (fun u => { u with store := [{ bytes := frame, arrival := 1000, inProving := false, maxFrame := 1536 }] })

/-- The frame that `arrived` puts there. -/
def rx (frame : List Byte) : RxFrame := { bytes := frame, arrival := 1000, inProving := false, maxFrame := 1536 }

/-- A claim waits for that frame. -/
def claimed (p : Port) (c : IntakeClaim) (s : State) : State := s.modPort p (fun u => { u with claim := some c })

/-- A SUBSCRIBED configuration of key (9, 70), delivered to P0. -/
def config70 : StreamConfig :=
  { StreamConfig.zero with origin := 9, stream := 70, delivery := 1, missThreshold := 3, renewalLimit := 100, twinWindow := 20 }

/-- Its staging image (12.3). -/
def image70 : List Byte := [0x00, 0x09, 0x00, 0x46, 0x13, 0x00, 0x64, 20] ++ List.replicate 24 0

theorem test_staging_image_presents_the_configuration :
    presented running.settings image70 = some config70 ∧ configBytes config70 = image70.take 18 := by decide

/-- A LIVE record of that key, H = 100 marked seen. -/
def live70 : Record :=
  { Record.free with
    state := .live, config := config70, highest := 100, seen := 1, epoch := 2, deadline := 5000, running := true
    legA := ⟨900, .ok, 0⟩, legB := ⟨900, .ok, 0⟩ }

/-- An arrival on leg A with the record's epoch. -/
def arrival (seq : Word) : Arrival := { leg := .a, seq := seq, epoch := 2, renewal := 0, time := 1000 }

/-- The part with a record at handle 70 and a frame of its key waiting for its lookup on Lane A. -/
def offered (r : Record) (frame : List Byte) : State :=
  claimed (.lane .a) .lookup (arrived (.lane .a) frame { running with table := [(70, r)] })

/-- The lookup of the port's frame is granted and finds a record that takes it, as a Bool. -/
def takes (s : State) (p : Port) (f : RxFrame) (h : Nat) : Bool :=
  s.granted p .lookup && (s.port p).store.head? == some f && s.findKey (tagOf f.bytes).origin (tagOf f.bytes).stream == some h
    && (match p with
      | .lane _ => (s.record h).config.kind == .subscribed
      | .bay q => (s.record h).config.isPair q.pair)

theorem lookupTakes_of_takes (s : State) (p : Port) (f : RxFrame) (h : Nat) (ht : takes s p f h = true) : s.lookupTakes p f h := by
  unfold takes at ht
  unfold State.lookupTakes
  cases p <;> simpa [and_assoc] using ht

/-- A timed operation in flight at its turn. -/
def inFlight (kind : TimedKind) (h : Word) (copy : List Byte) (s : State) : State := { s with inFlight := some ⟨kind, h, copy⟩ }

theorem timedTurn_of_turn (s : State) (o : TimedOp) (ht : s.turn = .timed) (ho : s.inFlight = some o) :
    s.timedTurn o.kind o.handle.toNat o.copy := ⟨ht, o, ho, rfl, rfl, rfl⟩

/-- Does this outcome answer a next state with this property? -/
def answers (o : Host.Outcome State Fault Refusal) (p : State → Bool) : Bool :=
  match o with
  | .next t => p t
  | .fault _ => false
  | .refused _ => false

/-! ## The step and the queue: witnesses -/

theorem test_step_runs_the_front_command :
    answers (step { running with pending := [.ringRead, .statusRead] })
      (fun t => t.pending == [.statusRead] && t.spiOut.take 3 == [0x80, 1, 0]) = true := by decide +kernel

theorem test_idle_step_cases :
    running.pending = [] ∧ State.sweepDue { running with bayClock := 500 } = true
      ∧ State.sweepDue { running with bayClock := 499 } = false
      ∧ (State.probeDue { running with bayClock := 10000, sweep := { running.sweep with periodStart := 9900 } }).isSome = true
      ∧ State.sweepDue { running with bayClock := 10000, sweep := { running.sweep with periodStart := 9900 } } = false
      ∧ (portIn .proving (.lane .a) running).provingDue .a = true ∧ (portIn .proving (.lane .b) running).provingDue .b = true
      ∧ (portIn .proving (.lane .b) running).provingDue .a = false ∧ running.probeDue = none
      ∧ step running = .next { running with bayClock := 1 } := by
  refine ⟨rfl, ?_, ?_, ?_, ?_, ?_, ?_, ?_, ?_, rfl⟩ <;> decide

theorem test_events_without_an_occasion :
    (∀ l, running.nextFrame (.lane l) = none) ∧ (∀ p, running.nextFrame (.bay p) = none)
      ∧ (∀ p, running.granted p .lookup = false) ∧ running.turn = .idle ∧ running.noticeTurn = none ∧ running.visitTurn = false ∧ running.sweepDue = false ∧ running.probeDue = none
      ∧ (∀ l, running.provingDue l = false) ∧ (running.port (.lane .a)).sending = none ∧ running.resetHeld = false
      ∧ running.reading = false := by
  refine ⟨fun l => ?_, fun p => ?_, fun p => ?_, by decide, by decide, by decide, by decide, by decide, fun l => ?_, rfl, rfl, rfl⟩
  · cases l <;> rfl
  · cases p <;> rfl
  · rcases p with l | q
    · cases l <;> decide
    · cases q <;> decide
  · cases l <;> decide

theorem test_command_with_a_frame :
    (Instr.settingWrite (.whole (0x14, 15))).wellFormed = true
      ∧ frameOfCommand (.settingWrite (.whole (0x14, 15))) = some [0x05, 0x14, 0x00, 0x0F] := by decide

/-! ## Starts and the image load: witnesses -/

theorem test_reset_pin_held : State.resetHeld { State.reset with resetHeld := true } = true := rfl

theorem test_tries_of_a_transfer :
    State.reset.loader.state = .reading ∧ State.reset.resetHeld = false ∧ State.reset.loader.tried = 1
      ∧ Loader.tried { Loader.reset with retrying := true, tries := 1 } = 2
      ∧ Loader.tried { Loader.reset with retrying := true, tries := 2 } = 3 ∧ (State.reset.port (.lane .a)).state = .off := by decide

/-- An image header (12.5) with this number of standing records. -/
def header (n : Byte) : List Byte := [0x42, 0x57, 0x36, 0x32, 0x00, n, 0x00, 0x01]

theorem test_part_sizes_and_headers :
    partSize [] = 8 ∧ partSize (header 1) = 46 ∧ partSize (header 1 ++ List.replicate 46 0) = 34
      ∧ partSize (header 0 ++ List.replicate 46 0) = 2 ∧ partSize (header 1 ++ List.replicate 80 0) = 2
      ∧ headerPasses (header 64) = true ∧ headerPasses (header 65) = false := by decide

/-- A settings block (12.5): the reset values but NODE 5 and this SWEEP MASK, and a port enable word that names the two lanes. -/
def block5 (mask : Word) : List Byte :=
  ([5, 0, 40, 0x9B1E, 0x01B6, 0x2E00, 0x0001, 10, 3, 1, mask] ++ [0, 0, 0, 0, 1536, 32, 64, 32, 16, 8, 0x01FF, 0x0003] : List Word).flatMap
    wordBytes

/-- The load has come to the checksum. -/
def atChecksum : State := { State.reset with loader := { Loader.reset with store := header 0 ++ block5 0, tries := 1 } }

theorem test_checksum_transfer_cases :
    atChecksum.loader.state = .reading ∧ partSize atChecksum.loader.store = 2
      ∧ (blockSettings (atChecksum.loader.store ++ wordBytes (onesSum atChecksum.loader.store))).blockPasses = true
      ∧ onesSum atChecksum.loader.store ≠ 0
      ∧ answers (exec (.transfer (.acknowledged (wordBytes (onesSum atChecksum.loader.store)))) atChecksum)
          (fun t => t.loader.state == .loaded && t.settings.node == 5 && (t.port (.lane .b)).state == .down) = true := by decide +kernel

/-- At time 7 the load has come to the checksum of an image with this SWEEP MASK and three standing records: one that passes, one of the
same key, and one whose handle is 512. -/
def atChecksum3 (mask : Word) : State :=
  { State.reset with
    bayClock := 7
    loader := { Loader.reset with
      store := header 3 ++ block5 mask ++ (wordBytes 70 ++ image70) ++ (wordBytes 71 ++ image70) ++ (wordBytes 512 ++ image70), tries := 1 } }

/-- The records stand as the image's order gives them; the sweep begins a pass and the probe unit its grid at the clock's reading, also
when the checksum fails (R93, R132, R174, R175). -/
theorem test_loaded_image_starts_the_sweep_and_the_probe_unit :
    let last (mask : Word) : Instr := .transfer (.acknowledged (wordBytes (onesSum (atChecksum3 mask).loader.store)))
    answers (exec (last 1) (atChecksum3 1)) (fun t =>
        t.table == [(70, Record.installed config70)] && t.loader.skipped == 2 && t.loader.state == .loaded
          && t.sweep == { Sweep.reset with position := 64, periodStart := 7, periodLength := 500 }
          && t.probe == { ProbeUnit.reset with ring := .isOpen, missA := 15, missB := 15, boundary := some 10007 }) = true
      ∧ answers (exec (last 0) (atChecksum3 0)) (fun t => t.sweep.position == 0) = true
      ∧ answers (exec (last 0xFF) (atChecksum3 0xFF)) (fun t => t.sweep.position == 512) = true
      ∧ answers (exec (.transfer (.acknowledged [0, 0])) (atChecksum3 1)) (fun t =>
        t.loader.state == .failed && t.table == [] && t.sweep == { Sweep.reset with position := 0, periodStart := 7, periodLength := 500 }
          && t.probe == { ProbeUnit.reset with boundary := some 10007 }) = true := by decide +kernel

theorem test_standing_record_cases :
    (State.record { running with table := [(70, live70)] } 511).state = .free ∧ presented running.settings image70 = some config70
      ∧ running.keyHeld 9 70 = false ∧ State.keyHeld { running with table := [(70, live70)] } 9 70 = true
      ∧ presented running.settings (List.replicate 32 0) = none := by decide

/-! ## Ports: witnesses -/

theorem test_link_event_states :
    ((portIn .down (.lane .a) running).port (.lane .a)).state = .down ∧ (running.port (.bay .p0)).state = .up
      ∧ ((portIn .proving (.lane .b) running).port (.lane .b)).state = .proving ∧ (running.port (.bay .p3)).state = .off
      ∧ ((portIn .isolated (.bay .p1) running).port (.bay .p1)).state = .isolated := by decide

/-- Seven recent flaps: the eighth isolates the port, at FLAP LIMIT 8; an entry a second old does not count (R120). -/
theorem test_flap_limit :
    flapState 8 7 = .isolated ∧ flapState 8 6 = .down ∧ flapState 0 15 = .down
      ∧ recentFlaps 1000000 [0, 1] = [1] ∧ (appendFlap (List.replicate 15 0) 9).length = 15 := by decide

theorem test_port_command_cases :
    running.ready = true ∧ portOfNumber 5 = some (.bay .p3) ∧ portOfNumber 0 = some (.lane .a) ∧ portOfNumber 6 = none
      ∧ (running.port (.lane .a)).state = .up ∧ running.settings.node ≠ 0 ∧ running.freeCells = 384
      ∧ running.settings.queueCapTrip ≠ 0 := by decide

/-- PROVE: the first proving frame is in transmission and counted. -/
theorem test_prove_sends_a_first_frame :
    answers (exec (.prove 0) running) (fun t => (t.port (.lane .a)).state == .proving && (t.provingOf .a).sent == 1
      && t.pool.length == 1 && t.probe.ring == .isOpen && t.probe.missA == 15) = true := by decide +kernel

theorem test_reception_under_way :
    answers (exec (.frameReceptionStart (.bay .p0)) running) (fun t => (t.port (.bay .p0)).underWay) = true
      ∧ answers (exec (.frameReceptionStart (.bay .p3)) running) (fun t => !(t.port (.bay .p3)).underWay) = true := by decide +kernel

/-! ## Intakes: witnesses -/

/-- A frame with a wrong last byte. -/
def brokenFrame : List Byte := List.replicate 64 0

theorem test_lane_intake_cases :
    (arrived (.lane .a) brokenFrame running).nextFrame (.lane .a) = some (rx brokenFrame) ∧ fcsMatches brokenFrame = false
      ∧ fcsMatches plainFrame = true ∧ typeWordOf plainFrame ≠ 0x9B1E
      ∧ tagValid (frameOf { tag70 12 7 with origin := 61 }) = false ∧ tagValid (frameOf { tag70 12 7 with origin := 60 }) = true
      ∧ running.settings.ownOrigin 9 = false ∧ running.settings.ownOrigin 5 = true
      ∧ (frameOf (tag70 0 7)).length = 64 ∧ (tagOf (frameOf (tag70 0 7))).hops = 0 := by decide +kernel

/-- A probe of a node with this serial (12.2). -/
def probeOf (origin : BitVec 6) (hops : BitVec 6) (limit : Byte) (serial : Word) : List Byte :=
  makeFrame running.settings.probeGroup (origin.setWidth 8) 0x9B1E
    { cls := .probe, origin := origin, hops := hops, epoch := 0, stream := 16383, seq := serial, renewal := 0 }
    (wordBytes serial ++ [limit, 1, 2, 2])

/-- A proving frame of a node (12.2). -/
def provingOf (origin : BitVec 6) (hops : BitVec 6) : List Byte :=
  makeFrame running.settings.probeGroup (origin.setWidth 8) 0x9B1E
    { cls := .probe, origin := origin, hops := hops, epoch := 0, stream := 16382, seq := 0, renewal := 0 }
    (0 :: timeBytes 900)

theorem test_probe_return_cases :
    tagValid (probeOf 5 63 63 8) = true ∧ lengthAndFcsPass (probeOf 5 63 63 8) 1536 = true
      ∧ isTagged 0x9B1E (probeOf 5 63 63 8) = true ∧ (tagOf (probeOf 5 63 63 8)).stream = 16383
      ∧ wordAt (probeOf 5 63 63 8) 22 = 8 ∧ 8 ∉ running.probe.serials
      ∧ (portIn .down (.lane .b) (running.modProbe (fun u => { u with serials := [8] }))).lanesUp = false
      ∧ answers (exec (.laneIntake .b) (arrived (.lane .b) (probeOf 5 63 63 8)
          (running.modProbe (fun u => { u with serials := [8], missA := 2, ring := .suspect }))))
          (fun t => t.probe.missA == 0 && t.probe.answeredA && t.probe.ring == .closed && t.flag .ring) = true := by decide +kernel

theorem test_proving_frame_cases :
    tagValid (provingOf 5 0) = true ∧ lengthAndFcsPass (provingOf 5 0) 1536 = true ∧ (tagOf (provingOf 5 0)).stream = 16382
      ∧ answers (exec (.laneIntake .a) ((portIn .proving (.lane .a) running).modPort (.lane .a) (fun u =>
          { u with store := [{ rx (provingOf 5 0) with inProving := true }] })))
          (fun t => (t.provingOf .a).returned == 1 && (t.provingOf .a).lastTrip == 100) = true
      ∧ answers (exec (.laneIntake .a) (arrived (.lane .a) (provingOf 9 1) running))
          (fun t => (t.port (.lane .a)).sending == some ⟨0, .hopsRewritten 0, none⟩) = true := by decide +kernel

/-- Another node's probe at both ends of the hop limit's range: distances 1 and 64. -/
theorem test_probe_from_another_node :
    answers (exec (.laneIntake .a) (arrived (.lane .a) (probeOf 9 63 63 8) running))
        (fun t => (t.rosterEntry 9).heardA == some ⟨1000, 1⟩ && (t.rosterEntry 9).laneB == .up && t.flag .roster) = true
      ∧ answers (exec (.laneIntake .b) (arrived (.lane .b) (probeOf 9 0 63 8) running))
        (fun t => (t.rosterEntry 9).heardB == some ⟨1000, 64⟩) = true
      ∧ answers (exec (.laneIntake .a) (arrived (.lane .a) (probeOf 9 2 1 8) running))
        (fun t => t.rosterEntry 9 == RosterEntry.absent) = true
      ∧ answers (exec (.laneIntake .a) (arrived (.lane .a) (probeOf 9 1 1 8) running))
        (fun t => (t.rosterEntry 9).heardA == some ⟨1000, 1⟩) = true := by decide +kernel

theorem test_transit_only_node :
    answers (exec (.laneIntake .a) (arrived (.lane .a) (frameOf (tag70 1 7)) { running with settings := Settings.reset }))
        (fun t => (t.port (.lane .b)).sending == some ⟨0, .hopsRewritten 0, none⟩ && (t.port (.lane .a)).claim.isNone) = true := by
  decide +kernel

/-- Pair 0 enabled with ATTACHED NODE 9. -/
def paired : State :=
  { running with settings := { running.settings with pairEnable := 1, attachedNode0 := 9 } }

theorem test_bay_intake_cases :
    running.settings.paired .p0 = false ∧ paired.settings.paired .p0 = true ∧ paired.settings.paired .p2 = false
      ∧ (arrived (.bay .p0) plainFrame running).nextFrame (.bay .p0) = some (rx plainFrame)
      ∧ answers (exec (.bayIntake .p0) (arrived (.bay .p0) plainFrame running)) (fun t => (t.port (.bay .p0)).claim == some .search) = true
      ∧ answers (exec (.bayIntake .p0) (arrived (.bay .p0) (frameOf (tag70 1 7)) paired))
          (fun t => (t.port (.bay .p0)).claim == some .lookup) = true
      ∧ answers (exec (.bayIntake .p0) (arrived (.bay .p0) (frameOf { tag70 1 7 with origin := 10 }) paired))
          (fun t => (t.port (.bay .p0)).counters.unexpectedTag == 1) = true := by decide +kernel

/-! ## Windows and grants of arrivals: witnesses and the spec's example -/

theorem test_placement_at_the_bounds :
    (live70.resyncs (arrival 100) = false ∧ live70.place (arrival 100) = .duplicate)
      ∧ { live70 with seen := 0 }.place (arrival 100) = .atTop ∧ live70.place (arrival 101) = .advance
      ∧ live70.place (arrival 1124) = .advance ∧ live70.place (arrival 1125) = .wild ∧ live70.place (arrival (100 - 64)) = .wild
      ∧ live70.place (arrival (100 - 63)) = .late ∧ { live70 with seen := 1#64 <<< 63 }.place (arrival (100 - 63)) = .duplicate := by
  decide

theorem test_resynchronising_arrivals :
    { live70 with state := .armed }.place (arrival 100) = .resync ∧ { live70 with noHighest := true }.place (arrival 100) = .resync
      ∧ live70.place { arrival 100 with epoch := 3 } = .resync ∧ { live70 with state := .silent }.place (arrival 101) = .resync
      ∧ { live70 with state := .silent }.place (arrival 100) = .duplicate
      ∧ { live70 with wildCount := 3 }.place (arrival 1125) = .resync ∧ { live70 with wildCount := 2 }.place (arrival 1125) = .wild := by
  decide

/-- The record of the example "window arithmetic at the wrap" of spec/03, its list of twins left out. -/
def wrapRecord : Record :=
  { live70 with highest := 0xFFF0, seen := BitVec.allOnes 64, epoch := 2 }

/-- One arrival of the example, every copy of a first copy enqueued. -/
def wrapStep (r : Record) (seq : Word) : Record :=
  let p := r.place (arrival seq)
  let t := r.applyPlacement (arrival seq) p
  if p.accepted then t.mark seq else t

theorem test_window_at_the_wrap :
    let r := [0x0002, 0xFFF5, 0xFFF5, 0x0050, 0x0500, 0x0051].foldl wrapStep wrapRecord
    r.highest = 0x0051 ∧ r.seen = 3 ∧ r.counters.missed = 31 ∧ r.counters.lateFirst = 1 ∧ r.counters.duplicates = 1
      ∧ r.counters.wild = 1 ∧ r.counters.accepted = 4 ∧ r.wildCount = 0 := by decide

theorem test_lookup_taken_by_placement :
    takes (offered live70 (frameOf (tag70 1 100))) (.lane .a) (rx (frameOf (tag70 1 100))) 70 = true
      ∧ (live70.place (arrivalOf (.lane .a) (rx (frameOf (tag70 1 100)))) = .duplicate)
      ∧ (live70.place (arrivalOf (.lane .a) (rx (frameOf (tag70 1 1125)))) = .wild)
      ∧ (live70.place (arrivalOf (.lane .a) (rx (frameOf (tag70 1 101)))) = .advance)
      ∧ (live70.place (arrivalOf (.lane .a) (rx (frameOf (tag70 1 37)))) = .late)
      ∧ takes (offered { live70 with config := { config70 with origin := 10 } } (frameOf (tag70 1 100))) (.lane .a)
          (rx (frameOf (tag70 1 100))) 70 = false := by decide +kernel

/-- A twin entry for H that awaits this leg. -/
def awaiting (l : LegId) : Record := { live70 with twins := [⟨100, l, 3000⟩] }

theorem test_duplicates_by_twin_entry :
    live70.twinFor 100 = none ∧ (awaiting .a).twinFor 100 = some ⟨100, .a, 3000⟩
      ∧ answers (exec (.lookupByKey (.lane .a)) (offered (awaiting .a) (frameOf (tag70 1 100))))
          (fun t => (t.record 70).twins == [] && (t.record 70).counters.duplicates == 1) = true
      ∧ answers (exec (.lookupByKey (.lane .a)) (offered (awaiting .b) (frameOf (tag70 1 100))))
          (fun t => (t.record 70).echoNoted && (t.record 70).counters.echo == 1 && t.flag .attention) = true := by decide +kernel

theorem test_first_copy_is_delivered :
    admissible .trip (cellsFor 64) running.freeCells = true
      ∧ answers (exec (.lookupByKey (.lane .a)) (offered live70 (frameOf (tag70 1 101))))
        (fun t => (t.port (.bay .p0)).sending == some ⟨0, .tagRemoved, some 70⟩
          && (t.port (.lane .b)).sending == some ⟨0, .hopsRewritten 0, none⟩ && t.tally 70 == 1
          && (t.record 70).marked 101 && (t.record 70).deadline == 101000) = true := by decide +kernel

/-- A pool of 384 held cells: one frame of 98304 bytes would hold them, and so do 384 names of one cell. -/
def full : List StoredFrame := (List.range 384).map (fun n => ⟨n, [0], .trip, 1⟩)

theorem test_refused_first_copy :
    admissible .trip (cellsFor 64) (State.freeCells { running with pool := full }) = false
      ∧ answers (exec (.lookupByKey (.lane .a)) { offered live70 (frameOf (tag70 0 101)) with pool := full })
        (fun t => (t.record 70).counters.refused == 1 && !(t.record 70).marked 101 && t.flag .pool) = true := by decide +kernel

/-- An ORIGINATED-SINGLE record on P0 that takes every frame (no match part). -/
def single80 : Record :=
  { Record.free with
    state := .armed, noHighest := true
    config := { StreamConfig.zero with kind := .originatedSingle, legMode := .single .p0, origin := 5, stream := 80, renewalLimit := 50 } }

/-- An untagged frame waits for its search on P0. -/
def searching (r : Record) : State :=
  claimed (.bay .p0) .search (arrived (.bay .p0) plainFrame { running with table := [(80, r)] })

theorem test_pattern_search :
    (searching single80).granted (.bay .p0) .search = true ∧ (searching single80).findPattern .p0 plainFrame = some 80
      ∧ answers (exec (.patternSearch .p0) (searching single80))
        (fun t => (t.record 80).state == .live && (t.record 80).sendCounter == 1 && (t.record 80).counters.injected == 1
          && (t.port (.lane .a)).sending == some ⟨0, .asStored, some 80⟩ && t.tally 80 == 2) = true
      ∧ answers (exec (.patternSearch .p0) (searching { single80 with held := true }))
        (fun t => (t.record 80).sendCounter == 0 && (t.record 80).counters.accepted == 1 && t.pool == []) = true := by decide +kernel

theorem test_search_takes : (searching single80).searchTakes .p0 (rx plainFrame) 80 :=
  ⟨by decide +kernel, rfl, by decide +kernel⟩

/-- The search of a frame for which there is no record: it is counted "unclaimed" and settled (R36, R64). -/
theorem test_search_finds_no_record :
    let s := searching { single80 with state := .retiring }
    s.granted (.bay .p0) .search = true ∧ (s.table.all (fun e => !e.2.matches .p0 plainFrame)) = true
      ∧ answers (exec (.patternSearch .p0) s) (fun t => (t.port (.bay .p0)).counters.unclaimed == 1 && (t.port (.bay .p0)).store == []
        && t.rotation == .bay .p1 && t.table == s.table && t.pool == [] && t.flags == 0) = true := by decide +kernel

/-- The clauses of a match (R35): bit 41 of the destination address is the one that is ignored. -/
theorem test_pattern_matches :
    let r (dest : BitVec 48) (ignore : Bool) (type tag : Word) : Record :=
      { single80 with config := { single80.config with matchPresent := true, dest := dest, ignoreLocal := ignore, frameType := type, appTag := tag } }
    let hit (dest : BitVec 48) (ignore : Bool) (type tag : Word) : Bool := (r dest ignore type tag).matches .p0 plainFrame
    hit 0xAAAAAAAAAAAA false 0xAAAA 0 = true ∧ hit 0xAAAAAAAAAAAA false 0xAAAA 0xAAAA = true ∧ hit 0xAAAAAAAAAAAA true 0xAAAA 1 = false
      ∧ hit 0xA8AAAAAAAAAA true 0xAAAA 0 = true ∧ hit 0xA8AAAAAAAAAA false 0xAAAA 0 = false ∧ hit 0xABAAAAAAAAAA true 0xAAAA 0 = false
      ∧ hit 0xAAAAAAAAAAAA true 0xAAAB 0 = false ∧ single80.matches .p0 plainFrame = true ∧ single80.matches .p1 plainFrame = false := by
  decide +kernel

/-- A tag is valid for the origins 1 to 60, and for the class PROBE just with the stream numbers 16382 and 16383 (R2). -/
theorem test_tag_valid_at_its_bounds :
    let valid (cls : TagClass) (origin : BitVec 6) (stream : BitVec 14) : Bool :=
      tagValid (frameOf { tag70 1 7 with cls := cls, origin := origin, stream := stream })
    valid .trip 1 0 = true ∧ valid .status 60 16381 = true ∧ valid .trip 0 0 = false ∧ valid .trip 61 0 = false
      ∧ valid .probe 9 16382 = true ∧ valid .probe 9 16383 = true ∧ valid .probe 9 16381 = false ∧ valid .sample 9 16382 = false
      ∧ valid .sample 9 16383 = false ∧ tagValid ((frameOf (tag70 1 7)).set 21 0) = false := by decide +kernel

theorem test_arbiter_cases :
    (offered live70 plainFrame).nextIntake = some (.lane .a) ∧ running.nextIntake = none
      ∧ (inFlight .hold 70 [] running).turn = .timed ∧ State.turn { running with notices := [7] } = .notice 7
      ∧ State.turn { running with sweep := { running.sweep with position := 511 } } = .visit := by decide +kernel

/-! ## Timed operations: witnesses -/

/-- A timed operation on the table with the live record at handle 70. -/
def timed (kind : TimedKind) (h : Word) (copy : List Byte) : State :=
  inFlight kind h copy { running with table := [(70, live70)], tallies := [] }

theorem test_timed_operation_has_its_turn (kind : TimedKind) (h : Word) (copy : List Byte) :
    (timed kind h copy).timedTurn kind h.toNat copy := timedTurn_of_turn _ ⟨kind, h, copy⟩ rfl rfl

/-- The last result of an operation at its grant. -/
def resultOf (o : Host.Outcome State Fault Refusal) : Option Result :=
  match o with
  | .next t => some t.lastResult
  | .fault _ => none
  | .refused _ => none

/-- INSTALL at its checks in order, at handles 511 and 512. -/
theorem test_install_grant_results :
    resultOf (exec .installGrant (timed .install 512 image70)) = some .noSuchRecord
      ∧ resultOf (exec .installGrant ((timed .install 511 image70).putSetting .freeze 0x80)) = some .frozen
      ∧ resultOf (exec .installGrant (timed .install 70 image70)) = some .slotTaken
      ∧ resultOf (exec .installGrant (timed .install 511 (List.replicate 32 0))) = some .badValue
      ∧ resultOf (exec .installGrant (timed .install 511 image70)) = some .keyInUse
      ∧ resultOf (exec .installGrant { timed .install 511 image70 with table := [] }) = some .done := by decide +kernel

theorem test_amend_grant_results :
    resultOf (exec .amendGrant (timed .amend 71 image70)) = some .noSuchRecord
      ∧ resultOf (exec .amendGrant ((timed .amend 70 image70).putSetting .freeze 2)) = some .frozen
      ∧ resultOf (exec .amendGrant ((timed .amend 70 image70).putRecord 70 { live70 with state := .retiring })) = some .wrongState
      ∧ resultOf (exec .amendGrant (timed .amend 70 (List.replicate 32 0))) = some .badValue
      ∧ resultOf (exec .amendGrant (timed .amend 70 image70)) = some .done := by decide +kernel

theorem test_retire_frees_or_drains :
    answers (exec .retireGrant (timed .retire 70 [])) (fun t => t.table == [] && t.lastResult == .done && t.flag .done) = true
      ∧ answers (exec .retireGrant { timed .retire 70 [] with tallies := [(70, 1)] })
        (fun t => (t.record 70).state == .retiring && !(t.record 70).running) = true := by decide +kernel

theorem test_hold_and_release :
    answers (exec .holdGrant (timed .hold 70 [])) (fun t => t.record 70 == { live70 with held := true }) = true
      ∧ answers (exec .releaseGrant (timed .release 70 [])) (fun t => t.record 70 == live70) = true := by decide +kernel

theorem test_snapshots :
    answers (exec .snapshotGrant ((timed .snapshot 70 []).putRecord 70 { live70 with inAttention := true }))
        (fun t => t.record 70 == live70 && t.frontView.take 2 == [0x23, 0x24]) = true
      ∧ answers (exec .snapshotClearGrant ((timed .snapshotClear 70 []).putRecord 70
          { live70 with counters := { RecCounters.zero with wild := 9 } })) (fun t => t.record 70 == live70) = true
      ∧ resultOf (exec .snapshotGrant (timed .snapshot 512 [])) = some .noSuchRecord := by decide +kernel

/-- A RETIRING record at handle 70 with its notice listed. -/
def draining : State := { running with table := [(70, { live70 with state := .retiring, running := false })], notices := [70] }

theorem test_notice_frees_the_record :
    draining.turn = .notice 70 ∧ draining.noticeTurn = some 70
      ∧ answers (exec .noticeGrant draining) (fun t => t.table == [] && t.notices == []) = true := by
  decide +kernel

/-! ## The sweep, the probe unit, the buffers: witnesses and examples -/

theorem test_sweep_boundary_and_overrun :
    answers (exec .sweepPeriodBoundary { running with bayClock := 500 })
        (fun t => t.sweep.position == 0 && t.sweep.periodStart == 500) = true
      ∧ answers (exec .sweepPeriodBoundary { running with bayClock := 500, sweep := { running.sweep with position := 511 } })
        (fun t => t.sweep.position == 511 && t.sweep.passOwed && t.sweep.overruns == 1 && t.flag .overrun) = true
      ∧ Settings.nextVisit { Settings.reset with sweepMask := 0x01 } 0 = 64
      ∧ Settings.nextVisit { Settings.reset with sweepMask := 0xFF } 0 = 512 := by decide +kernel

/-- The part at the visit of handle 70, whose record has one twin entry, at a bay-clock time. -/
def visiting (now : Time) : State :=
  { running with
    bayClock := now, sweep := { running.sweep with position := 70 }
    table := [(70, { live70 with twins := [⟨100, .b, 4000⟩] })] }

/-- A deadline has not passed at its own time, and has one microsecond later (R83). -/
theorem test_sweep_visit :
    (visiting 5000).turn = .visit ∧ (visiting 5000).visitTurn = true
      ∧ answers (exec .sweepVisit (visiting 4000)) (fun t => t.record 70 == (visiting 4000).record 70 && t.sweep.position == 71) = true
      ∧ answers (exec .sweepVisit (visiting 5000))
        (fun t => (t.record 70).state == .live && (t.record 70).twins == [] && (t.record 70).legB.misses == 1) = true
      ∧ answers (exec .sweepVisit (visiting 5001))
        (fun t => (t.record 70).state == .silent && (t.record 70).counters.silences == 1 && t.flag .attention) = true
      ∧ answers (exec .sweepVisit (portIn .down (.lane .a) (visiting 4000)))
        (fun t => (t.record 70).state == .single && (t.record 70).legA.status == .lost) = true := by decide +kernel

theorem test_probe_boundary :
    answers (exec .probeBoundary { running with bayClock := 10000 })
        (fun t => t.probe.missA == 1 && t.probe.ring == .suspect && t.probe.serials == [10000] && t.probe.boundary == some 20000
          && t.pool.length == 1) = true
      ∧ answers (exec .probeBoundary { (running.putSetting .node 0).putRoster 9 { RosterEntry.absent with heardA := some ⟨0, 1⟩ } with
          bayClock := 40001 }) (fun t => t.probe.roster == [] && t.flag .roster) = true
      ∧ answers (exec .probeBoundary { (running.putSetting .node 0).putRoster 9 { RosterEntry.absent with heardA := some ⟨1, 1⟩ } with
          bayClock := 40001 }) (fun t => t.rosterEntry 9 != RosterEntry.absent && !t.flag .roster) = true := by decide +kernel

theorem test_proving_frame_due :
    (portIn .proving (.lane .a) running).provingDue .a = true
      ∧ answers (exec (.provingFrame .a) (portIn .proving (.lane .a) running))
        (fun t => (t.provingOf .a).sequence == 1 && (t.provingOf .a).nextAt == 1000) = true
      ∧ answers (exec (.provingFrame .a) { portIn .proving (.lane .a) running with pool := full })
        (fun t => (t.provingOf .a).sequence == 1 && (t.provingOf .a).sent == 0 && t.flag .pool) = true := by decide +kernel

/-- A frame of two copies, one of them in transmission on P0 for handle 70. -/
def sending : State :=
  { running with
    pool := [⟨3, frameOf (tag70 1 101), .trip, 2⟩], nextName := 4, tallies := [(70, 1)]
    ports := (running.ports.set (.bay .p0) { unitUp with sending := some ⟨3, .tagRemoved, some 70⟩ }).set (.lane .b)
      { unitUp with sending := some ⟨3, .hopsRewritten 0, none⟩ } }

theorem test_transmission_end :
    answers (exec (.transmissionEnd (.bay .p0)) sending)
      (fun t => t.pool.map StoredFrame.outstanding == [1] && t.notices == [70] && t.tally 70 == 0
        && (t.port (.bay .p0)).lastOut == removeTag (frameOf (tag70 1 101))
        && (t.port (.bay .p0)).counters.framesOut == 1) = true := by decide +kernel

/-- The example "the status quota on one port" of spec/09, choices 1 to 3, and 8. -/
theorem test_status_quota :
    let d (n : Nat) : Descriptor := ⟨n, .asStored, none⟩
    let u : PortUnit := { unitUp with sample := [d 1, d 2, d 3], status := [d 10, d 11] }
    let next (v : PortUnit) : PortUnit := { v with sending := none }.choose 2
    let one := u.choose 2
    let two := next one
    let three := next two
    one.sending = some (d 1) ∧ one.quota = 1 ∧ two.sending = some (d 2) ∧ two.quota = 2 ∧ three.sending = some (d 10) ∧ three.quota = 0
      ∧ ({ unitUp with sample := [d 5] }.choose 2).quota = 0 := by decide

/-- Classes leave 0, 32 and 96 cells free, to the cell. -/
theorem test_admission_at_the_bounds :
    admissible .trip 6 6 = true ∧ admissible .trip 7 6 = false ∧ admissible .sample 1 33 = true ∧ admissible .sample 1 32 = false
      ∧ admissible .status 1 97 = true ∧ admissible .status 1 96 = false ∧ cellsFor 64 = 1 ∧ cellsFor 256 = 1
      ∧ cellsFor 257 = 2 ∧ cellsFor 2048 = 8 := by decide

/-! ## The command port: witnesses and examples -/

theorem test_refused_frames :
    State.reset.ready = false ∧ (frameOfCommand .ringRead).isSome = true
      ∧ resultOf (exec .ringRead State.reset) = some .notReady ∧ resultOf (exec .flagsRead State.reset) = some .done
      ∧ resultOf (exec (.install .cut) running) = some .badValue
      ∧ resultOf (exec (.unknownCommand (.commandByte 0x3E)) running) = some .unknownCommand := by decide +kernel

theorem test_timed_command_claims_once :
    running.inFlight = none ∧ (inFlight .hold 1 [] running).inFlight ≠ none
      ∧ answers (exec (.install (.whole 40)) running) (fun t => t.inFlight == some ⟨.install, 40, stagingReset⟩ && t.inHand == none) = true := by
  decide +kernel

theorem test_settings_at_their_bounds :
    resultOf (exec (.settingWrite (.whole (0x02, 63))) running) = some .done
      ∧ resultOf (exec (.settingWrite (.whole (0x02, 64))) running) = some .badValue
      ∧ resultOf (exec (.settingWrite (.whole (0x16, 0))) running) = some .badValue
      ∧ resultOf (exec (.nodeWrite 61) (portIn .off (.lane .a) (portIn .off (.lane .b) running))) = some .badValue
      ∧ resultOf (exec (.nodeWrite 60) (portIn .off (.lane .a) (portIn .off (.lane .b) running))) = some .done
      ∧ resultOf (exec (.nodeWrite 60) running) = some .wrongState ∧ resultOf (exec (.attachedNodeWrite .pair0 9) running) = some .wrongState
      ∧ resultOf (exec (.probeMissLimitWrite 16) running) = some .badValue ∧ resultOf (exec (.attnMaskWrite 0x0200) running) = some .badValue
      ∧ resultOf (exec (.freezeWrite 0xFF) running) = some .done := by decide +kernel

/-- Both ports of both pairs OFF: the pair settings' clauses. -/
def pairsOff : State := portIn .off (.bay .p0) (portIn .off (.bay .p1) (portIn .off (.bay .p2) running))

theorem test_pair_settings :
    resultOf (exec (.attachedNodeWrite .pair0 60) pairsOff) = some .done
      ∧ resultOf (exec (.attachedNodeWrite .pair0 61) pairsOff) = some .badValue
      ∧ resultOf (exec (.attachedNodeWrite .pair0 5) pairsOff) = some .badValue
      ∧ resultOf (exec (.pairEnableWrite 3) pairsOff) = some .done ∧ resultOf (exec (.pairEnableWrite 4) pairsOff) = some .badValue
      ∧ resultOf (exec (.pairEnableWrite 1) running) = some .wrongState
      ∧ resultOf (exec (.pairEnableWrite 3) ((pairsOff.putSetting .attachedNode0 9).putSetting .attachedNode1 9)) = some .badValue := by
  decide +kernel

/-- The example "reading the attention set" of spec/06, its first read and the read after the wrap. -/
theorem test_attention_reads :
    let set (hs : List Nat) (c : Nat) : State :=
      { running with cursor := c, table := hs.map (fun h => (h, { live70 with inAttention := true })) }
    let first := [2, 9, 40, 41, 42, 64, 65, 70, 100, 130, 200, 256, 300, 301, 400, 450]
    (set (first ++ [480, 505]) 0).chosenHandles = first ∧ cursorAfter 0 first = 451
      ∧ (set [9, 480, 505] 451).chosenHandles = [480, 505, 9] ∧ cursorAfter 451 [480, 505, 9] = 10
      ∧ (set [] 10).chosenHandles = [] ∧ cursorAfter 10 [] = 10 ∧ cursorAfter 0 [511] = 0 := by decide +kernel

theorem test_staging_at_its_end :
    running.staging.length = 32 ∧ running.frontView.length = 96 ∧ (overlay stagingReset 30 [1, 2, 3]).drop 29 = [0, 1, 2]
      ∧ overlay stagingReset 32 [1] = stagingReset ∧ viewBytes (List.replicate 96 7) 95 2 = [7, 0] := by decide +kernel

theorem test_roster_read_at_its_end :
    rosterNumbers 60 60 = [60] ∧ rosterNumbers 1 60 = (List.range 60).map (· + 1)
      ∧ resultOf (exec (.rosterRead (.whole (61, 1))) running) = some .badValue
      ∧ resultOf (exec (.rosterRead (.whole (60, 60))) running) = some .done
      ∧ resultOf (exec (.rosterRead (.whole (1, 0))) running) = some .badValue := by decide +kernel

theorem test_control_reset :
    answers (exec .controlReset ({ timed .install 40 image70 with flags := 0x1FF })) (fun t => t.inFlight == none && t.flags == 0x1DF) = true
      := by decide +kernel

/-! ## Further clauses of the statements: witnesses -/

/-- What the two-wire bus carries in a step. -/
def busOf (o : Host.Outcome State Fault Refusal) : List BusItem :=
  match o with
  | .next t => t.loader.busOut
  | .fault _ => []
  | .refused _ => []

/-- The load has read the header and the settings block: the next part stands at EEPROM address 54. -/
def atRecord : State := { State.reset with loader := { Loader.reset with store := header 1 ++ List.replicate 46 0 } }

theorem test_bus_of_a_failed_try :
    busOf (exec (.transfer (.notAcknowledged .deviceToWrite)) atRecord) = [.start, .device 0x53 .write, .stop]
      ∧ busOf (exec (.transfer (.notAcknowledged .partHigh)) atRecord) = [.start, .device 0x53 .write, .byte 0, .stop]
      ∧ busOf (exec (.transfer (.notAcknowledged .partLow)) atRecord) = [.start, .device 0x53 .write, .byte 0, .byte 54, .stop]
      ∧ busOf (exec (.transfer (.notAcknowledged .deviceToRead)) atRecord) =
        [.start, .device 0x53 .write, .byte 0, .byte 54, .repeatedStart, .device 0x53 .read, .stop] := by decide +kernel

theorem test_bus_of_a_good_try :
    busOf (exec (.transfer (.acknowledged (header 0))) State.reset) =
        [.start, .device 0x53 .write, .byte 0, .byte 0, .repeatedStart, .device 0x53 .read] ++ List.replicate 7 .acknowledge
          ++ [.noAcknowledge, .stop]
      ∧ busOf (exec (.transfer (.acknowledged [0, 0])) atChecksum) =
        [.start, .device 0x53 .write, .byte 0, .byte 54, .repeatedStart, .device 0x53 .read, .acknowledge, .noAcknowledge, .stop] := by
  decide +kernel

/-- A load begins with nine clock pulses and a stop, and while RESET_N is held none has begun (R171). -/
theorem test_bus_clear_at_the_starts :
    busOf (exec (.powerOn ⟨true, true, true, true, true, true⟩) running) = [.clockPulses 9, .stop]
      ∧ busOf (exec .resetNLow running) = [] ∧ busOf (exec .resetNHigh { running with resetHeld := true }) = [.clockPulses 9, .stop]
      ∧ busOf (exec .fullReset running) = [.clockPulses 9, .stop] ∧ busOf (exec .fullReset { running with resetHeld := true }) = [] := by
  decide +kernel

/-- The clashes of the settings block, and the values at the ends of two ranges. -/
theorem test_settings_block_passes :
    let block (n a b e : Word) : Settings := { Settings.reset with node := n, attachedNode0 := a, attachedNode1 := b, pairEnable := e }
    (block 5 0 0 3).blockPasses = true ∧ (block 0 0 0 0).blockPasses = true ∧ (block 5 5 0 0).blockPasses = false
      ∧ (block 5 0 5 0).blockPasses = false ∧ (block 5 9 9 0).blockPasses = true ∧ (block 5 9 9 2).blockPasses = false
      ∧ (block 5 9 10 3).blockPasses = true ∧ (block 60 0 0 0).blockPasses = true ∧ (block 61 0 0 0).blockPasses = false
      ∧ ({ Settings.reset with hopLimit := 63 } : Settings).blockPasses = true
      ∧ ({ Settings.reset with hopLimit := 64 } : Settings).blockPasses = false := by decide +kernel

/-- Staging images of each kind, and one byte changed at a time. -/
theorem test_images_presented_by_kind :
    let image (b0 b1 s b4 b7 : Byte) : List Byte := [b0, b1, 0, s, b4, 0, 100, b7] ++ List.replicate 24 7
    (presented running.settings (image 0x00 9 70 0x13 20)).isSome = true
      ∧ presented running.settings (image 0x00 5 70 0x13 20) = none ∧ presented running.settings (image 0x00 61 70 0x13 20) = none
      ∧ presented running.settings (image 0x00 9 70 0x10 20) = none ∧ presented running.settings (image 0x00 9 70 0x13 0) = none
      ∧ presented running.settings (image 0x04 9 70 0x13 20) = none ∧ presented running.settings (image 0x00 0xC9 70 0x13 20) = none
      ∧ (presented running.settings (image 0x48 5 80 0x10 0)).isSome = true
      ∧ (presented running.settings (image 0x60 5 80 0x10 0)).isSome = true ∧ presented running.settings (image 0x68 5 80 0x10 0) = none
      ∧ presented running.settings (image 0x48 9 80 0x10 0) = none ∧ presented paired.settings (image 0x48 5 80 0x30 0) = none
      ∧ (presented paired.settings (image 0xA8 9 70 0x33 20)).isSome = true
      ∧ presented paired.settings (image 0xA8 9 70 0x13 20) = none ∧ presented paired.settings (image 0xB0 9 70 0x33 20) = none
      ∧ presented running.settings (image 0xA8 9 70 0x33 20) = none := by decide +kernel

/-- A frame other than a proving frame whose reception ended in PROVING leaves the store and counts nothing (R9). -/
theorem test_frame_of_a_proving_lane_is_discarded :
    answers (exec (.laneIntake .a) ((portIn .proving (.lane .a) running).modPort (.lane .a) (fun u =>
        { u with store := [{ rx (frameOf (tag70 12 7)) with inProving := true }] })))
      (fun t => t == portIn .proving (.lane .a) running) = true := by decide +kernel

/-- Another node's probe goes on with hops left 1 and counts "hop-expired" with 0, whatever its payload (R14, R15). -/
theorem test_probe_goes_on_round_the_ring :
    answers (exec (.laneIntake .a) (arrived (.lane .a) (probeOf 9 1 0 8) running))
        (fun t => (t.port (.lane .b)).sending == some ⟨0, .hopsRewritten 0, none⟩ && t.probe == running.probe
          && t.pool == [⟨0, probeOf 9 1 0 8, .trip, 1⟩]) = true
      ∧ answers (exec (.laneIntake .a) (arrived (.lane .a) (probeOf 9 0 1 8) running))
        (fun t => t.pool == [] && (t.port (.lane .a)).counters.hopExpired == 1 && (t.rosterEntry 9).heardA == some ⟨1000, 2⟩) = true
      ∧ answers (exec (.laneIntake .a) (arrived (.lane .a) (probeOf 9 63 63 8) (portIn .down (.lane .b) running)))
        (fun t => t.pool == [] && (t.port (.lane .a)).counters.hopExpired == 0) = true := by decide +kernel

/-- A lookup that finds no record keeps the frame's transit; with hops left 0 there is none (R14, R34). -/
theorem test_lookup_keeps_the_transit :
    answers (exec (.lookupByKey (.lane .a)) (offered Record.free (frameOf (tag70 2 101))))
        (fun t => (t.port (.lane .b)).sending == some ⟨0, .hopsRewritten 1, none⟩ && t.rotation == .lane .b) = true
      ∧ answers (exec (.lookupByKey (.lane .a)) (offered live70 (frameOf (tag70 0 101))))
        (fun t => t.port (.lane .b) == running.port (.lane .b) && (t.port (.bay .p0)).sending.isSome) = true := by decide +kernel

/-- The rotation moves to the intake after the one granted: P0's search leaves P1 at its head (R31; log 18). -/
theorem test_rotation_moves_at_a_search :
    answers (exec (.patternSearch .p0) (searching single80)) (fun t => t.rotation == .bay .p1) = true := by decide +kernel

/-- A list of four entries whose oldest awaits this leg, with two misses counted on it. -/
def fourTwins (l : LegId) : Record :=
  { live70 with
    legB := ⟨900, .ok, 2⟩, legA := ⟨900, .ok, 2⟩
    twins := [⟨97, l, 3000⟩, ⟨98, .b, 3000⟩, ⟨99, .b, 3000⟩, ⟨100, .b, 3000⟩] }

/-- The eviction of the oldest of four: the third miss makes leg B LOST at MISS THRESHOLD 3; on the arrival's own leg it is the first
after the leg was healed (R50, R51). -/
theorem test_eviction_counts_a_miss :
    answers (exec (.lookupByKey (.lane .a)) (offered (fourTwins .b) (frameOf (tag70 1 101))))
        (fun t => (t.record 70).legB == ⟨900, .lost, 3⟩ && (t.record 70).legA == ⟨1000, .ok, 0⟩ && (t.record 70).state == .single
          && (t.record 70).counters.twinMissB == 1 && (t.record 70).counters.twinMissA == 0
          && (t.record 70).twins.map TwinEntry.seq == [98, 99, 100, 101]) = true
      ∧ answers (exec (.lookupByKey (.lane .a)) (offered (fourTwins .a) (frameOf (tag70 1 101))))
        (fun t => (t.record 70).legA == ⟨1000, .ok, 1⟩ && (t.record 70).legB == ⟨900, .ok, 2⟩
          && (t.record 70).counters.twinMissA == 1) = true := by decide +kernel

/-- An ORIGINATED-PAIR record of pair 0 whose delivery set names its own ports and P2. -/
def pair70 : Record :=
  { live70 with config := { config70 with kind := .originatedPair, legMode := .pair .pair0, delivery := 7 } }

/-- Its frame waits for the lookup on P1, the pair's second port. -/
def pairOffered (r : Record) (frame : List Byte) : State :=
  claimed (.bay .p1) .lookup (arrived (.bay .p1) frame { paired with table := [(70, r)] })

/-- Pair injection: both lanes, hops left HOP LIMIT, and a delivery copy outside the pair alone (R73, R74). -/
theorem test_pair_injection :
    takes (pairOffered pair70 (frameOf (tag70 1 101))) (.bay .p1) (rx (frameOf (tag70 1 101))) 70 = true
      ∧ (pair70.place (arrivalOf (.bay .p1) (rx (frameOf (tag70 1 101))))).accepted = true
      ∧ answers (exec (.lookupByKey (.bay .p1)) (pairOffered pair70 (frameOf (tag70 1 101))))
        (fun t => (t.port (.lane .a)).sending == some ⟨0, .hopsRewritten 40, some 70⟩
          && (t.port (.lane .b)).sending == some ⟨0, .hopsRewritten 40, some 70⟩
          && (t.port (.bay .p2)).sending == some ⟨0, .tagRemoved, some 70⟩ && (t.port (.bay .p0)).descriptors == []
          && (t.port (.bay .p1)).descriptors == [] && (t.record 70).counters.injected == 1 && (t.record 70).marked 101
          && (t.record 70).legB.lastArrival == 1000 && t.tally 70 == 3) = true := by decide +kernel

theorem test_pair_refusal :
    answers (exec (.lookupByKey (.bay .p1)) { pairOffered pair70 (frameOf (tag70 1 101)) with pool := full })
      (fun t => (t.record 70).counters.refused == 1 && (t.record 70).counters.injected == 0 && !(t.record 70).marked 101
        && (t.port (.bay .p1)).counters.poolRefusals == 1 && t.flag .pool && t.tallies == []) = true := by decide +kernel

/-- A single origination delivers to the other ports of its delivery set and not to its own (R67). -/
theorem test_single_origination_delivers :
    answers (exec (.patternSearch .p0) (searching { single80 with config := { single80.config with delivery := 3 } }))
      (fun t => (t.port (.bay .p1)).sending == some ⟨0, .tagRemoved, some 80⟩ && (t.port (.bay .p0)).descriptors == []
        && t.tally 80 == 3) = true := by decide +kernel

/-- Two entries of leg B lapse at once: the misses rise by two, to MISS THRESHOLD 3, and the leg is LOST (R84). -/
theorem test_lapsed_entries_count_misses :
    answers (exec .sweepVisit ((visiting 5000).putRecord 70
        { live70 with legB := ⟨900, .ok, 1⟩, twins := [⟨99, .b, 4000⟩, ⟨100, .b, 4000⟩, ⟨98, .b, 5000⟩] }))
      (fun t => (t.record 70).legB == ⟨900, .lost, 3⟩ && (t.record 70).counters.twinMissB == 2 && (t.record 70).state == .single
        && (t.record 70).twins == [⟨98, .b, 5000⟩] && t.flag .attention) = true := by decide +kernel

/-- The position after the last handle: 512, or with a pass owed the first handle not masked (R80, R91). -/
theorem test_sweep_position_at_the_end :
    let at511 (owed : Bool) (mask : Word) : State :=
      { running.putSetting .sweepMask mask with sweep := { running.sweep with position := 511, passOwed := owed } }
    answers (exec .sweepVisit (at511 false 0)) (fun t => t.sweep.position == 512 && !t.sweep.passOwed) = true
      ∧ answers (exec .sweepVisit (at511 true 1)) (fun t => t.sweep.position == 64 && !t.sweep.passOwed) = true
      ∧ answers (exec .sweepVisit (at511 true 0xFF)) (fun t => t.sweep.position == 512 && !t.sweep.passOwed) = true
      ∧ answers (exec .sweepVisit { running.putSetting .sweepMask 2 with sweep := { running.sweep with position := 63 } })
        (fun t => t.sweep.position == 128) = true := by decide +kernel

/-- The probe of a boundary, its copies and the ageing on a node with a number, whose interval is 10 ms (R134, R141). -/
theorem test_probe_frame_and_ageing :
    answers (exec .probeBoundary { running.putRoster 9 { RosterEntry.absent with heardA := some ⟨0, 1⟩ } with bayClock := 40001 })
        (fun t => t.pool.map StoredFrame.bytes == [makeFrame [0x01, 0xB6, 0x2E, 0x00, 0x00, 0x01] 5 0x9B1E
            { cls := .probe, origin := 5, hops := 40, epoch := 0, stream := 16383, seq := 40001, renewal := 0 }
            [0x9C, 0x41, 40, 2, 2, 2]]
          && (t.port (.lane .a)).sending == some ⟨0, .asStored, none⟩ && (t.port (.lane .b)).sending == some ⟨0, .asStored, none⟩
          && t.probe.roster == [] && t.flag .roster) = true
      ∧ answers (exec .probeBoundary { running.putRoster 9 { RosterEntry.absent with heardA := some ⟨1, 1⟩ } with bayClock := 40001 })
        (fun t => t.rosterEntry 9 != RosterEntry.absent && !t.flag .roster) = true
      ∧ answers (exec .probeBoundary { portIn .down (.lane .b) running with bayClock := 10000, pool := full })
        (fun t => (t.port (.lane .a)).counters.poolRefusals == 1 && t.port (.lane .b) == (portIn .down (.lane .b) running).port (.lane .b)
          && t.flag .pool && t.probe.serials == [10000]) = true := by decide +kernel

/-- The rows of the ring state's table, PROBE MISS LIMIT 3 (R137). -/
theorem test_ring_state_rows :
    let counts (a b : BitVec 4) : State := running.modProbe (fun u => { u with missA := a, missB := b })
    (running.putSetting .node 0).ringNow = .noRing ∧ (portIn .down (.lane .b) (counts 0 0)).ringNow = .isOpen
      ∧ (counts 0 0).ringNow = .closed ∧ (counts 0 1).ringNow = .suspect ∧ (counts 2 0).ringNow = .suspect
      ∧ (counts 3 0).ringNow = .isOpen ∧ (counts 0 15).ringNow = .isOpen := by decide +kernel

/-- The view of the live record at handle 70, byte by byte (12.3). -/
theorem test_view_image :
    viewImage 70 { live70 with twins := [⟨100, .b, 4000⟩] } =
      [0x23, 0x20, 0x90, 0x40, 0x40, 0x80] ++ image70.take 18 ++ [0, 100] ++ [0x80, 0, 0, 0, 0, 0, 0, 0]
        ++ [0, 100, 0, 0, 0x0F, 0xA0] ++ List.replicate 18 0 ++ [0, 0, 0x03, 0x84, 0, 0, 0x03, 0x84, 0, 0, 0x13, 0x88]
        ++ List.replicate 26 0 := by decide +kernel

/-- A roster entry heard on Lane B alone: status 2, five bytes of 0 for Lane A (12.4). -/
theorem test_roster_entry_bytes :
    rosterBytes 9 { heardA := none, heardB := some ⟨0x01020304, 7⟩, ring := .suspect, laneA := .down, laneB := .proving } =
      [9, 2, 0x8B, 0, 0, 0, 0, 0, 7, 1, 2, 3, 4] := by decide

/-- FLAGS READ while the load runs leaves the result as it was (log 33). -/
theorem test_flags_read_while_loading :
    answers (exec .flagsRead { State.reset with lastResult := .notReady })
      (fun t => t == { State.reset with lastResult := .notReady, spiOut := [0x02] }) = true := by decide +kernel

/-! ### The grant in hand at a timed operation's claim (R31, R96; log 35) -/

/-- A HOLD of handle 70 taken while it is the turn of a visit, and of a notice. -/
def holding (s : State) : State := { s with inFlight := some ⟨.hold, 70, []⟩, inHand := s.lowTurn }

/-- The visit in hand at the claim acts while the operation waits, one only; a lookup granted first ends it; so does the operation. -/
theorem test_visit_in_hand :
    answers (exec (.hold (.whole 70)) (visiting 5000)) (fun t => t == { holding (visiting 5000) with spiOut := t.spiOut }) = true
      ∧ (holding (visiting 5000)).turn = .timed ∧ (holding (visiting 5000)).visitTurn = true
      ∧ (holding (visiting 5000)).noticeTurn = none
      ∧ answers (exec .sweepVisit (holding (visiting 5000)))
        (fun t => t.isBusy && t.sweep.position == 71 && (t.record 70).legB.misses == 1 && !t.visitTurn && t.turn == .timed) = true
      ∧ answers (exec .holdGrant (holding (visiting 5000))) (fun t => !t.isBusy && (t.record 70).held && t.inHand == none && t.turn == .visit) = true := by
  decide +kernel

theorem test_notice_in_hand :
    (holding draining).turn = .timed ∧ (holding draining).noticeTurn = some 70 ∧ (holding draining).visitTurn = false
      ∧ answers (exec .noticeGrant (holding draining)) (fun t => t.isBusy && t.table == [] && t.notices == [] && t.noticeTurn == none) = true
      ∧ answers (exec .noticeGrant (holding { draining with notices := [70, 71] }))
        (fun t => t.notices == [71] && t.noticeTurn == none) = true := by decide +kernel

theorem test_lookup_ends_the_grant_in_hand :
    let s : State := { offered live70 (frameOf (tag70 1 101)) with inFlight := some ⟨.hold, 70, []⟩, inHand := some .visit, sweep := (visiting 0).sweep }
    s.visitTurn = true ∧ s.granted (.lane .a) .lookup = true
      ∧ answers (exec (.lookupByKey (.lane .a)) s) (fun t => t.isBusy && t.inHand == none && !t.visitTurn) = true := by decide +kernel

/-- CONTROL RESET withdraws the operation and not the visit or the notice in hand: with a lookup claimed since, it acts out of its turn
(R82, R97). A further claim leaves it in hand. -/
theorem test_control_reset_keeps_the_grant_in_hand :
    let s : State := { offered live70 (frameOf (tag70 1 101)) with inFlight := some ⟨.hold, 70, []⟩, inHand := some .visit, sweep := (visiting 0).sweep }
    let n : State := { s with inHand := some .notice, notices := [70] }
    answers (exec .controlReset s) (fun t => !t.isBusy && t.turn == .intake (.lane .a) && t.visitTurn
        && answers (exec .sweepVisit t) (fun u => u.sweep.position == 71 && u.inHand == none && !u.visitTurn)
        && answers (exec (.release (.whole 70)) t) (fun u => u.isBusy && u.inHand == some .visit && u.visitTurn)) = true
      ∧ answers (exec .controlReset n) (fun t => t.noticeTurn == some 70 && !t.visitTurn
        && answers (exec .noticeGrant t) (fun u => u.notices == [] && u.inHand == none)) = true := by decide +kernel

/-! ### A flush (R155) -/

/-- A frame of one copy queued on P0 and one of two, its other copy in transmission there; handles 70 and 71. -/
def queued : State :=
  { running with
    pool := [⟨3, frameOf (tag70 1 101), .trip, 2⟩, ⟨4, frameOf (tag70 1 102), .trip, 1⟩], nextName := 5, tallies := [(70, 2), (71, 2)]
    ports := (running.ports.set (.bay .p0)
        { unitUp with sending := some ⟨3, .tagRemoved, some 70⟩, trip := [⟨4, .tagRemoved, some 70⟩] }).set (.lane .b)
      { unitUp with sending := some ⟨3, .hopsRewritten 0, some 71⟩ } }

/-- The frame with no copy left holds no cell, the other keeps one copy, and the tally that falls to 0 lists its notice. -/
theorem test_flush_releases_the_copies :
    let gone (t : State) : Bool :=
      t.pool == [⟨3, frameOf (tag70 1 101), .trip, 1⟩] && t.tally 70 == 0 && t.tally 71 == 2 && t.notices == [70]
        && (t.port (.bay .p0)).counters.flushed == 2 && t.freeCells == 383
    queued.freeCells = 382
      ∧ queued.poolWithout (queued.port (.bay .p0)).descriptors = [⟨3, frameOf (tag70 1 101), .trip, 1⟩]
      ∧ answers (exec (.linkSignalLost (.bay .p0)) queued) gone = true ∧ answers (exec (.portOff 2) queued) gone = true
      ∧ answers (exec (.portOff 1) queued) (fun t => t.pool.length == 2 && t.tally 71 == 1 && t.notices == []) = true
      ∧ answers (exec (.prove 1) queued) (fun t => t.pool.map StoredFrame.outstanding == [1, 1, 1] && t.tally 71 == 1) = true
      ∧ answers (exec (.endProve 1) (portIn .proving (.lane .b) queued))
        (fun t => (t.port (.lane .b)).state == .up && t.pool.map StoredFrame.outstanding == [1, 1] && t.tally 71 == 1) = true
      ∧ answers (exec (.linkSignalLost (.lane .b)) (portIn .proving (.lane .b) queued))
        (fun t => (t.port (.lane .b)).state == .down && t.pool.map StoredFrame.outstanding == [1, 1] && t.tally 71 == 1) = true := by
  decide +kernel

/-- The last copy of a frame of 64 bytes is in transmission: its cell is free at the end (R145). -/
def lastCopy : State :=
  { running with
    pool := [⟨3, frameOf (tag70 1 101), .trip, 1⟩], nextName := 4, tallies := [(70, 1)]
    ports := running.ports.set (.bay .p0) { unitUp with sending := some ⟨3, .tagRemoved, some 70⟩ } }

theorem test_last_copy_frees_the_cells :
    PoolLaw lastCopy ∧ CellLaw lastCopy
      ∧ answers (exec (.transmissionEnd (.bay .p0)) lastCopy) (fun t => t.pool == [] && t.freeCells == lastCopy.freeCells + 1) = true := by
  refine ⟨⟨by decide +kernel, by decide +kernel, by decide +kernel, by decide +kernel⟩,
    ⟨by decide +kernel, by decide +kernel, by decide +kernel⟩, by decide +kernel⟩

/-! ### Queue drops (R149) -/

/-- A port of the class TRIP at its capacity, its transmitter busy. -/
def fullQueue (p : Port) (s : State) : State :=
  s.modPort p (fun u => { u with sending := some ⟨900, .asStored, none⟩, trip := List.replicate 32 ⟨900, .asStored, none⟩ })

/-- One copy is lost to a full queue and the other goes ahead; no flag is set (R149). -/
theorem test_queue_drop_leaves_the_other_copies :
    (fullQueue (.bay .p0) running).queueFull (.bay .p0) .trip = true ∧ running.queueFull (.bay .p0) .trip = false
      ∧ answers (exec (.lookupByKey (.lane .a)) (fullQueue (.bay .p0) (offered { live70 with config := { config70 with delivery := 3 } }
          (frameOf (tag70 0 101)))))
        (fun t => (t.port (.bay .p0)).counters.queueDrops == 1 && (t.port (.bay .p1)).sending == some ⟨0, .tagRemoved, some 70⟩
          && (t.record 70).marked 101 && t.tally 70 == 1 && t.flags == 0 && t.pool.map StoredFrame.outstanding == [1]) = true := by
  decide +kernel

/-- Every queue is full: "refused", unmarked, no cell held; a lane frame's transit goes on all the same (R58). -/
theorem test_full_queues_refuse_the_first_copy :
    answers (exec (.lookupByKey (.lane .a)) (fullQueue (.bay .p0) (offered live70 (frameOf (tag70 0 101)))))
        (fun t => (t.record 70).counters.refused == 1 && !(t.record 70).marked 101 && t.pool == [] && t.tallies == []
          && (t.port (.bay .p0)).counters.queueDrops == 1 && !t.flag .pool) = true
      ∧ answers (exec (.lookupByKey (.lane .a)) (fullQueue (.bay .p0) (offered live70 (frameOf (tag70 1 101)))))
        (fun t => (t.record 70).counters.refused == 1 && (t.port (.lane .b)).sending == some ⟨0, .hopsRewritten 0, none⟩
          && t.pool.map StoredFrame.outstanding == [1]) = true
      ∧ answers (exec (.lookupByKey (.bay .p1)) (fullQueue (.lane .a) (fullQueue (.lane .b) (fullQueue (.bay .p2)
          (pairOffered pair70 (frameOf (tag70 1 101)))))))
        (fun t => (t.record 70).counters.refused == 1 && (t.record 70).counters.injected == 0 && !(t.record 70).marked 101
          && t.pool == [] && t.tallies == [] && (t.port (.lane .a)).counters.queueDrops == 1) = true
      ∧ answers (exec (.patternSearch .p0) (fullQueue (.lane .a) (fullQueue (.lane .b) (searching single80))))
        (fun t => (t.record 80).counters.refused == 1 && (t.record 80).sendCounter == 1 && t.pool == [] && t.tallies == []
          && (t.port (.lane .b)).counters.queueDrops == 1 && !t.flag .pool) = true
      ∧ answers (exec (.patternSearch .p0) { searching single80 with pool := full })
        (fun t => (t.record 80).counters.refused == 1 && t.flag .pool && (t.port (.bay .p0)).counters.poolRefusals == 1) = true := by
  decide +kernel

/-- A copy for a port that is DOWN, and a transit copy for one in PROVING, are flushed at once; a reflection there is enqueued. -/
theorem test_copies_flushed_at_once :
    let c (role : Role) : Copy := { port := .lane .a, form := .asStored, handle := some 70, role := role }
    (portIn .down (.lane .a) running).flushesAtOnce (c .proving) = true ∧ (portIn .proving (.lane .a) running).flushesAtOnce (c .transit) = true
      ∧ (portIn .proving (.lane .a) running).flushesAtOnce (c .reflection) = false ∧ running.flushesAtOnce (c .transit) = false
      ∧ ((portIn .proving (.lane .a) running).requestAdmission plainFrame .trip [c .transit] [.lane .b]).2 = [.flushed]
      ∧ (((portIn .proving (.lane .a) running).requestAdmission plainFrame .trip [c .transit] [.lane .b]).1.port (.lane .a)).counters.flushed = 1
      ∧ ((portIn .proving (.lane .a) running).requestAdmission plainFrame .trip [c .transit] [.lane .b]).1.pool = [] := by decide +kernel

/-! ### First copies and duplicates on a record with an entry (R42, R45, R48, R49, R60) -/

/-- The live record with an entry for sequence 101, not marked seen, and a mark two behind H. -/
def withEntry (l : LegId) : Record := { live70 with seen := 5, twins := [⟨101, l, 3000⟩, ⟨100, .b, 3000⟩] }

theorem test_first_copy_with_an_entry :
    (withEntry .a).place (arrivalOf (.lane .a) (rx (frameOf (tag70 1 101)))) = .advance
      ∧ takes (offered (withEntry .a) (frameOf (tag70 1 101))) (.lane .a) (rx (frameOf (tag70 1 101))) 70 = true
      ∧ answers (exec (.lookupByKey (.lane .a)) (offered (withEntry .a) (frameOf (tag70 1 101))))
        (fun t => (t.record 70).twins == [⟨100, .b, 3000⟩] && (t.record 70).legA == ⟨1000, .ok, 0⟩ && !(t.record 70).inAttention
          && t.flags == 0 && (t.record 70).state == .live) = true
      ∧ answers (exec (.lookupByKey (.lane .a)) (offered (withEntry .b) (frameOf (tag70 1 101))))
        (fun t => (t.record 70).twins == [⟨100, .b, 3000⟩, ⟨101, .b, 3000⟩]) = true
      ∧ answers (exec (.lookupByKey (.lane .a)) (offered { withEntry .b with twins := [⟨100, .b, 3000⟩] } (frameOf (tag70 1 101))))
        (fun t => (t.record 70).twins == [⟨100, .b, 3000⟩, ⟨101, .b, 3000⟩]) = true := by decide +kernel

/-- A resync of a LIVE record: marks, epoch, marker, list, "resyncs" and the attention set (R42). -/
theorem test_resync_of_a_live_record :
    answers (exec (.lookupByKey (.lane .a)) (offered { withEntry .b with epoch := 7 } (frameOf (tag70 1 101))))
      (fun t => (t.record 70).seen == 1 && (t.record 70).epoch == 2 && (t.record 70).highest == 101
        && (t.record 70).twins == [⟨101, .b, 3000⟩] && (t.record 70).counters.resyncs == 1 && (t.record 70).state == .live
        && (t.record 70).legB == live70.legB && (t.record 70).inAttention && t.flag .attention) = true := by decide +kernel

/-- A late first copy one behind H: "late-first", H stays, and a leg brought back from LOST makes a SINGLE record LIVE (R45, R52). -/
theorem test_late_first_copy_and_a_leg_brought_back :
    answers (exec (.lookupByKey (.lane .a)) (offered { withEntry .b with legA := ⟨900, .lost, 3⟩, state := .single } (frameOf (tag70 1 99))))
      (fun t => (t.record 70).counters.lateFirst == 1 && (t.record 70).highest == 100 && (t.record 70).marked 99
        && (t.record 70).legA == ⟨1000, .ok, 0⟩ && (t.record 70).state == .live && (t.record 70).inAttention
        && t.flag .attention) = true
      ∧ Record.stateLawful { withEntry .b with legA := ⟨900, .lost, 3⟩, state := .single } = true := by decide +kernel

/-- The first echo joins the attention set and the next does not; a twin that heals a LOST leg joins it, one on an OK leg does not. -/
theorem test_duplicates_and_attention :
    answers (exec (.lookupByKey (.lane .a)) (offered (withEntry .b) (frameOf (tag70 1 100))))
        (fun t => (t.record 70).counters.echo == 1 && (t.record 70).echoNoted && (t.record 70).inAttention && t.flag .attention) = true
      ∧ answers (exec (.lookupByKey (.lane .a)) (offered { withEntry .b with echoNoted := true } (frameOf (tag70 1 100))))
        (fun t => (t.record 70).counters.echo == 1 && !(t.record 70).inAttention && t.flags == 0) = true
      ∧ answers (exec (.lookupByKey (.lane .a)) (offered
          { live70 with twins := [⟨100, .a, 3000⟩], legA := ⟨900, .lost, 3⟩, state := .single } (frameOf (tag70 1 100))))
        (fun t => (t.record 70).state == .live && (t.record 70).legA == ⟨1000, .ok, 0⟩ && (t.record 70).inAttention
          && t.flag .attention) = true
      ∧ answers (exec (.lookupByKey (.lane .a)) (offered { live70 with twins := [⟨100, .a, 3000⟩] } (frameOf (tag70 1 100))))
        (fun t => (t.record 70).twins == [] && !(t.record 70).inAttention && t.flags == 0) = true
      ∧ answers (exec (.lookupByKey (.lane .a)) (offered { live70 with twins := [] } (frameOf (tag70 1 100))))
        (fun t => (t.record 70).counters.unmatched == 1 && !(t.record 70).inAttention && t.flags == 0) = true := by decide +kernel

/-! ### Transit-only frames, and the drain of a frozen record -/

/-- NODE 0: with hops left 0 the frame is counted and settled, with the other lane DOWN it is settled alone (R14, R15, R18). -/
theorem test_transit_only_node_without_transit :
    let node0 : State := { running with settings := Settings.reset }
    answers (exec (.laneIntake .a) (arrived (.lane .a) (frameOf (tag70 0 7)) node0))
        (fun t => t == node0.count (.lane .a) PortCounters.expired) = true
      ∧ answers (exec (.laneIntake .a) (arrived (.lane .a) (frameOf (tag70 1 7)) (portIn .down (.lane .b) node0)))
        (fun t => t == portIn .down (.lane .b) node0) = true := by decide +kernel

/-- A record retired before its segment was frozen becomes FREE at its notice, and stays RETIRING while its tally is above 0 (R30). -/
theorem test_frozen_record_drains :
    let frozen := draining.putSetting .freeze 2
    frozen.settings.frozen 70 = true ∧ answers (exec .noticeGrant frozen) (fun t => t.record 70 == Record.free) = true
      ∧ answers (exec .noticeGrant (frozen.putTally 70 1)) (fun t => t.record 70 == frozen.record 70 && t.notices == []) = true := by
  decide +kernel

/-- A bay frame's claim waits while both ports go OFF and the pair is enabled: the write passes and the claim is granted on the path
it was taken on (log 39). -/
theorem test_claim_kept_over_a_pairing :
    let off := portIn .off (.bay .p0) (portIn .off (.bay .p1) (searching single80))
    resultOf (exec (.pairEnableWrite 1) off) = some .done
      ∧ answers (exec (.pairEnableWrite 1) off) (fun t =>
          answers (exec (.patternSearch .p0) t) (fun u => (u.record 80).counters.accepted == 1 && (u.record 80).sendCounter == 1)) = true := by
  decide +kernel

/-! ## The laws hold somewhere -/

/-- A running part with one record, lawful in all its parts. -/
def lawful : State := { running with table := [(70, live70)] }

theorem test_laws_of_table_and_ring :
    Sparse.wf Record.free lawful.table = true ∧ (∀ e ∈ lawful.table, e.1 < 512 ∧ e.2.lawful = true)
      ∧ lawful.settings.inRange = true ∧ lawful.settings.originsDistinct = true ∧ lawful.probe.ring = lawful.ringNow := by
  decide +kernel

theorem test_lawful_state_keeps_keys_apart : KeyLaw lawful := by
  intro h k hh hk _
  have only (n : Nat) (hn : (lawful.record n).state.occupied = true) : n = 70 := by
    refine Classical.byContradiction fun hne => ?_
    have : lawful.record n = Record.free := by simp [State.record, lawful, Sparse.get, Ne.symm hne]
    rw [this] at hn
    exact absurd hn (by decide)
  rw [only h hh, only k hk]

theorem test_lawful_state_has_the_other_laws :
    TableLaw lawful ∧ CellLaw lawful ∧ PoolLaw lawful ∧ TallyLaw lawful ∧ PortLaw lawful ∧ RingLaw lawful ∧ RosterLaw lawful
      ∧ BufferLaw lawful ∧ SweepLaw lawful ∧ StartLaw lawful ∧ LoaderLaw lawful ∧ SettingsLaw lawful := by
  refine ⟨⟨by decide +kernel, by decide +kernel⟩, ⟨by decide, by decide, by decide⟩, ⟨by decide, by decide, by decide, by decide⟩,
    ⟨by decide, fun h => rfl⟩, ⟨fun p => ?_, fun p => ?_⟩, ⟨fun _ => by decide +kernel, by decide, by decide, by decide⟩,
    ⟨by decide, by decide, by decide⟩, ⟨by decide, by decide, by decide, by decide⟩, ⟨by decide, by decide⟩,
    ⟨fun h => absurd h (by decide), by decide, by decide⟩, ⟨by decide, by decide, by decide, by decide, by decide⟩,
    ⟨by decide +kernel, by decide +kernel⟩⟩
  · rcases p with l | q
    · cases l <;> decide
    · cases q <;> decide
  · cases p <;> decide

theorem test_frozen_segment : Settings.frozen { running.settings with freeze := 2 } 70 = true ∧ segmentOf 511 = 7 := by decide

end Sys2Proof.Tests
end

section
namespace Sys2Proof.Machine

/-! ## Receptions (R9, R62, R117, R146) -/

/-- Settles O14: whether a reception begins, and whether its frame is stored, is asked of the port's state, by cases on that state. -/
theorem receptionStoresTheFrameWithItsArrivalTime : Obligations.ReceptionStoresTheFrameWithItsArrivalTime := by
  intro p frame s
  have service : s.inService p = true ↔ (s.port p).state = .up ∨ (s.port p).state = .proving := PortState.inService_iff _
  constructor
  · show Host.Outcome.next (if s.inService p = true then _ else s) = _
    by_cases up : s.inService p = true
    · rw [if_pos up, if_pos (service.mp up)]; rfl
    · rw [if_neg up, if_neg (mt service.mpr up)]
  · show Host.Outcome.next (if ((s.port p).underWay && s.inService p) = true then s.receive p frame else s) = _
    have taken : ((s.port p).underWay && s.inService p) = true ↔
        (s.port p).underWay = true ∧ ((s.port p).state = .up ∨ (s.port p).state = .proving) := by
      rw [Bool.and_eq_true_iff, service]
    by_cases stored : ((s.port p).underWay && s.inService p) = true
    · rw [if_pos stored, if_pos (taken.mp stored)]; rfl
    · rw [if_neg stored, if_neg (mt taken.mpr stored)]

/-! ## Writes of NODE, ATTACHED NODE and PAIR ENABLE (R5, R6, R122, R142) -/

/-- The port is OFF, as the writes ask it. -/
theorem State.isOff_iff (s : State) (p : Port) : s.isOff p = true ↔ (s.port p).state = .off := beq_iff_eq

theorem State.pairOff_iff (s : State) (k : Pair) :
    s.pairOff k = true ↔ (s.port (.bay k.first)).state = .off ∧ (s.port (.bay k.second)).state = .off := by
  rw [State.pairOff, Bool.and_eq_true_iff, State.isOff_iff, State.isOff_iff]

theorem Settings.clashesWithPair_iff (v : Settings) (k : Pair) (x : Word) :
    v.clashesWithPair k x = true ↔ x ≠ 0 ∧ v.pairEnabled k = true ∧ x = v.attached k := by
  simp [Settings.clashesWithPair, and_assoc]

/-- A write of a setting is answered with the state and the result of its own judgement (R159). -/
theorem State.immediate_silently (s : State) (x : Word) (write : Word → State × Result) (hr : s.ready = true) {t : State} {r : Result}
    (hw : write x = (t, r)) :
    s.immediate (.whole x) 3 (fun y => silently (write y)) = s.replied t 3 r [] := by
  rw [State.immediate_whole _ _ _ _ hr, silently, hw]

theorem exec_nodeWrite (x : Word) (s : State) :
    exec (.nodeWrite x) s = .next (s.immediate (.whole x) 3 (fun y => silently (s.writeNode y))) := rfl

theorem exec_attachedNodeWrite (k : Pair) (x : Word) (s : State) :
    exec (.attachedNodeWrite k x) s = .next (s.immediate (.whole x) 3 (fun y => silently (s.writeAttached k y))) := rfl

theorem exec_pairEnableWrite (x : Word) (s : State) :
    exec (.pairEnableWrite x) s = .next (s.immediate (.whole x) 3 (fun y => silently (s.writePairEnable y))) := rfl

theorem Pair.exists_iff (P : Pair → Prop) : (∃ k, P k) ↔ P .pair0 ∨ P .pair1 :=
  ⟨fun ⟨k, hk⟩ => by cases k with | pair0 => exact .inl hk | pair1 => exact .inr hk, fun h => h.elim (⟨_, ·⟩) (⟨_, ·⟩)⟩

/-- Of the values 0 to 3, the one with both pair bits is 3. -/
theorem bothBits_iff {x : Word} (hx : x.toNat ≤ 3) : x = 3 ↔ x.getLsbD 0 = true ∧ x.getLsbD 1 = true := by
  have : x = 0 ∨ x = 1 ∨ x = 2 ∨ x = 3 := by bv_omega
  rcases this with rfl | rfl | rfl | rfl <;> decide

theorem State.pairBlocked_iff (s : State) (k : Pair) (x : Word) :
    s.pairBlocked k x = true ↔ x.getLsbD k.index ≠ s.settings.pairEnable.getLsbD k.index
      ∧ ¬ ((s.port (.bay k.first)).state = .off ∧ (s.port (.bay k.second)).state = .off) := by
  rw [State.pairBlocked, Bool.and_eq_true_iff, bne_iff_ne, Bool.not_eq_true', ← Bool.not_eq_true, s.pairOff_iff, Settings.pairEnabled]

theorem Settings.enablesNode_iff (v : Settings) (k : Pair) (x : Word) :
    v.enablesNode k x = true ↔ x.getLsbD k.index = true ∧ v.pairEnable.getLsbD k.index = false ∧ v.attached k ≠ 0 ∧ v.attached k = v.node := by
  simp [Settings.enablesNode, Settings.pairEnabled, and_assoc]

/-- An ATTACHED NODE write that its ports or its value forbid (R6). -/
theorem State.writeAttached_refused (s : State) (k : Pair) (x : Word) :
    (s.pairOff k = false → s.writeAttached k x = (s, .wrongState))
      ∧ (s.pairOff k = true →
          60 < x.toNat ∨ (x ≠ 0 ∧ x = s.settings.node) ∨ s.settings.clashesWithPair k.other x = true →
          s.writeAttached k x = (s, .badValue)) := by
  unfold State.writeAttached
  refine ⟨fun ho => by simp [ho], fun ho hb => ?_⟩
  rw [if_neg (by simp [ho])]
  rcases hb with h60 | hnode | hpair
  · rw [if_pos h60]
  · rw [if_pos hnode, ite_self]
  · rw [if_pos hpair, ite_self, ite_self]

/-- A PAIR ENABLE write that its range, its ports or a clash forbid (R122). -/
theorem State.writePairEnable_refused (s : State) (x : Word) :
    (3 < x.toNat → s.writePairEnable x = (s, .badValue))
      ∧ (x.toNat ≤ 3 → (s.pairBlocked .pair0 x || s.pairBlocked .pair1 x) = true → s.writePairEnable x = (s, .wrongState))
      ∧ (x.toNat ≤ 3 → (s.pairBlocked .pair0 x || s.pairBlocked .pair1 x) = false →
          (s.settings.enablesNode .pair0 x || s.settings.enablesNode .pair1 x) = true
            ∨ (x = 3 ∧ s.settings.attachedNode0 ≠ 0 ∧ s.settings.attachedNode0 = s.settings.attachedNode1) →
          s.writePairEnable x = (s, .badValue)) := by
  unfold State.writePairEnable
  refine ⟨fun h3 => if_pos h3, fun h3 hb => ?_, fun h3 hb hc => ?_⟩
  · rw [if_neg (Nat.not_lt.mpr h3), if_pos hb]
  · rw [if_neg (Nat.not_lt.mpr h3), if_neg (Bool.eq_false_iff.mp hb)]
    rcases hc with hnode | hpairs
    · rw [if_pos hnode]
    · rw [if_pos hpairs, ite_self]

/-- An ATTACHED NODE write is answered by the order of R6. -/
theorem attachedNodeWrite_judged (k : Pair) (x : Word) (s : State) (hr : s.ready = true) :
    let off := (s.port (.bay k.first)).state = .off ∧ (s.port (.bay k.second)).state = .off
    let bad := 60 < x.toNat ∨ (x ≠ 0 ∧ x = s.settings.node)
      ∨ (x ≠ 0 ∧ s.settings.pairEnabled k.other = true ∧ x = s.settings.attached k.other)
    (¬ off → exec (.attachedNodeWrite k x) s = .next (s.replied s 3 .wrongState []))
      ∧ (off → bad → exec (.attachedNodeWrite k x) s = .next (s.replied s 3 .badValue []))
      ∧ (off → ¬ bad → exec (.attachedNodeWrite k x) s = .next (s.replied (s.putSetting (attachedSetting k) x) 3 .done [])) := by
  intro off bad
  have hbad : bad ↔ 60 < x.toNat ∨ (x ≠ 0 ∧ x = s.settings.node) ∨ s.settings.clashesWithPair k.other x = true := by
    rw [Settings.clashesWithPair_iff]
  rw [show off ↔ _ from (s.pairOff_iff k).symm, hbad, Bool.not_eq_true, exec_attachedNodeWrite]
  obtain ⟨hnotOff, hforbidden⟩ := s.writeAttached_refused k x
  refine ⟨fun ho => ?_, fun ho hb => ?_, fun ho hb => ?_⟩
  · rw [s.immediate_silently x _ hr (hnotOff ho)]
  · rw [s.immediate_silently x _ hr (hforbidden ho hb)]
  · obtain ⟨h60, hnode, hpair⟩ := not_or.mp hb |>.imp_right not_or.mp
    rw [s.immediate_silently x _ hr (t := s.putSetting (attachedSetting k) x) (r := .done)]
    rw [State.writeAttached, if_neg (by simp [ho]), if_neg h60, if_neg hnode, if_neg hpair]

/-- A PAIR ENABLE write is answered by the order of R122. -/
theorem pairEnableWrite_judged (x : Word) (s : State) (hr : s.ready = true) :
    let blocked := (s.pairBlocked .pair0 x || s.pairBlocked .pair1 x) = true
    let clash := (s.settings.enablesNode .pair0 x || s.settings.enablesNode .pair1 x) = true
      ∨ (x = 3 ∧ s.settings.attachedNode0 ≠ 0 ∧ s.settings.attachedNode0 = s.settings.attachedNode1)
    (3 < x.toNat → exec (.pairEnableWrite x) s = .next (s.replied s 3 .badValue []))
      ∧ (x.toNat ≤ 3 → blocked → exec (.pairEnableWrite x) s = .next (s.replied s 3 .wrongState []))
      ∧ (x.toNat ≤ 3 → ¬ blocked → clash → exec (.pairEnableWrite x) s = .next (s.replied s 3 .badValue []))
      ∧ (x.toNat ≤ 3 → ¬ blocked → ¬ clash →
          exec (.pairEnableWrite x) s = .next (s.replied (s.putSetting .pairEnable x) 3 .done [])) := by
  intro blocked clash
  obtain ⟨hrange, hblocked, hclash⟩ := s.writePairEnable_refused x
  rw [exec_pairEnableWrite]
  refine ⟨fun h3 => ?_, fun h3 hb => ?_, fun h3 hb hc => ?_, fun h3 hb hc => ?_⟩
  · rw [s.immediate_silently x _ hr (hrange h3)]
  · rw [s.immediate_silently x _ hr (hblocked h3 hb)]
  · rw [s.immediate_silently x _ hr (hclash h3 (Bool.eq_false_iff.mpr hb) hc)]
  · obtain ⟨hnode, hpairs⟩ := not_or.mp hc
    rw [s.immediate_silently x _ hr (t := s.putSetting .pairEnable x) (r := .done)]
    rw [State.writePairEnable, if_neg (Nat.not_lt.mpr h3), if_neg hb, if_neg hnode, if_neg hpairs]

/-- Settles O49, from the two writes' judgements, their checks said as the rules say them. -/
theorem pairSettingWritesNeedPortsOffAndNoClash : Obligations.PairSettingWritesNeedPortsOffAndNoClash := by
  constructor
  · intro k x s hr
    obtain ⟨hnotOff, hforbidden, hwritten⟩ := attachedNodeWrite_judged k x s hr
    refine ⟨hnotOff, hforbidden, fun ho hb => ?_⟩
    rw [hwritten ho hb]
    cases k <;> rfl
  · intro x s hr off blocked clash
    obtain ⟨hrange, hblocked, hclash, hwritten⟩ := pairEnableWrite_judged x s hr
    have blocked_iff : blocked ↔ (s.pairBlocked .pair0 x || s.pairBlocked .pair1 x) = true := by
      rw [Bool.or_eq_true_iff, State.pairBlocked_iff, State.pairBlocked_iff]
      exact Pair.exists_iff _
    have clash_iff (h3 : x.toNat ≤ 3) : clash ↔ (s.settings.enablesNode .pair0 x || s.settings.enablesNode .pair1 x) = true
        ∨ (x = 3 ∧ s.settings.attachedNode0 ≠ 0 ∧ s.settings.attachedNode0 = s.settings.attachedNode1) := by
      rw [Bool.or_eq_true_iff, Settings.enablesNode_iff, Settings.enablesNode_iff, bothBits_iff h3, and_assoc]
      exact or_congr_left (Pair.exists_iff _)
    exact ⟨hrange, fun h3 hb => hblocked h3 (blocked_iff.mp hb),
      fun h3 hb hc => hclash h3 (mt blocked_iff.mpr hb) ((clash_iff h3).mp hc),
      fun h3 hb hc => hwritten h3 (mt blocked_iff.mpr hb) (mt (clash_iff h3).mpr hc)⟩

/-- A NODE write that the lanes or its value forbid (R5). -/
theorem State.writeNode_refused (s : State) (x : Word) :
    ((s.isOff (.lane .a) && s.isOff (.lane .b)) = false → s.writeNode x = (s, .wrongState))
      ∧ ((s.isOff (.lane .a) && s.isOff (.lane .b)) = true →
          60 < x.toNat ∨ (s.settings.clashesWithPair .pair0 x || s.settings.clashesWithPair .pair1 x) = true →
          s.writeNode x = (s, .badValue)) := by
  unfold State.writeNode
  refine ⟨fun ho => by rw [ho]; rfl, fun ho hb => ?_⟩
  rw [if_neg (by rw [ho]; exact Bool.false_ne_true)]
  rcases hb with h60 | hpair
  · rw [if_pos h60]
  · rw [if_pos hpair, ite_self]

/-- The probe unit a NODE write leaves, before the ring state is set anew (R142). -/
def State.unitRestarted (s : State) : ProbeUnit :=
  { s.probe with
    serials := [], nextSerial := none, answeredA := false, answeredB := false
    missA := if s.settings.node = 0 then 0 else 15
    missB := if s.settings.node = 0 then 0 else 15
    boundary := some (s.bayClock + milliseconds s.settings.probeInterval)
    roster := if s.settings.node = 0 then s.probe.roster
      else Sparse.put RosterEntry.absent s.probe.roster s.settings.node.toNat RosterEntry.absent }

/-- The entry of the node's own number was heard, for which a restart sets ROSTER (R142). -/
def State.ownEntryHeard (s : State) : Bool := s.settings.node != 0 && (s.rosterEntry s.settings.node.toNat).status != 0

theorem Word.toNat_eq_zero (x : Word) : x.toNat = 0 ↔ x = 0 := by bv_omega

theorem State.restartProbes_judged (s : State) :
    s.restartProbes = (({ s with probe := s.unitRestarted } : State).raiseIf s.ownEntryHeard .roster).judgeRing := by
  have hz : (s.settings.node.toNat != 0) = (s.settings.node != 0) := Bool.eq_iff_iff.mpr (by simp [Word.toNat_eq_zero])
  simp only [State.restartProbes, State.unitRestarted, State.ownEntryHeard, hz, Word.toNat_eq_zero]
  by_cases hn : s.settings.node = 0
  · simp only [hn, if_true]; rfl
  · simp only [hn, if_false]; rfl

/-- The ring state after a restart: with both lanes OFF it is OPEN, or NONE at NODE 0 (R137, R142). -/
theorem State.ringNow_lanesDown (s : State) (hl : s.lanesUp = false) : s.ringNow = if s.settings.node = 0 then .noRing else .isOpen := by
  rw [State.ringNow, hl]; rfl

/-- A restart moves the probe unit and the flags alone: the unit restarted with its ring state set anew, ROSTER by the node's own entry
and RING by the ring state's change (R137, R142). -/
theorem State.restartProbes_eq (s : State) :
    s.restartProbes = { s with
        probe := { s.unitRestarted with ring := ({ s with probe := s.unitRestarted } : State).ringNow }, flags := s.restartProbes.flags }
      ∧ ∀ f, s.restartProbes.flag f = ((s.flag f || (s.ownEntryHeard && decide (Flag.roster = f)))
          || (decide (f = .ring) && s.restartProbes.probe.ring != s.probe.ring)) := by
  have hj := s.restartProbes_judged
  generalize hu : ({ s with probe := s.unitRestarted } : State).raiseIf s.ownEntryHeard .roster = u at hj
  have hp : u.probe = s.unitRestarted := by rw [← hu, State.raiseIf_probe]
  have hr : u.ringNow = ({ s with probe := s.unitRestarted } : State).ringNow := by
    rw [← hu]; cases s.ownEntryHeard <;> rfl
  constructor
  · have he := u.judgeRing_eq
    rw [State.judgeRing_ring u (by rw [hp]; rfl), ← hj, hr, hp] at he
    rw [he, ← hu, State.raiseIf_eq]
  · intro f
    rw [hj, State.judgeRing_flag, hp, ← hu, State.flag_raiseIf]
    rfl

theorem State.lanesUp_of_off {s : State} (ho : (s.isOff (.lane .a) && s.isOff (.lane .b)) = true) : s.lanesUp = false := by
  have ha : (s.port (.lane .a)).state = .off := s.isOff_iff _ |>.mp (Bool.and_eq_true_iff.mp ho).1
  simp [State.lanesUp, State.isUp, ha]

/-- Settles O48, from the write's judgement and from what a restart leaves. -/
theorem nodeWriteRestartsTheProbeUnit : Obligations.NodeWriteRestartsTheProbeUnit := by
  intro x s hr lanesOff clashes
  have lanesOff_iff : lanesOff ↔ (s.isOff (.lane .a) && s.isOff (.lane .b)) = true := by
    rw [Bool.and_eq_true_iff, State.isOff_iff, State.isOff_iff]
  have clashes_iff : clashes ↔ (s.settings.clashesWithPair .pair0 x || s.settings.clashesWithPair .pair1 x) = true := by
    rw [Bool.or_eq_true_iff, Settings.clashesWithPair_iff, Settings.clashesWithPair_iff, ← and_or_left]; rfl
  obtain ⟨hnotOff, hforbidden⟩ := s.writeNode_refused x
  rw [lanesOff_iff, clashes_iff, exec_nodeWrite]
  refine ⟨fun ho => ?_, fun ho hb => ?_, fun ho h60 hc => ?_⟩
  · rw [s.immediate_silently x _ hr (hnotOff (Bool.eq_false_iff.mpr ho))]
  · rw [s.immediate_silently x _ hr (hforbidden ho hb)]
  · have hw : s.writeNode x = ((s.putSetting .node x).restartProbes, .done) := by
      rw [State.writeNode, if_neg (by rw [ho]; exact Bool.false_ne_true), if_neg (Nat.not_lt.mpr h60), if_neg hc]
    refine ⟨_, by rw [s.immediate_silently x _ hr hw], ?_⟩
    obtain ⟨heq, hflag⟩ := (s.putSetting .node x).restartProbes_eq
    have hring := (({ s.putSetting .node x with probe := (s.putSetting .node x).unitRestarted } : State)).ringNow_lanesDown
      (State.lanesUp_of_off ho)
    generalize ht : (s.putSetting .node x).restartProbes = t at *
    have hprobe := congrArg State.probe heq
    dsimp only at hprobe
    rw [hring] at hprobe
    have hroster (k : Nat) : t.rosterEntry k = if x ≠ 0 ∧ k = x.toNat then RosterEntry.absent else s.rosterEntry k := by
      show Sparse.get _ t.probe.roster k = _
      rw [hprobe]
      show Sparse.get _ (if x = 0 then _ else Sparse.put _ _ x.toNat _) k = _
      by_cases hx : x = 0
      · rw [if_pos hx, if_neg (fun h => h.1 hx)]; rfl
      · by_cases hk : k = x.toNat
        · rw [if_neg hx, if_pos ⟨hx, hk⟩, hk, Sparse.get_put_same]
        · rw [if_neg hx, if_neg (fun h => hk h.2), Sparse.get_put_other _ _ _ hk]; rfl
    refine ⟨by rw [heq]; rfl, by rw [hprobe]; rfl, by rw [hprobe]; rfl, by rw [hprobe]; rfl, by rw [hprobe]; rfl, by rw [hprobe]; rfl,
      by rw [hprobe]; rfl, by rw [hprobe]; rfl, by rw [hprobe]; rfl, ?_, ?_, ?_, ?_, ?_, ?_⟩
    · rw [hprobe]; rfl
    · intro hx; rw [hroster, if_pos ⟨hx, rfl⟩]
    · intro k hk; rw [hroster, if_neg (fun h => hk.elim (· h.2) h.1)]
    · simpa [State.flag] using hflag .ring
    · have hf : t.flag .roster = (s.flag .roster || (s.putSetting .node x).ownEntryHeard) := by simpa [State.flag] using hflag .roster
      exact hf
    · rw [heq]; rfl

end Sys2Proof.Machine
end

section
namespace Sys2Proof.Machine

/-! ## A frame's tag, read and written again (R4, R56, R67) -/

/-- The seven bytes that a 56-bit number is written as make the number (R178). -/
theorem covered_number (w : BitVec 56) :
    w.extractLsb' 48 8 ++ w.extractLsb' 40 8 ++ w.extractLsb' 32 8 ++ w.extractLsb' 24 8 ++ w.extractLsb' 16 8
      ++ w.extractLsb' 8 8 ++ w.extractLsb' 0 8 = w := by
  have join {hi lo len : Nat} (h : hi = lo + 8) : w.extractLsb' hi len ++ w.extractLsb' lo 8 = w.extractLsb' lo (len + 8) :=
    BitVec.extractLsb'_append_extractLsb'_eq_extractLsb' h
  rw [join (by decide : 48 = 40 + 8), join (by decide : 40 = 32 + 8), join (by decide : 32 = 24 + 8), join (by decide : 24 = 16 + 8),
    join (by decide : 16 = 8 + 8), join (by decide : 8 = 0 + 8)]
  exact BitVec.extractLsb'_eq_self

/-- Each field of a tag, cut from the tag's bits (12.2). -/
theorem Tag.bits_fields (t : Tag) :
    t.bits.extractLsb' 54 2 = t.cls.code ∧ t.bits.extractLsb' 48 6 = t.origin ∧ t.bits.extractLsb' 42 6 = t.hops
      ∧ t.bits.extractLsb' 38 4 = t.epoch ∧ t.bits.extractLsb' 24 14 = t.stream ∧ t.bits.extractLsb' 8 16 = t.seq
      ∧ t.bits.extractLsb' 0 8 = t.renewal := by
  have past {v w start len : Nat} (x : BitVec v) (y : BitVec w) (h : w ≤ start) :
    (x ++ y).extractLsb' start len = x.extractLsb' (start - w) len := BitVec.extractLsb'_append_eq_of_le h
  have last {v w : Nat} (x : BitVec v) (y : BitVec w) : (x ++ y).extractLsb' 0 w = y := BitVec.extractLsb'_append_eq_right
  unfold Tag.bits
  refine ⟨?_, ?_, ?_, ?_, ?_, ?_, last _ _⟩
  · repeat rw [past _ _ (by decide)]
    exact BitVec.extractLsb'_eq_self
  all_goals
    repeat rw [past _ _ (by decide)]
    exact last _ _

/-- A frame whose bytes 14 to 20 are a tag's covered bytes has that tag (12.2). -/
theorem tagOf_of_covered (t : Tag) (frame : List Byte) (h : ∀ i < 7, byteAt frame (14 + i) = t.covered.getD i 0) : tagOf frame = t := by
  have hnumber : byteAt frame 14 ++ byteAt frame 15 ++ byteAt frame 16 ++ byteAt frame 17 ++ byteAt frame 18 ++ byteAt frame 19
      ++ byteAt frame 20 = t.bits := by
    rw [h 0 (by decide), h 1 (by decide), h 2 (by decide), h 3 (by decide), h 4 (by decide), h 5 (by decide), h 6 (by decide)]
    exact covered_number t.bits
  obtain ⟨hcls, horigin, hhops, hepoch, hstream, hseq, hrenewal⟩ := t.bits_fields
  rw [tagOf, hnumber, hcls, horigin, hhops, hepoch, hstream, hseq, hrenewal, TagClass.ofCode_code]

theorem contentsOf_length (frame : List Byte) : (contentsOf frame).length = frame.length - 4 := by
  rw [contentsOf, List.length_take, Nat.min_eq_left (Nat.sub_le _ _)]

/-- What stands before a frame's FCS stands at the same places in its contents. -/
theorem take_contentsOf {frame : List Byte} {n : Nat} (h : n + 4 ≤ frame.length) : (contentsOf frame).take n = frame.take n := by
  rw [contentsOf, List.take_take, Nat.min_eq_left (by omega)]

/-- A frame whose FCS matches is its contents with their FCS (R3). -/
theorem withFcs_contentsOf {frame : List Byte} (h : fcsMatches frame = true) : withFcs (contentsOf frame) = frame := by
  obtain ⟨-, htail⟩ := Bool.and_eq_true_iff.mp h
  rw [withFcs, ← beq_iff_eq.mp htail, contentsOf, List.take_append_drop]

/-- A frame with its hops left rewritten: 14 bytes as they were, the tag with the new hops left, its check, and the rest as it was (R4). -/
theorem rewriteHops_eq (hops : BitVec 6) (frame : List Byte) :
    rewriteHops hops frame = withFcs (frame.take 14 ++ ({ tagOf frame with hops := hops } : Tag).covered
      ++ [crc8 ({ tagOf frame with hops := hops } : Tag).covered] ++ (contentsOf frame).drop 22) := rfl

/-- Where the parts of a tagged frame stand: 14 bytes, seven covered bytes, the tag check, the rest and the FCS. -/
theorem taggedFrame_parts (before covered rest : List Byte) (check : Byte) (hb : before.length = 14) (hc : covered.length = 7) :
    let frame := withFcs (before ++ covered ++ [check] ++ rest)
    frame.take 14 = before ∧ coveredBytes frame = covered ∧ byteAt frame 21 = check ∧ (contentsOf frame).drop 22 = rest
      ∧ frame.length = rest.length + 26 := by
  intro frame
  have hf : frame = before ++ (covered ++ (check :: (rest ++ fcsBytes (before ++ covered ++ [check] ++ rest)))) := by
    simp [frame, withFcs]
  have h14 : frame.drop 14 = covered ++ (check :: (rest ++ fcsBytes (before ++ covered ++ [check] ++ rest))) := by
    rw [hf, List.drop_left' hb]
  refine ⟨by rw [hf, List.take_left' hb], by rw [coveredBytes, h14, List.take_left' hc], ?_, ?_, ?_⟩
  · have hget : byteAt frame 21 = (frame.drop 14).getD 7 0 := by simp [byteAt]
    rw [hget, h14]
    simp [hc]
  · rw [contentsOf_withFcs, List.drop_left' (by simp [hb, hc])]
  · rw [withFcs_length]; simp [hb, hc]; omega

/-- Rewriting hops left changes the tag's hops left, its check and the FCS, and nothing else (R4, R147). -/
theorem rewriteHops_keeps (hops : BitVec 6) (frame : List Byte) (h : 64 ≤ frame.length) :
    (rewriteHops hops frame).length = frame.length
      ∧ tagOf (rewriteHops hops frame) = { tagOf frame with hops := hops }
      ∧ fcsMatches (rewriteHops hops frame) = true ∧ crc8 (coveredBytes (rewriteHops hops frame)) = byteAt (rewriteHops hops frame) 21
      ∧ (rewriteHops hops frame).take 14 = frame.take 14
      ∧ (contentsOf (rewriteHops hops frame)).drop 22 = (contentsOf frame).drop 22 := by
  have hb : (frame.take 14).length = 14 := by rw [List.length_take]; omega
  rw [rewriteHops_eq]
  generalize ({ tagOf frame with hops := hops } : Tag) = tag
  obtain ⟨htake, hcovered, hcheck, hrest, hlength⟩ :=
    taggedFrame_parts (frame.take 14) tag.covered ((contentsOf frame).drop 22) (crc8 tag.covered) hb tag.covered_length
  refine ⟨?_, tagOf_of_covered tag _ (fun i hi => ?_), fcsMatches_withFcs _, by rw [hcovered, hcheck], htake, hrest⟩
  · rw [hlength, List.length_drop, contentsOf_length]; omega
  · rw [withFcs, List.append_assoc, List.append_assoc]
    exact byteAt_covered tag _ _ hb i hi

/-- Removing a tag that was put in gives the frame back (R56, R67). -/
theorem removeTag_insertTag (typeWord : Word) (tag : Tag) (frame : List Byte) (h : 64 ≤ frame.length) (hf : fcsMatches frame = true) :
    removeTag (insertTag typeWord tag frame) = frame := by
  have h12 : (frame.take 12).length = 12 := by rw [List.length_take]; omega
  have hbytes : (tag.bytes typeWord).length = 10 := rfl
  have htake : (insertTag typeWord tag frame).take 12 = frame.take 12 := by
    rw [insertTag, withFcs, List.append_assoc, List.append_assoc, List.take_left' h12]
  have hdrop : (contentsOf (insertTag typeWord tag frame)).drop 22 = (contentsOf frame).drop 12 := by
    rw [insertTag, contentsOf_withFcs, List.drop_left' (by rw [List.length_append, h12, hbytes])]
  have hcontents : frame.take 12 ++ (contentsOf frame).drop 12 = contentsOf frame := by
    rw [← take_contentsOf (by omega), List.take_append_drop]
  have hfull : 60 - (contentsOf frame).length = 0 := by rw [contentsOf_length]; omega
  unfold removeTag
  rw [htake, hdrop, hcontents]
  dsimp only
  rw [hfull, List.replicate_zero, List.append_nil, withFcs_contentsOf hf]

/-- Settles O31, from where the parts of a tagged frame stand. -/
theorem rewriteAndUntagKeepTheRest : Obligations.RewriteAndUntagKeepTheRest := ⟨rewriteHops_keeps, removeTag_insertTag⟩

end Sys2Proof.Machine
end

section
namespace Sys2Proof.Machine

/-! ## The lane intake, step by step (R9 to R16) -/

theorem exec_laneIntake {l : Lane} {f : RxFrame} {s : State} (hn : s.nextFrame (.lane l) = some f) :
    exec (.laneIntake l) s = .next (s.laneSteps l f) := by
  show execLaneIntake l s = _
  rw [execLaneIntake, hn]

/-- The frame passes the lane intake's checks of steps 1 to 3: length and FCS, the tag type, the tag (R10, R11). -/
def State.taggedWhole (s : State) (f : RxFrame) : Prop :=
  lengthAndFcsPass f.bytes f.maxFrame.toNat = true ∧ isTagged s.settings.tagType f.bytes = true ∧ tagValid f.bytes = true

theorem isTagged_iff (tagType : Word) (frame : List Byte) : isTagged tagType frame = true ↔ typeWordOf frame = tagType := beq_iff_eq

/-- A frame that fails one of the checks leaves the store with a count of its own (R10, R11). -/
theorem State.laneSteps_discard (s : State) (l : Lane) (f : RxFrame) :
    (lengthAndFcsPass f.bytes f.maxFrame.toNat = false → s.laneSteps l f = s.discard (.lane l) PortCounters.fcsError)
      ∧ (lengthAndFcsPass f.bytes f.maxFrame.toNat = true → isTagged s.settings.tagType f.bytes = false →
          s.laneSteps l f = s.discard (.lane l) PortCounters.untaggedFrame)
      ∧ (lengthAndFcsPass f.bytes f.maxFrame.toNat = true → isTagged s.settings.tagType f.bytes = true → tagValid f.bytes = false →
          s.laneSteps l f = s.discard (.lane l) PortCounters.tagError) := by
  unfold State.laneSteps
  exact ⟨fun hp => by rw [hp]; rfl, fun hp ht => by rw [hp, ht]; rfl, fun hp ht hv => by rw [hp, ht, hv]; rfl⟩

/-- Past the checks, a frame goes by its stream, the lane's state at its reception's end, and its origin (R9, R12, R13, R14). -/
theorem State.laneSteps_tagged (s : State) (l : Lane) (f : RxFrame) (h : s.taggedWhole f) :
    s.laneSteps l f =
      if (tagOf f.bytes).stream = provingStream then (s.settleFrame (.lane l)).provingArrival l f
      else if f.inProving then s.settleFrame (.lane l)
      else if s.settings.ownOrigin (tagOf f.bytes).origin.toNat then (s.settleFrame (.lane l)).removeFrame l f
      else s.laneStep6 l f := by
  obtain ⟨hp, ht, hv⟩ := h
  unfold State.laneSteps
  rw [hp, ht, hv]
  rfl

/-- Settles O15's clause of the valid tag: the check byte, the origin's range, and PROBE with its two streams (R2). -/
theorem tagValid_iff (frame : List Byte) :
    tagValid frame = true ↔ crc8 ((frame.drop 14).take 7) = byteAt frame 21 ∧ 1 ≤ (tagOf frame).origin.toNat
      ∧ (tagOf frame).origin.toNat ≤ 60 ∧ ((tagOf frame).cls = .probe ↔ (tagOf frame).stream = 16382 ∨ (tagOf frame).stream = 16383) := by
  have hclass : ((tagOf frame).cls == .probe) = ((tagOf frame).stream == provingStream || (tagOf frame).stream == probeStream)
      ↔ ((tagOf frame).cls = .probe ↔ (tagOf frame).stream = 16382 ∨ (tagOf frame).stream = 16383) := by
    rw [Bool.eq_iff_iff, Bool.or_eq_true, beq_iff_eq, beq_iff_eq, beq_iff_eq]
  simp only [tagValid, coveredBytes, Bool.and_eq_true, beq_iff_eq, decide_eq_true_eq, and_assoc, hclass]

/-- A data frame's stream number is neither of the two PROBE ones (R2). -/
theorem dataStream_ne {stream : BitVec 14} (h : stream.toNat ≤ 16381) : stream ≠ provingStream ∧ stream ≠ probeStream := by
  constructor <;> (rintro rfl; revert h; decide)

/-- A frame leaves the store with nothing counted: the settled unit, written out. -/
theorem State.settleFrame_gone (s : State) (p : Port) :
    s.settleFrame p = { s with ports := s.ports.set p { s.port p with
      store := (s.port p).store.drop 1, claim := none, counters := (s.port p).counters } } := s.settleFrame_eq p

/-- A data frame of another origin claims its lookup on a node with a number, "hop-expired" counted at hops left 0 (R15, R16). -/
theorem State.laneStep6_claims (s : State) (l : Lane) (f : RxFrame) (hs : (tagOf f.bytes).stream ≠ probeStream)
    (hn : s.settings.node ≠ 0) :
    s.laneStep6 l f = { s with ports := s.ports.set (.lane l) { s.port (.lane l) with
      claim := some .lookup
      counters := if (tagOf f.bytes).hops = 0 then (s.port (.lane l)).counters.expired else (s.port (.lane l)).counters } } := by
  unfold State.laneStep6
  dsimp only
  rw [if_neg hs, if_neg hn]
  split
  · simp [State.claimTable, State.count, State.modPort, State.port]
  · rfl

/-- Settles O15, from the branches of the lane intake. -/
theorem laneIntakeDiscardsCountsAndClaims : Obligations.LaneIntakeDiscardsCountsAndClaims := by
  refine ⟨fun l f s hn => ?_, fun l f s hn hp ht hv hstream hproving hnode hown => ?_, tagValid_iff⟩
  · intro u gone whole
    have whole_iff : whole ↔ lengthAndFcsPass f.bytes f.maxFrame.toNat = true := by
      rw [lengthAndFcsPass_iff]; exact ⟨fun ⟨a, b, c⟩ => ⟨b, c, a⟩, fun ⟨b, c, a⟩ => ⟨a, b, c⟩⟩
    have discarded (g : PortCounters → PortCounters) : Host.Outcome.next (s.discard (.lane l) g) = gone (g u.counters) := by
      rw [s.discard_eq]
    have tagged_iff := isTagged_iff s.settings.tagType f.bytes
    rw [whole_iff, exec_laneIntake hn]
    obtain ⟨hbad, huntagged, hinvalid⟩ := s.laneSteps_discard l f
    refine ⟨fun hp => ?_, fun hp ht => ?_, fun hp ht hv => ?_, fun hp ht hv hs hproving => ?_⟩
    · rw [hbad (Bool.eq_false_iff.mpr hp)]; exact discarded _
    · rw [huntagged hp (Bool.eq_false_iff.mpr (mt tagged_iff.mp ht))]; exact discarded _
    · rw [hinvalid hp (tagged_iff.mpr ht) hv]; exact discarded _
    · rw [s.laneSteps_tagged l f ⟨hp, tagged_iff.mpr ht, hv⟩, if_neg hs, if_pos hproving, s.settleFrame_gone]
  · obtain ⟨hnotProving, hnotProbe⟩ := dataStream_ne hstream
    intro u
    rw [exec_laneIntake hn, s.laneSteps_tagged l f ⟨hp, ht, hv⟩, if_neg hnotProving, if_neg (by rw [hproving]; exact Bool.false_ne_true),
      if_neg (by rw [hown]; exact Bool.false_ne_true), s.laneStep6_claims l f hnotProbe hnode]
    rfl

/-! ## Frames that come home (R13, R136, R139) -/

/-- A frame of an own origin, received while the lane did not prove, is removed (R13). -/
theorem State.laneSteps_home (s : State) (l : Lane) (f : RxFrame) (h : s.taggedWhole f) (hs : (tagOf f.bytes).stream ≠ provingStream)
    (hp : f.inProving = false) (ho : s.settings.ownOrigin (tagOf f.bytes).origin.toNat = true) :
    s.laneSteps l f = (s.settleFrame (.lane l)).removeFrame l f := by
  rw [s.laneSteps_tagged l f h, if_neg hs, if_neg (by rw [hp]; exact Bool.false_ne_true), if_pos ho]

theorem State.settleFrame_lanesUp (s : State) (p : Port) : (s.settleFrame p).lanesUp = s.lanesUp := by
  simp only [State.lanesUp, State.settleFrame_isUp]

/-- Setting the ring state anew on a unit that differs from an earlier one in no lane, no setting, flag or boundary follows R137. -/
theorem State.ringFollows_judgeRing {s u : State} (hring : u.probe.ring = s.probe.ring) (hb : u.probe.boundary = s.probe.boundary)
    (hf : u.flags = s.flags) : s.ringFollows u.judgeRing false := by
  intro hstarted
  refine ⟨?_, fun h => absurd h Bool.false_ne_true, ?_⟩
  · rw [State.judgeRing_ring u (by rw [hb]; exact hstarted), State.judgeRing_ringNow]
  · have hflag : u.flag .ring = s.flag .ring := by rw [State.flag, hf]; rfl
    rw [State.judgeRing_flag, hflag, hring]
    rfl

/-- What a return of an own probe does, by its serial and the lanes (R136, R139). -/
theorem State.probeReturn_cases (s : State) (l : Lane) (frame : List Byte) :
    (wordAt frame 22 ∉ s.probe.serials → s.probeReturn l frame = s.clash)
      ∧ (wordAt frame 22 ∈ s.probe.serials → s.lanesUp = false → s.probeReturn l frame = s)
      ∧ (wordAt frame 22 ∈ s.probe.serials → s.lanesUp = true →
          s.probeReturn l frame = (s.modProbe (fun u => u.answer l)).judgeRing) := by
  unfold State.probeReturn
  rw [← List.contains_iff_mem]
  exact ⟨fun h => by rw [if_neg h], fun h hl => by rw [if_pos h, hl]; rfl, fun h hl => by rw [if_pos h, hl]; rfl⟩

/-- Settles O16, from the removal of a frame that comes home and the judgement of an own probe. -/
theorem ownFramesAreRemovedFromTheRing : Obligations.OwnFramesAreRemovedFromTheRing := by
  intro l f s hn hp ht hv hstream hproving hown u serial ownProbe settled
  obtain ⟨hclash, hdown, hreturn⟩ := (s.settleFrame (.lane l)).probeReturn_cases l f.bytes
  rw [State.settleFrame_lanesUp] at hdown hreturn
  have hremoved : exec (.laneIntake l) s = .next ((s.settleFrame (.lane l)).removeFrame l f) := by
    rw [exec_laneIntake hn, s.laneSteps_home l f ⟨hp, ht, hv⟩ hstream hproving hown]
  have hprobe (h : ownProbe) : (s.settleFrame (.lane l)).removeFrame l f = (s.settleFrame (.lane l)).probeReturn l f.bytes := if_pos h
  refine ⟨fun h => ?_, fun h hs => ?_, fun h hs hl => ?_, fun h hs hl => ?_⟩
  · have hcount : (s.settleFrame (.lane l)).removeFrame l f = s.discard (.lane l) PortCounters.cameHome := if_neg h
    rw [hremoved, hcount, s.discard_eq]
    rfl
  · rw [hremoved, hprobe h, hclash hs]
    rfl
  · rw [hremoved, hprobe h, hdown hs hl]
    rfl
  · refine ⟨_, by rw [hremoved, hprobe h, hreturn hs hl], ?_⟩
    have heq := ((s.settleFrame (.lane l)).modProbe (fun u => u.answer l)).judgeRing_eq
    generalize ht : ((s.settleFrame (.lane l)).modProbe (fun u => u.answer l)).judgeRing = t at *
    have hprobe := congrArg State.probe heq
    refine ⟨?_, ?_, ?_, ?_⟩
    · rw [heq]; rfl
    · rintro rfl; exact hprobe
    · rintro rfl; exact hprobe
    · rw [← ht]
      cases l <;> exact State.ringFollows_judgeRing rfl rfl rfl

end Sys2Proof.Machine
end

section
namespace Sys2Proof.Machine

/-! ## The transit copy of a lane frame (R14, R17) -/

theorem Port.lane_other_ne (l : Lane) : Port.lane l ≠ .lane l.other := by cases l <;> decide

/-- A frame that goes on has one transit copy: hops left one less, on the other lane, of no handle (R14). -/
def transitCopy (l : Lane) (frame : List Byte) : Copy :=
  { port := .lane l.other, form := .hopsRewritten ((tagOf frame).hops - 1), handle := none, role := .transit }

theorem State.transitCopies_on (s : State) (l : Lane) (frame : List Byte) (hh : (tagOf frame).hops ≠ 0)
    (hu : s.isUp (.lane l.other) = true) : s.transitCopies l frame = [transitCopy l frame] := if_pos ⟨hh, hu⟩

theorem State.transitCopies_off (s : State) (l : Lane) (frame : List Byte)
    (h : (tagOf frame).hops = 0 ∨ s.isUp (.lane l.other) = false) : s.transitCopies l frame = [] := by
  refine if_neg (fun hc => ?_)
  obtain ⟨hh, hu⟩ := hc
  rcases h with h0 | hd
  · exact hh h0
  · rw [hd] at hu; exact Bool.false_ne_true hu

/-- A transit copy offered to an UP lane whose queue has room is enqueued (R149). -/
theorem State.transitCopy_enqueued (s : State) (l : Lane) (frame : List Byte) (cls : DataClass) (hu : s.isUp (.lane l.other) = true)
    (hq : ((s.port (.lane l.other)).queue cls).length < s.settings.queueCap cls) : s.fateOf cls (transitCopy l frame) = .enqueued := by
  have hup : (s.port (.lane l.other)).state = .up := beq_iff_eq.mp hu
  refine s.fateOf_enqueued cls _ ?_ hq
  show flushedAtOnce (s.port (.lane l.other)).state .transit = false
  rw [hup]
  rfl

/-- With no transit copy the frame is not offered (R147). -/
theorem State.sendTransit_off (s : State) (l : Lane) (frame : List Byte)
    (h : (tagOf frame).hops = 0 ∨ s.isUp (.lane l.other) = false) : s.sendTransit l frame = s := by
  rw [State.sendTransit, s.transitCopies_off l frame h, State.requestAdmission_none]

theorem State.sendTransit_traffic (s : State) (l : Lane) (frame : List Byte) : s.onlyTrafficMoves (s.sendTransit l frame) :=
  s.requestAdmission_traffic _ _ _ _

/-- A frame that goes on where pool and queue have room: its copy stands on the other lane, and the frame in the pool (R14, R17). -/
theorem State.sendTransit_on (s : State) (l : Lane) (frame : List Byte) (hh : (tagOf frame).hops ≠ 0)
    (hu : s.isUp (.lane l.other) = true)
    (ha : admissible (tagOf frame).cls.dataClass (cellsFor frame.length) s.freeCells = true)
    (hq : ((s.port (.lane l.other)).queue (tagOf frame).cls.dataClass).length < s.settings.queueCap (tagOf frame).cls.dataClass) :
    let t := s.sendTransit l frame
    t.pool = s.pool ++ [⟨s.nextName, frame, (tagOf frame).cls.dataClass, 1⟩] ∧ t.flags = s.flags ∧ t.tallies = s.tallies
      ∧ (∀ q, q ≠ .lane l.other → t.port q = s.port q)
      ∧ ⟨s.nextName, .hopsRewritten ((tagOf frame).hops - 1), none⟩ ∈ (t.port (.lane l.other)).descriptors := by
  intro t
  have ht : t = (s.requestAdmission frame (tagOf frame).cls.dataClass [transitCopy l frame] [.lane l]).1 := by
    rw [← s.transitCopies_on l frame hh hu]; rfl
  obtain ⟨-, hpool, hflags, hport, hothers, htallies⟩ := s.requestAdmission_one frame _ (transitCopy l frame) [.lane l] ha
    (s.transitCopy_enqueued l frame _ hu hq)
  rw [ht]
  refine ⟨hpool, hflags, htallies rfl, hothers, ?_⟩
  rw [show Port.lane l.other = (transitCopy l frame).port from rfl, hport]
  exact PortUnit.mem_offered _ _ _ (transitCopy l frame) _

/-- No request moves a flag but POOL (R148). -/
theorem State.requestAdmission_flag (s : State) (frame : List Byte) (cls : DataClass) (copies : List Copy) (blame : List Port) {g : Flag}
    (hg : g ≠ .pool) : (s.requestAdmission frame cls copies blame).1.flag g = s.flag g := by
  by_cases hc : copies = []
  · rw [hc, State.requestAdmission_none]
  · cases ha : admissible cls (cellsFor frame.length) s.freeCells with
    | true => rw [s.requestAdmission_stored _ _ _ _ hc ha, State.flag, s.storeFrame_flags]; rfl
    | false =>
      have hraise := s.flag_raise .pool g
      rw [decide_eq_false (Ne.symm hg), Bool.or_false] at hraise
      rw [s.requestAdmission_refused _ _ _ _ hc ha, State.flag, s.refuseFrame_flags]
      exact hraise

/-- A request leaves every port's store and claim (R146). -/
theorem State.requestAdmission_store (s : State) (frame : List Byte) (cls : DataClass) (copies : List Copy) (blame : List Port) (q : Port) :
    ((s.requestAdmission frame cls copies blame).1.port q).store = (s.port q).store
      ∧ ((s.requestAdmission frame cls copies blame).1.port q).claim = (s.port q).claim := by
  have ho {α : Type} (g : PortUnit → α) (hs : ∀ u c x, g (PortUnit.setQueue u c x) = g u)
      (hk : ∀ u k, g { u with counters := k } = g u) (u : PortUnit) (f : Fate) (n : Nat) (c : DataClass) (x : Copy) :
      g (PortUnit.offered u f n c x) = g u := by
    cases f with
    | flushed => exact hk _ _
    | dropped => exact hk _ _
    | enqueued => exact hs _ _ _
  exact ⟨State.requestAdmission_field PortUnit.store PortUnit.choose_store
      (ho _ (fun _ c _ => by cases c <;> rfl) (fun _ _ => rfl)) (fun _ => rfl) s frame cls copies blame q,
    State.requestAdmission_field PortUnit.claim PortUnit.choose_claim
      (ho _ (fun _ c _ => by cases c <;> rfl) (fun _ _ => rfl)) (fun _ => rfl) s frame cls copies blame q⟩

/-! ## A transit-only node (R14, R15, R18) -/

theorem State.settleFrame_traffic (s : State) (p : Port) : s.onlyTrafficMoves (s.settleFrame p) := rfl

theorem State.settleFrame_port_same (s : State) (p : Port) : (s.settleFrame p).port p = (s.port p).settled := by
  rw [State.settleFrame_port, if_pos rfl]

theorem State.settleFrame_port_other (s : State) {p q : Port} (h : q ≠ p) : (s.settleFrame p).port q = s.port q := by
  rw [State.settleFrame_port, if_neg h]

/-- Step 6 of another node's frame that claims no lookup here, with hops left: settled, and sent on (R14). -/
theorem State.laneStep6_transit (s : State) (l : Lane) (f : RxFrame) (hs : (tagOf f.bytes).stream ≠ probeStream)
    (hn : s.settings.node = 0) :
    ((tagOf f.bytes).hops ≠ 0 → s.laneStep6 l f = (s.settleFrame (.lane l)).sendTransit l f.bytes)
      ∧ ((tagOf f.bytes).hops = 0 → s.laneStep6 l f = s.discard (.lane l) PortCounters.expired) := by
  unfold State.laneStep6
  dsimp only
  rw [if_neg hs, if_pos hn]
  refine ⟨fun hh => by rw [if_neg hh], fun hh => ?_⟩
  rw [if_pos hh, State.sendTransit_off _ _ _ (.inl hh), State.discard_eq]
  simp [State.settleFrame, State.count, State.modPort, State.port, PortUnit.settled]

/-- Another node's frame, received while the lane did not prove, comes to step 6 (R14). -/
theorem State.laneSteps_foreign (s : State) (l : Lane) (f : RxFrame) (h : s.taggedWhole f) (hs : (tagOf f.bytes).stream ≠ provingStream)
    (hp : f.inProving = false) (ho : s.settings.ownOrigin (tagOf f.bytes).origin.toNat = false) :
    s.laneSteps l f = s.laneStep6 l f := by
  rw [s.laneSteps_tagged l f h, if_neg hs, if_neg (by rw [hp]; exact Bool.false_ne_true), if_neg (by rw [ho]; exact Bool.false_ne_true)]

/-- The own-origin set is empty at NODE 0 (R6). -/
theorem Settings.ownOrigin_node0 (v : Settings) (n : Nat) (h : v.node = 0) : v.ownOrigin n = false := by
  rw [Settings.ownOrigin, h]; rfl

/-- Settles O19, from step 6 and from what the transit copy comes to. -/
theorem transitOnlyNodePassesTheFrameOn : Obligations.TransitOnlyNodePassesTheFrameOn := by
  intro l f s hn hp ht hv hstream hproving hnode hops cls u settled
  obtain ⟨hnotProving, hnotProbe⟩ := dataStream_ne hstream
  obtain ⟨hon, hexpired⟩ := s.laneStep6_transit l f hnotProbe hnode
  have hup : (s.settleFrame (.lane l)).isUp (.lane l.other) = s.isUp (.lane l.other) := s.settleFrame_isUp _ _
  have hother : (s.settleFrame (.lane l)).port (.lane l.other) = s.port (.lane l.other) :=
    s.settleFrame_port_other (Port.lane_other_ne l).symm
  rw [exec_laneIntake hn, s.laneSteps_foreign l f ⟨hp, ht, hv⟩ hnotProving hproving (s.settings.ownOrigin_node0 _ hnode)]
  refine ⟨fun hh hu ha hq => ⟨_, congrArg _ (hon hh), ?_⟩, fun hh => ?_, fun hh hd => ?_⟩
  · obtain ⟨hpool, hflags, htallies, hports, hmem⟩ :=
      (s.settleFrame (.lane l)).sendTransit_on l f.bytes hh (hup.trans hu) ha (by rw [hother]; exact hq)
    refine ⟨State.onlyTrafficMoves_trans (s.settleFrame_traffic _) (State.sendTransit_traffic _ l f.bytes), ?_, fun p => ?_, hpool, htallies,
      hflags, hmem⟩
    · rw [hports _ (Port.lane_other_ne l), s.settleFrame_port_same]; rfl
    · rw [hports _ Port.noConfusion, s.settleFrame_port_other Port.noConfusion]
  · rw [hexpired hh, s.discard_eq]; rfl
  · rw [hon hh, State.sendTransit_off _ _ _ (.inr (hup.trans hd)), s.settleFrame_eq]

/-! ## Proving frames (R12, R127, R128) -/

/-- The reflection of a proving frame, back on its arrival lane with hops left 0 (R127). -/
def reflectionCopy (l : Lane) : Copy := { port := .lane l, form := .hopsRewritten 0, handle := none, role := .reflection }

/-- A lane in service takes reflections, UP or PROVING (R117). -/
theorem reflection_not_flushed {st : PortState} (h : st.inService = true) : flushedAtOnce st .reflection = false := by
  cases st with
  | up | proving => rfl
  | off | down | isolated => exact absurd h Bool.false_ne_true

/-- What a proving frame comes to: by NODE, whose frame it is, its hops left, and the lane's mark at its reception's end (R12, R128). -/
theorem State.provingArrival_cases (s : State) (l : Lane) (f : RxFrame) :
    let own := (tagOf f.bytes).origin.toNat = s.settings.node.toNat
    (s.settings.node = 0 → s.provingArrival l f = s)
      ∧ (s.settings.node ≠ 0 → own → (tagOf f.bytes).hops = 0 → f.inProving = true →
          s.provingArrival l f = s.modProving l (fun r => r.countReturn f.arrival f.bytes))
      ∧ (s.settings.node ≠ 0 → own → (tagOf f.bytes).hops ≠ 0 ∨ f.inProving = false → s.provingArrival l f = s)
      ∧ (s.settings.node ≠ 0 → ¬ own → (tagOf f.bytes).hops = 0 → s.provingArrival l f = s)
      ∧ (s.settings.node ≠ 0 → ¬ own → (tagOf f.bytes).hops ≠ 0 → s.provingArrival l f = s.reflect l f.bytes) := by
  intro own
  unfold State.provingArrival
  dsimp only
  refine ⟨fun hn => if_pos hn, fun hn ho hh hp => ?_, fun hn ho hx => ?_, fun hn ho hh => ?_, fun hn ho hh => ?_⟩
  · rw [if_neg hn, if_pos ho, if_pos ⟨hh, hp⟩]
  · have hnot : ¬ ((tagOf f.bytes).hops = 0 ∧ f.inProving = true) := by
      rintro ⟨hh, hp⟩
      exact hx.elim (· hh) (fun h => Bool.false_ne_true (h.symm.trans hp))
    rw [if_neg hn, if_pos ho, if_neg hnot]
  · rw [if_neg hn, if_neg ho, if_pos hh]
  · rw [if_neg hn, if_neg ho, if_neg hh]

/-- A reflection made where a cell is free and the lane's TRIP queue has room: its copy stands on its lane (R127). -/
theorem State.reflect_placed (s : State) (l : Lane) (frame : List Byte) (hs : s.inService (.lane l) = true)
    (hc : cellsFor frame.length ≤ s.freeCells) (hq : (s.port (.lane l)).trip.length < s.settings.queueCapTrip.toNat) :
    let t := s.reflect l frame
    s.onlyTrafficMoves t ∧ s.otherPortsKept t (.lane l) ∧ t.pool = s.pool ++ [⟨s.nextName, frame, .trip, 1⟩] ∧ t.tallies = s.tallies
      ∧ t.flags = s.flags ∧ ⟨s.nextName, .hopsRewritten 0, none⟩ ∈ (t.port (.lane l)).descriptors := by
  intro t
  have ht : t = (s.requestAdmission frame .trip [reflectionCopy l] [.lane l]).1 := if_pos hs
  obtain ⟨-, hpool, hflags, hlane, hothers, htallies⟩ := s.requestAdmission_one frame .trip (reflectionCopy l) [.lane l]
    ((admissible_iff _ _ _).mpr hc) (s.fateOf_enqueued _ _ (reflection_not_flushed hs) hq)
  rw [ht]
  exact ⟨s.requestAdmission_traffic _ _ _ _, hothers, hpool, htallies rfl, hflags, hlane ▸ PortUnit.mem_offered _ _ _ (reflectionCopy l) _⟩

/-- Settles O17, by whose frame it is, its hops left, and the lane's state at its reception's end. -/
theorem provingFramesAreCountedReflectedOrDiscarded : Obligations.ProvingFramesAreCountedReflectedOrDiscarded := by
  intro l f s hn hp ht hv hstream u settled own trip r
  obtain ⟨hservice, -, -⟩ := State.nextFrame_some hn
  have hsteps : exec (.laneIntake l) s = .next ((s.settleFrame (.lane l)).provingArrival l f) := by
    rw [exec_laneIntake hn, s.laneSteps_tagged l f ⟨hp, ht, hv⟩, if_pos hstream]
  obtain ⟨hnode0, hreturn, hown, hforeign, hreflect⟩ := (s.settleFrame (.lane l)).provingArrival_cases l f
  rw [hsteps]
  refine ⟨fun hnode => congrArg _ (hnode0 hnode), fun hnode ho hh hproving => congrArg _ (hreturn hnode ho hh hproving),
    fun hnode ho hx => congrArg _ (hown hnode ho hx), fun hnode ho hh => congrArg _ (hforeign hnode ho hh),
    fun hnode ho hh hcells hroom => ⟨_, congrArg _ (hreflect hnode ho hh), ?_⟩⟩
  have hport := s.settleFrame_port_same (.lane l)
  have hstate : (s.settleFrame (.lane l)).inService (.lane l) = true := by rw [State.inService, hport]; exact hservice
  obtain ⟨hmoves, hothers, hpool, htallies, hflags, hmem⟩ :=
    (s.settleFrame (.lane l)).reflect_placed l f.bytes hstate hcells (by rw [hport]; exact hroom)
  exact ⟨State.onlyTrafficMoves_trans (s.settleFrame_traffic _) hmoves, fun q hq => (hothers q hq).trans (s.settleFrame_port_other hq),
    hpool, htallies, hflags, hmem⟩

end Sys2Proof.Machine
end

section
namespace Sys2Proof.Machine

/-! ## Another node's probe (R14, R15, R16, R140) -/

/-- A probe heard on a lane reaches the roster, the flags and the model's count of draws alone (R140). -/
theorem State.hearProbe_eq (s : State) (l : Lane) (arrival : Time) (frame : List Byte) :
    s.hearProbe l arrival frame = { s with
      probe := { s.probe with roster := (s.hearProbe l arrival frame).probe.roster }
      flags := (s.hearProbe l arrival frame).flags, draws := (s.hearProbe l arrival frame).draws } := by
  unfold State.hearProbe
  dsimp only
  split
  · rw [State.raiseIf_eq]; rfl
  · rfl

/-- A payload that fails its check updates no entry (R140). -/
theorem State.hearProbe_refused (s : State) (l : Lane) (arrival : Time) (frame : List Byte)
    (h : probeAccepted (byteAt frame 24) (tagOf frame).hops = false) : s.hearProbe l arrival frame = s :=
  if_neg (by rw [h]; exact Bool.false_ne_true)

/-- A payload that passes its check updates the entry of its origin, and ROSTER by the change of that entry's status (R140). -/
theorem State.hearProbe_accepted (s : State) (l : Lane) (arrival : Time) (frame : List Byte)
    (h : probeAccepted (byteAt frame 24) (tagOf frame).hops = true) :
    let k := (tagOf frame).origin.toNat
    (s.hearProbe l arrival frame).rosterEntry k = s.heardEntry l arrival frame
      ∧ (∀ j, j ≠ k → (s.hearProbe l arrival frame).rosterEntry j = s.rosterEntry j)
      ∧ (s.hearProbe l arrival frame).flag .roster
        = (s.flag .roster || (s.heardEntry l arrival frame).status != (s.rosterEntry k).status) := by
  intro k
  let changed := (s.heardEntry l arrival frame).status != (s.rosterEntry k).status
  let t := (s.putRoster k (s.heardEntry l arrival frame)).raiseIf changed .roster
  have heq : s.hearProbe l arrival frame = { t with draws := if drawsNeeded frame then s.draws + 2 else s.draws } := if_pos h
  have hroster (j : Nat) : (s.hearProbe l arrival frame).rosterEntry j = (s.putRoster k (s.heardEntry l arrival frame)).rosterEntry j := by
    rw [heq]
    show Sparse.get _ t.probe.roster j = _
    rw [State.raiseIf_probe]
    rfl
  refine ⟨by rw [hroster, State.rosterEntry_putRoster_same], fun j hj => by rw [hroster, State.rosterEntry_putRoster_other _ _ hj], ?_⟩
  have hflag : (s.hearProbe l arrival frame).flag .roster = t.flag .roster := by rw [heq]; rfl
  rw [hflag, State.flag_raiseIf, decide_eq_true rfl, Bool.and_true]
  rfl

/-- What an entry takes from a probe heard on a lane: that lane's evidence, and the states the payload names (R140, 12.2). -/
theorem State.heardEntry_fields (s : State) (l : Lane) (arrival : Time) (frame : List Byte) :
    let e := s.rosterEntry (tagOf frame).origin.toNat
    let v : Evidence := { lastHeard := arrival, distance := byteAt frame 24 - (tagOf frame).hops.setWidth 8 + 1 }
    ((s.heardEntry l arrival frame).heardA = if l = .a then some v else e.heardA)
      ∧ ((s.heardEntry l arrival frame).heardB = if l = .b then some v else e.heardB)
      ∧ ((byteAt frame 25).toNat ≤ 3 → (s.heardEntry l arrival frame).ring = RingState.ofCode ((byteAt frame 25).extractLsb' 0 2))
      ∧ ((byteAt frame 26).toNat ≤ 4 → (s.heardEntry l arrival frame).laneA = PortState.ofCode (byteAt frame 26).toNat)
      ∧ ((byteAt frame 27).toNat ≤ 4 → (s.heardEntry l arrival frame).laneB = PortState.ofCode (byteAt frame 27).toNat) := by
  intro e v
  refine ⟨by cases l <;> rfl, by cases l <;> rfl, fun h => ?_, fun h => ?_, fun h => ?_⟩
  · exact congrArg RingState.ofCode (if_pos h)
  · exact congrArg PortState.ofCode (if_pos h)
  · exact congrArg PortState.ofCode (if_pos h)

/-- A frame of step 6 that is settled there, "hop-expired" counted at hops left 0 (R15). -/
def State.settledStep6 (s : State) (l : Lane) (f : RxFrame) : State :=
  if (tagOf f.bytes).hops = 0 then s.discard (.lane l) PortCounters.expired else s.settleFrame (.lane l)

theorem State.settledStep6_eq (s : State) (l : Lane) (f : RxFrame) : s.settledStep6 l f = { s with ports := (s.settledStep6 l f).ports } := by
  unfold State.settledStep6
  split <;> rfl

/-- Step 6 settles the frame on its own port alone; its queues and its state stay (R15, R146). -/
theorem State.settledStep6_port (s : State) (l : Lane) (f : RxFrame) :
    (s.settledStep6 l f).port (.lane l) = { s.port (.lane l) with
        store := (s.port (.lane l)).store.drop 1, claim := none
        counters := if (tagOf f.bytes).hops = 0 then (s.port (.lane l)).counters.expired else (s.port (.lane l)).counters }
      ∧ ∀ q, q ≠ .lane l → (s.settledStep6 l f).port q = s.port q := by
  unfold State.settledStep6
  split
  · rw [State.discard_eq]
    exact ⟨PortMap.get_set_same _ _ _, fun q hq => PortMap.get_set_other _ _ hq⟩
  · exact ⟨s.settleFrame_port_same _, fun q hq => s.settleFrame_port_other hq⟩

/-- Step 6 of another node's probe: settled, heard, and sent on (R14, R140). -/
theorem State.laneStep6_probe (s : State) (l : Lane) (f : RxFrame) (hs : (tagOf f.bytes).stream = probeStream) :
    s.laneStep6 l f = ((s.settledStep6 l f).hearProbe l f.arrival f.bytes).sendTransit l f.bytes := by
  unfold State.laneStep6 State.settledStep6
  dsimp only
  rw [if_pos hs]
  by_cases hh : (tagOf f.bytes).hops = 0
  · have hcount : (s.count (.lane l) PortCounters.expired).settleFrame (.lane l) = s.discard (.lane l) PortCounters.expired := by
      rw [State.discard_eq]
      simp [State.settleFrame, State.count, State.modPort, State.port, PortUnit.settled]
    rw [if_pos hh, if_pos hh, hcount]
  · rw [if_neg hh, if_neg hh]

/-- A valid tag of the probe stream is of class PROBE, which goes as TRIP (R2, R147). -/
theorem probeStream_class {frame : List Byte} (hv : tagValid frame = true) (hs : (tagOf frame).stream = probeStream) :
    (tagOf frame).cls.dataClass = .trip := by
  obtain ⟨-, -, -, hclass⟩ := (tagValid_iff frame).mp hv
  rw [hclass.mpr (.inr hs)]
  rfl

/-- The state a probe of another node leaves: settled and heard, then sent on. -/
def State.probeHeard (s : State) (l : Lane) (f : RxFrame) : State := (s.settledStep6 l f).hearProbe l f.arrival f.bytes

theorem State.probeHeard_eq (s : State) (l : Lane) (f : RxFrame) :
    s.probeHeard l f = { s with
      ports := (s.settledStep6 l f).ports, probe := { s.probe with roster := (s.probeHeard l f).probe.roster }
      flags := (s.probeHeard l f).flags, draws := (s.probeHeard l f).draws } := by
  have heq := (s.settledStep6 l f).hearProbe_eq l f.arrival f.bytes
  exact heq.trans (congrArg (fun x : State => { x with
    probe := { x.probe with roster := (s.probeHeard l f).probe.roster }
    flags := (s.probeHeard l f).flags, draws := (s.probeHeard l f).draws }) (s.settledStep6_eq l f))

theorem State.probeHeard_port (s : State) (l : Lane) (f : RxFrame) (q : Port) : (s.probeHeard l f).port q = (s.settledStep6 l f).port q := by
  have hports := congrArg State.ports (s.probeHeard_eq l f)
  exact congrArg (PortMap.get · q) hports

theorem exec_laneIntake_probe {l : Lane} {f : RxFrame} {s : State} (hn : s.nextFrame (.lane l) = some f) (h : s.taggedWhole f)
    (hs : (tagOf f.bytes).stream = probeStream) (hp : f.inProving = false)
    (ho : s.settings.ownOrigin (tagOf f.bytes).origin.toNat = false) :
    exec (.laneIntake l) s = .next ((s.probeHeard l f).sendTransit l f.bytes) := by
  have hne : (tagOf f.bytes).stream ≠ provingStream := by rw [hs]; decide
  rw [exec_laneIntake hn, s.laneSteps_foreign l f h hne hp ho, s.laneStep6_probe l f hs]
  rfl

theorem State.sendTransit_flag (s : State) (l : Lane) (frame : List Byte) {g : Flag} (hg : g ≠ .pool) :
    (s.sendTransit l frame).flag g = s.flag g := s.requestAdmission_flag _ _ _ _ hg

/-- Settles O18's first half: the entry of the probe's origin (R16, R140). -/
theorem probe_updates_roster (l : Lane) (f : RxFrame) (s : State)
    (h : probeAccepted (byteAt f.bytes 24) (tagOf f.bytes).hops = true) :
    let k := (tagOf f.bytes).origin.toNat
    let t := (s.probeHeard l f).sendTransit l f.bytes
    t.rosterEntry k = (s.settledStep6 l f).heardEntry l f.arrival f.bytes
      ∧ (∀ j, j ≠ k → t.rosterEntry j = s.rosterEntry j)
      ∧ t.flag .roster = (s.flag .roster || (t.rosterEntry k).status != (s.rosterEntry k).status)
      ∧ t = { s with
          ports := t.ports, pool := t.pool, nextName := t.nextName, tallies := t.tallies, flags := t.flags
          probe := { s.probe with roster := t.probe.roster }, draws := t.draws } := by
  intro k t
  have htraffic := (s.probeHeard l f).sendTransit_traffic l f.bytes
  have hprobe : t.probe = (s.probeHeard l f).probe := State.onlyTrafficMoves_probe htraffic
  have hdraws : t.draws = (s.probeHeard l f).draws := State.onlyTrafficMoves_draws htraffic
  have hroster (j : Nat) : t.rosterEntry j = (s.probeHeard l f).rosterEntry j := by
    rw [State.rosterEntry, hprobe]; rfl
  have hkept (j : Nat) : (s.settledStep6 l f).rosterEntry j = s.rosterEntry j := by rw [s.settledStep6_eq]; rfl
  have hflag : (s.settledStep6 l f).flag .roster = s.flag .roster := by rw [s.settledStep6_eq]; rfl
  obtain ⟨hentry, hothers, hraised⟩ := (s.settledStep6 l f).hearProbe_accepted l f.arrival f.bytes h
  refine ⟨(hroster k).trans hentry, fun j hj => ((hroster j).trans (hothers j hj)).trans (hkept j), ?_, ?_⟩
  · rw [(s.probeHeard l f).sendTransit_flag l f.bytes Flag.noConfusion, hroster, State.probeHeard, hraised, hentry, hflag, hkept]
  · rw [hprobe, hdraws]
    exact htraffic.trans (congrArg (fun x : State => { x with
      ports := t.ports, pool := t.pool, nextName := t.nextName, tallies := t.tallies, flags := t.flags }) (s.probeHeard_eq l f))

/-- Settles O18, from the roster's update and from what the transit copy comes to. -/
theorem probeFromAnotherNodeUpdatesTheRosterAndGoesOn : Obligations.ProbeFromAnotherNodeUpdatesTheRosterAndGoesOn := by
  constructor
  · intro l f s hn hp ht hv hstream hproving hown h1 h63 hhops k v
    refine ⟨_, exec_laneIntake_probe hn ⟨hp, ht, hv⟩ hstream hproving hown, ?_⟩
    obtain ⟨hentry, hothers, hflag, hmoves⟩ := probe_updates_roster l f s ((probeAccepted_iff _ _).mpr ⟨h1, h63, hhops⟩)
    obtain ⟨ha, hb, hring, hlaneA, hlaneB⟩ := (s.settledStep6 l f).heardEntry_fields l f.arrival f.bytes
    have hkept : (s.settledStep6 l f).rosterEntry k = s.rosterEntry k := by rw [s.settledStep6_eq]; rfl
    rw [hkept] at ha hb
    rw [← hentry] at ha hb hring hlaneA hlaneB
    exact ⟨ha, hb, hring, hlaneA, hlaneB, hothers, hflag, hmoves⟩
  · intro l f s hn hp ht hv hstream hproving hown hops payloadPasses
    refine ⟨_, exec_laneIntake_probe hn ⟨hp, ht, hv⟩ hstream hproving hown, ?_⟩
    obtain ⟨hlane, hports⟩ := s.settledStep6_port l f
    have hheard := s.probeHeard_port l f
    obtain ⟨hstore, hclaim⟩ := (s.probeHeard l f).requestAdmission_store f.bytes (tagOf f.bytes).cls.dataClass
      ((s.probeHeard l f).transitCopies l f.bytes) [.lane l] (.lane l)
    have hother : (s.probeHeard l f).port (.lane l.other) = s.port (.lane l.other) :=
      (hheard _).trans (hports _ (Port.lane_other_ne l).symm)
    have hup : (s.probeHeard l f).isUp (.lane l.other) = s.isUp (.lane l.other) := by rw [State.isUp, hother]; rfl
    have hpool : (s.probeHeard l f).pool = s.pool := by rw [s.probeHeard_eq]
    have hname : (s.probeHeard l f).nextName = s.nextName := by rw [s.probeHeard_eq]
    have hsettings : (s.probeHeard l f).settings = s.settings := by rw [s.probeHeard_eq]
    have hclass := probeStream_class hv hstream
    have hstays : hops = 0 ∨ s.isUp (.lane l.other) = false → (s.probeHeard l f).sendTransit l f.bytes = s.probeHeard l f :=
      fun h => (s.probeHeard l f).sendTransit_off l f.bytes (by rw [hup]; exact h)
    refine ⟨?_, ?_, fun hh hu hcells hroom => ?_, fun h => ?_, fun hh => ?_, fun hbad => ?_⟩
    · exact hstore.trans (by rw [hheard, hlane])
    · exact hclaim.trans (by rw [hheard, hlane])
    · obtain ⟨hpool', -, -, -, hmem⟩ := (s.probeHeard l f).sendTransit_on l f.bytes hh (hup.trans hu)
        (by rw [hclass, State.freeCells, hpool]; exact (admissible_iff _ _ _).mpr hcells)
        (by rw [hclass, hother, hsettings]; exact hroom)
      rw [hname, hpool, hclass] at hpool'
      rw [hname] at hmem
      exact ⟨hmem, hpool'⟩
    · rw [hstays h]
      refine ⟨hpool, fun p => ?_⟩
      rw [hheard]
      by_cases hl : p = .lane l
      · rw [hl, hlane]; rfl
      · rw [hports p hl]
    · rw [hstays (.inl hh), hheard, hlane]
      exact if_pos hh
    · have hrefused : s.probeHeard l f = s.settledStep6 l f :=
        State.hearProbe_refused _ _ _ _ (Bool.eq_false_iff.mpr (mt (probeAccepted_iff _ _).mp hbad))
      have hprobe := State.onlyTrafficMoves_probe ((s.probeHeard l f).sendTransit_traffic l f.bytes)
      refine ⟨hprobe.trans ?_, ((s.probeHeard l f).sendTransit_flag l f.bytes Flag.noConfusion).trans ?_⟩
      · rw [hrefused, s.settledStep6_eq]
      · rw [hrefused, s.settledStep6_eq]; rfl

end Sys2Proof.Machine
end

section
namespace Sys2Proof.Machine

/-! ## The grant of a lookup (R14, R17, R31, R34) -/

/-- Settling the frame and rotating is within what a grant moves, and whatever a request then reaches is so too (R31, R32). -/
theorem State.onlyGrantMoves_of_traffic {s t : State} {p : Port} (h : (s.looking p).onlyTrafficMoves t) :
    s.onlyGrantMoves t p ∧ t.table = s.table := by
  have htable : t.table = (s.looking p).table := State.onlyTrafficMoves_table h
  refine ⟨?_, htable⟩
  unfold State.onlyGrantMoves
  rw [htable]
  exact h

theorem exec_lookupByKey {s : State} {p : Port} {f : RxFrame} (hg : s.granted p .lookup = true) (hf : (s.port p).store.head? = some f) :
    exec (.lookupByKey p) s = .next ((s.looking p).lookupOn p f) := by
  show execLookupByKey p s = _
  rw [execLookupByKey, hf]
  exact congrArg Host.Outcome.next (if_pos hg)

/-- The copies of an arrival handled in this state on the record of handle `h` (R38). -/
def State.arrivalCopies (s : State) (p : Port) (f : RxFrame) (h : Nat) : List Copy :=
  (s.record h).copiesOf (arrivalOf p f) (s.alwaysCopies p f.bytes) (s.ownCopies p h)

/-- The request an arrival handled in this state makes for its copies (R32, R147). -/
def State.arrivalRequest (s : State) (p : Port) (f : RxFrame) (h : Nat) : State × List Fate :=
  s.requestAdmission f.bytes (tagOf f.bytes).cls.dataClass (s.arrivalCopies p f h) [p]

/-- An arrival's copies name different ports (R151). -/
theorem State.arrivalCopies_nodup (s : State) (p : Port) (f : RxFrame) (h : Nat) : ((s.arrivalCopies p f h).map Copy.port).Nodup := by
  have hsub {always own : List Copy} (hn : ((always ++ own).map Copy.port).Nodup) :
      (((s.record h).copiesOf (arrivalOf p f) always own).map Copy.port).Nodup := by
    unfold Record.copiesOf
    split
    · exact hn
    · rw [List.map_append] at hn ⊢
      simpa only [List.append_nil, List.map_nil] using (List.nodup_append.mp hn).1
  cases p with
  | lane l => exact hsub (s.transitAndDelivery_nodup l f.bytes h _ _)
  | bay q => exact hsub (s.injectionAndDelivery_nodup h h _ _ _)

/-- The grant of a lookup whose record takes the frame, said once: what its request leaves, the record, the other records, the flags. -/
theorem State.lookupTakes_spec {s : State} {p : Port} {f : RxFrame} {h : Nat} (ht : s.lookupTakes p f h) :
    let a := (s.looking p).arrivalRequest p f h
    ∃ t, exec (.lookupByKey p) s = .next t ∧ s.onlyGrantMoves t p
      ∧ (t.ports = a.1.ports ∧ t.pool = a.1.pool ∧ t.nextName = a.1.nextName ∧ t.tallies = a.1.tallies)
      ∧ s.otherRecordsKept t h
      ∧ t.record h = (s.record h).arrived (arrivalOf p f) ((s.record h).wantedOf (arrivalOf p f) ((s.looking p).ownCopies p h))
          (answeredEnqueued Copy.carriesHandle ((s.looking p).arrivalCopies p f h) a.2)
          (answeredEnqueued Copy.isInjection ((s.looking p).arrivalCopies p f h) a.2)
      ∧ ∀ g, g ≠ .attention → t.flag g = a.1.flag g := by
  intro a
  have hexec := s.lookup_taken p f h ht
  have hmoves := (s.looking p).handleArrival_moves h p f ((s.looking p).alwaysCopies p f.bytes) ((s.looking p).ownCopies p h)
  have htraffic := (s.looking p).handleArrival_traffic h p f ((s.looking p).alwaysCopies p f.bytes) ((s.looking p).ownCopies p h)
  obtain ⟨got, injected, hrecord, hgot, hinjected, hflags⟩ :=
    (s.looking p).handleArrival_record h p f ((s.looking p).alwaysCopies p f.bytes) ((s.looking p).ownCopies p h)
  refine ⟨_, hexec, hmoves, htraffic, fun k hk => (s.looking p).handleArrival_others p f _ _ hk, ?_, fun g hg => ?_⟩
  · rw [hrecord, hgot, hinjected]; rfl
  · rw [hflags, decide_eq_false hg.symm, Bool.and_false, Bool.or_false]; rfl

/-- The frame's port after its request: out of the store, with no claim (R146). -/
theorem State.arrivalRequest_settled (s : State) (p : Port) (f : RxFrame) (h : Nat) :
    (((s.looking p).arrivalRequest p f h).1.port p).store = (s.port p).store.drop 1
      ∧ (((s.looking p).arrivalRequest p f h).1.port p).claim = none := by
  obtain ⟨hstore, hclaim⟩ := (s.looking p).requestAdmission_store f.bytes (tagOf f.bytes).cls.dataClass
    ((s.looking p).arrivalCopies p f h) [p] p
  have hport : (s.looking p).port p = (s.port p).settled := by rw [State.looking_port, if_pos rfl]
  rw [hport] at hstore hclaim
  exact ⟨hstore, hclaim⟩

/-! ## A lookup that finds no record to take its frame (R16, R34) -/

/-- Copies of no handle move no tally (R154). -/
theorem State.offerAll_keeps_tallies (name : Nat) (cls : DataClass) (cs : List Copy) (hc : ∀ c ∈ cs, c.handle = none) (s : State) :
    (s.offerAll name cls cs).1.tallies = s.tallies := by
  induction cs generalizing s with
  | nil => rfl
  | cons c cs ih =>
    have hone : (s.offer name cls c).tallies = s.tallies := by
      unfold State.offer
      split
      · rfl
      · rfl
      · rw [hc c List.mem_cons_self]; rfl
    exact (ih (fun d hd => hc d (List.mem_cons_of_mem _ hd)) _).trans hone

theorem State.requestAdmission_tallies (s : State) (frame : List Byte) (cls : DataClass) (copies : List Copy) (blame : List Port)
    (hc : ∀ c ∈ copies, c.handle = none) : (s.requestAdmission frame cls copies blame).1.tallies = s.tallies := by
  unfold State.requestAdmission
  split
  · rfl
  · split
    · unfold State.storeFrame
      dsimp only
      rw [State.serveAll_eq]
      split <;> exact State.offerAll_keeps_tallies _ _ _ hc _
    · rw [State.refuseFrame_eq]

theorem State.transitCopies_noHandle (s : State) (l : Lane) (frame : List Byte) : ∀ c ∈ s.transitCopies l frame, c.handle = none := by
  intro c hc
  unfold State.transitCopies at hc
  dsimp only at hc
  split at hc
  · rw [List.mem_singleton.mp hc]
  · exact absurd hc List.not_mem_nil

theorem State.sendTransit_tallies (s : State) (l : Lane) (frame : List Byte) : (s.sendTransit l frame).tallies = s.tallies :=
  s.requestAdmission_tallies _ _ _ _ (s.transitCopies_noHandle l frame)

/-- No record takes the frame: none holds its key, or the one that does is of another kind (R34). -/
theorem State.lookupOn_untaken (s : State) (p : Port) (f : RxFrame) :
    s.granted p .lookup = true → (s.port p).store.head? = some f →
    (∀ h, s.findKey (tagOf f.bytes).origin (tagOf f.bytes).stream = some h → ¬ s.lookupTakes p f h) →
    (s.looking p).lookupOn p f = match p with
      | .lane l => (s.looking p).sendTransit l f.bytes
      | .bay q => (s.looking p).count (.bay q) PortCounters.noRecord := by
  intro hg hf hno
  have hkind (h : Nat) (hk : (s.looking p).findKey (tagOf f.bytes).origin (tagOf f.bytes).stream = some h) :=
    fun hm => hno h hk ⟨hg, hf, hk, hm⟩
  cases p with
  | lane l =>
    show (s.looking (.lane l)).laneLookup l f = _
    unfold State.laneLookup
    dsimp only
    split
    · rename_i h hk
      exact if_neg (hkind h hk)
    · rfl
  | bay q =>
    show (s.looking (.bay q)).pairLookup q f = _
    unfold State.pairLookup
    dsimp only
    split
    · rename_i h hk
      exact if_neg (hkind h hk)
    · rfl

/-! ## The transit of a looked-up lane frame (R14, R17) -/

/-- The transit copy heads the copies of a lane's arrival that goes on, and no copy of the arrival names the other lane else (R14). -/
theorem State.transitCopy_mem (s : State) (l : Lane) (f : RxFrame) (h : Nat) (hh : (tagOf f.bytes).hops ≠ 0)
    (hu : s.isUp (.lane l.other) = true) : transitCopy l f.bytes ∈ s.arrivalCopies (.lane l) f h := by
  have halways : s.alwaysCopies (.lane l) f.bytes = [transitCopy l f.bytes] := s.transitCopies_on l f.bytes hh hu
  rw [State.arrivalCopies, halways]
  exact List.mem_append_left _ (List.mem_singleton_self _)

theorem State.otherLane_not_named (s : State) (l : Lane) (f : RxFrame) (h : Nat)
    (ho : (tagOf f.bytes).hops = 0 ∨ s.isUp (.lane l.other) = false) :
    Port.lane l.other ∉ (s.arrivalCopies (.lane l) f h).map Copy.port := by
  have halways : s.alwaysCopies (.lane l) f.bytes = [] := s.transitCopies_off l f.bytes ho
  rw [State.arrivalCopies, halways, Record.copiesOf, List.nil_append]
  split
  · show _ ∉ (s.deliveryCopies h (s.record h).config _).map Copy.port
    rw [State.deliveryCopies_ports]
    simp
  · simp

/-- What a lane frame's grant makes of its transit, whatever the lookup finds: `a` is the request that the grant makes (R14, R17). -/
theorem State.transit_of_request (s : State) (l : Lane) (frame : List Byte) (copies : List Copy) (blame : List Port)
    (hd : (copies.map Copy.port).Nodup) (hb : Port.lane l.other ∉ blame)
    (hon : (tagOf frame).hops ≠ 0 → s.isUp (.lane l.other) = true → transitCopy l frame ∈ copies)
    (hoff : (tagOf frame).hops = 0 ∨ s.isUp (.lane l.other) = false → Port.lane l.other ∉ copies.map Copy.port) :
    let cls := (tagOf frame).cls.dataClass
    let a := s.requestAdmission frame cls copies blame
    ((tagOf frame).hops ≠ 0 → s.isUp (.lane l.other) = true → admissible cls (cellsFor frame.length) s.freeCells = true →
        ((s.port (.lane l.other)).queue cls).length < s.settings.queueCap cls →
        ⟨s.nextName, .hopsRewritten ((tagOf frame).hops - 1), none⟩ ∈ (a.1.port (.lane l.other)).descriptors
          ∧ ∃ g ∈ a.1.pool, g.name = s.nextName ∧ g.bytes = frame ∧ g.cls = cls)
      ∧ ((tagOf frame).hops = 0 ∨ s.isUp (.lane l.other) = false → a.1.port (.lane l.other) = s.port (.lane l.other)) :=
  ⟨fun hh hu ha hq => s.requestAdmission_placed frame _ copies blame hd _ (hon hh hu) ha (s.transitCopy_enqueued l frame _ hu hq),
    fun ho => s.requestAdmission_port_other frame _ copies blame _ (hoff ho) hb⟩

/-- The request a lane frame's grant makes, whatever its lookup finds, with its transit copy when it goes on (R14, R17). -/
theorem State.laneGrant_request {s : State} {l : Lane} {f : RxFrame} (hg : s.granted (.lane l) .lookup = true)
    (hf : (s.port (.lane l)).store.head? = some f) :
    let s' := s.looking (.lane l)
    ∃ t copies, exec (.lookupByKey (.lane l)) s = .next t
      ∧ (t.ports = (s'.requestAdmission f.bytes (tagOf f.bytes).cls.dataClass copies [.lane l]).1.ports
        ∧ t.pool = (s'.requestAdmission f.bytes (tagOf f.bytes).cls.dataClass copies [.lane l]).1.pool)
      ∧ (copies.map Copy.port).Nodup
      ∧ ((tagOf f.bytes).hops ≠ 0 → s'.isUp (.lane l.other) = true → transitCopy l f.bytes ∈ copies)
      ∧ ((tagOf f.bytes).hops = 0 ∨ s'.isUp (.lane l.other) = false → Port.lane l.other ∉ copies.map Copy.port) := by
  intro s'
  by_cases htaken : ∃ h, s.lookupTakes (.lane l) f h
  · obtain ⟨h, ht⟩ := htaken
    obtain ⟨t, hexec, -, ⟨hports, hpool, -⟩, -⟩ := State.lookupTakes_spec ht
    exact ⟨t, s'.arrivalCopies (.lane l) f h, hexec, ⟨hports, hpool⟩, s'.arrivalCopies_nodup _ f h, s'.transitCopy_mem l f h,
      s'.otherLane_not_named l f h⟩
  · have huntaken := s.lookupOn_untaken _ f hg hf (fun h _ ht => htaken ⟨h, ht⟩)
    refine ⟨_, s'.transitCopies l f.bytes, (exec_lookupByKey hg hf).trans (congrArg _ huntaken), ⟨rfl, rfl⟩, ?_, fun hh hu => ?_,
      fun ho => ?_⟩
    · unfold State.transitCopies
      dsimp only
      split <;> simp
    · rw [s'.transitCopies_on l f.bytes hh hu]
      exact List.mem_singleton_self _
    · rw [s'.transitCopies_off l f.bytes ho]
      exact List.not_mem_nil

/-- Settles O24, from the grant with a record that takes the frame, the grant without one, and a lane frame's transit in both. -/
theorem lookupChangesAtMostTheRecordFound : Obligations.LookupChangesAtMostTheRecordFound := by
  refine ⟨fun p f h s ht => ?_, fun p f s hg hf hno => ?_, fun l f s hg hf => ?_⟩
  · obtain ⟨t, hexec, hmoves, ⟨hports, -⟩, hothers, hrecord, -⟩ := State.lookupTakes_spec ht
    obtain ⟨hstore, hclaim⟩ := s.arrivalRequest_settled p f h
    obtain ⟨hconfig, hheld⟩ := (s.record h).arrival_config (s.record h) (arrivalOf p f)
      ((s.record h).wantedOf (arrivalOf p f) ((s.looking p).ownCopies p h))
      (answeredEnqueued Copy.carriesHandle ((s.looking p).arrivalCopies p f h) ((s.looking p).arrivalRequest p f h).2)
      (answeredEnqueued Copy.isInjection ((s.looking p).arrivalCopies p f h) ((s.looking p).arrivalRequest p f h).2)
    have hport : t.port p = ((s.looking p).arrivalRequest p f h).1.port p := congrArg (PortMap.get · p) hports
    refine ⟨t, hexec, hmoves, hothers, ?_, ?_, by rw [hport, hstore], by rw [hport, hclaim]⟩
    · rw [hrecord]; exact hconfig
    · rw [hrecord]; exact hheld
  · have huntaken := s.lookupOn_untaken _ f hg hf hno
    rw [exec_lookupByKey hg hf, huntaken]
    cases p with
    | lane l =>
      obtain ⟨hmoves, htable⟩ := State.onlyGrantMoves_of_traffic ((s.looking (.lane l)).sendTransit_traffic l f.bytes)
      exact ⟨_, rfl, htable, (s.looking (.lane l)).sendTransit_tallies l f.bytes, hmoves, rfl⟩
    | bay q =>
      refine ⟨_, rfl, rfl, rfl, rfl, ?_⟩
      show (s.discard (.bay q) PortCounters.noRecord).ports = _
      rw [s.discard_eq]
      rfl
  · intro hops cls
    obtain ⟨t, copies, hexec, ⟨hports, hpool⟩, hnodup, hon, hoff⟩ := State.laneGrant_request hg hf
    have hother : (s.looking (.lane l)).port (.lane l.other) = s.port (.lane l.other) := by
      rw [State.looking_port, if_neg (Port.lane_other_ne l).symm]
    have hup : (s.looking (.lane l)).isUp (.lane l.other) = s.isUp (.lane l.other) := s.looking_isUp _ _
    have hport := congrArg (PortMap.get · (.lane l.other)) hports
    obtain ⟨hplaced, hnone⟩ := (s.looking (.lane l)).transit_of_request l f.bytes copies [.lane l] hnodup
      (by simpa using (Port.lane_other_ne l).symm) hon hoff
    rw [hup, hother] at hplaced hnone
    refine ⟨t, hexec, fun hh hu ha hq => ?_, fun ho => hport.trans (hnone ho)⟩
    obtain ⟨hmem, g, hg⟩ := hplaced hh hu ha hq
    exact ⟨(congrArg (fun u : PortUnit => _ ∈ u.descriptors) hport).mpr hmem, g, hpool ▸ hg⟩

end Sys2Proof.Machine
end

section
namespace Sys2Proof.Machine

/-! ## A first copy that is left unmarked (R58, R74, R148, R149) -/

/-- An advance goes forward (R43). -/
theorem Record.place_advance {r : Record} {x : Arrival} (h : r.place x = .advance) : r.distance x.seq ≠ 0 := by
  unfold Record.place at h
  dsimp only at h
  intro hd
  rw [if_pos hd] at h
  split at h
  · exact Placement.noConfusion h
  · split at h <;> exact Placement.noConfusion h

/-- An arrival placed at H finds its mark clear (R43). -/
theorem Record.place_atTop {r : Record} {x : Arrival} (h : r.place x = .atTop) : r.seen.getLsbD 0 = false := by
  have hfound : r.distance x.seq = 0 ∧ r.marked x.seq = false := by
    unfold Record.place at h
    dsimp only at h
    split at h
    · exact Placement.noConfusion h
    · split at h
      · rename_i hd
        split at h
        · exact Placement.noConfusion h
        · rename_i hm
          exact ⟨hd, Bool.eq_false_iff.mpr hm⟩
      · repeat' split at h
        all_goals exact Placement.noConfusion h
  obtain ⟨hd, hm⟩ := hfound
  have hbehind : (r.highest - x.seq).toNat = 0 := by
    have : (x.seq - r.highest).toNat = 0 := hd
    bv_omega
  rw [← hbehind]
  refine Bool.eq_false_iff.mpr (fun hs => Bool.eq_false_iff.mp hm ((r.marked_iff x.seq).mpr ⟨?_, hs⟩))
  rw [hbehind]
  decide

/-- Placement leaves the mark of an arrival that advances, resyncs or stands at H clear, and a late one's marks as they were; no stage
before the fifth touches "refused" and "injected" (R42 to R45). -/
theorem Record.paired_unmarked (r : Record) (x : Arrival) (ha : (r.place x).accepted = true) :
    (r.paired x).counters.refused = r.counters.refused ∧ (r.paired x).counters.injected = r.counters.injected
      ∧ (r.place x ≠ .late → (r.paired x).seen.getLsbD 0 = false) ∧ (r.place x = .late → (r.paired x).seen = r.seen) := by
  have hplaced (q : Record) : ((q.hearFirst x).pairFirst x).counters.refused = q.counters.refused
      ∧ ((q.hearFirst x).pairFirst x).counters.injected = q.counters.injected ∧ ((q.hearFirst x).pairFirst x).seen = q.seen := by
    rw [Record.pairFirst_eq, Record.hearFirst, Record.setLeg_eq]
    exact ⟨rfl, rfl, rfl⟩
  obtain ⟨hrefused, hinjected, hseen⟩ := hplaced (r.applyPlacement x (r.place x))
  unfold Record.paired
  rw [hrefused, hinjected, hseen]
  cases hp : r.place x with
  | resync => exact ⟨rfl, rfl, fun _ => by simp [Record.applyPlacement], fun h => Placement.noConfusion h⟩
  | advance =>
    have hd := Nat.pos_of_ne_zero (Record.place_advance hp)
    exact ⟨rfl, rfl, fun _ => by simp [Record.applyPlacement, hd], fun h => Placement.noConfusion h⟩
  | atTop =>
    have hclear := Record.place_atTop hp
    exact ⟨rfl, rfl, fun _ => hclear, fun h => Placement.noConfusion h⟩
  | late => exact ⟨rfl, rfl, fun h => absurd rfl h, fun _ => rfl⟩
  | duplicate => rw [hp] at ha; exact absurd ha Bool.false_ne_true
  | wild => rw [hp] at ha; exact absurd ha Bool.false_ne_true

/-- With copies to make and none of them enqueued, the arrival is left unmarked and counts "refused" alone (R58, R74). -/
theorem Record.arrived_unmarked (r : Record) (x : Arrival) (wanted : Nat) (ha : (r.place x).accepted = true) (hw : wanted ≠ 0) :
    let t := r.arrived x wanted 0 0
    t.counters.refused = bump r.counters.refused ∧ t.counters.injected = r.counters.injected
      ∧ (r.place x ≠ .late → t.seen.getLsbD 0 = false) ∧ (r.place x = .late → t.seen = r.seen) := by
  intro t
  have hsettle : (r.paired x).settle x.seq wanted 0 0 = (r.paired x).refuse := by
    unfold Record.settle
    dsimp only
    have hnot : ¬ (wanted = 0 ∨ 0 < 0) := not_or.mpr ⟨hw, Nat.lt_irrefl 0⟩
    rw [if_neg hnot, if_neg (Nat.lt_irrefl 0)]
  obtain ⟨hrefused, hinjected, hclear, hlate⟩ := r.paired_unmarked x ha
  have heq := r.arrived_first x wanted 0 0 ha
  have hcounters := congrArg Record.counters heq
  have hseen : t.seen = (r.paired x).seen := by
    have := congrArg Record.seen heq
    rw [hsettle] at this
    exact this
  rw [hsettle] at hcounters
  rw [hseen]
  exact ⟨(congrArg RecCounters.refused hcounters).trans (congrArg bump hrefused),
    (congrArg RecCounters.injected hcounters).trans hinjected, hclear, hlate⟩

/-! ## The own copies of an accepted arrival (R55, R67, R73) -/

/-- A delivery copy stands on an UP port of the delivery set that is not struck from it, with its record's handle (R55). -/
theorem State.mem_deliveryCopies {s : State} {h : Nat} {c : StreamConfig} {struck : BayPort → Bool} {x : Copy}
    (hx : x ∈ s.deliveryCopies h c struck) : s.isUp x.port = true ∧ x.handle = some h ∧ x.role = .delivery := by
  obtain ⟨q, hq, rfl⟩ := List.mem_map.mp hx
  have hup := (Bool.and_eq_true_iff.mp (List.mem_filter.mp hq).2).2
  exact ⟨hup, rfl, rfl⟩

/-- An injection copy stands on an UP lane, with its record's handle (R73). -/
theorem State.mem_injectionCopies {s : State} {h : Nat} {form : Form} {x : Copy} (hx : x ∈ s.injectionCopies h form) :
    s.isUp x.port = true ∧ x.handle = some h := by
  obtain ⟨q, hq, rfl⟩ := List.mem_map.mp hx
  exact ⟨(List.mem_filter.mp hq).2, rfl⟩

theorem State.mem_ownCopies {s : State} {p : Port} {h : Nat} {x : Copy} (hx : x ∈ s.ownCopies p h) : s.isUp x.port = true := by
  cases p with
  | lane l => exact (State.mem_deliveryCopies hx).1
  | bay q => exact (List.mem_append.mp hx).elim (fun hi => (State.mem_injectionCopies hi).1) (fun hd => (State.mem_deliveryCopies hd).1)

theorem mem_bayPorts (q : BayPort) : q ∈ bayPorts := by cases q <;> decide

/-- The ports of a record's delivery copies: the UP ones of its delivery set that are not struck from it (R55). -/
theorem State.mem_deliveryPorts (s : State) (h : Nat) (c : StreamConfig) (struck : BayPort → Bool) (port : Port) :
    port ∈ (s.deliveryCopies h c struck).map Copy.port ↔
      ∃ q, port = .bay q ∧ c.delivery.getLsbD q.index = true ∧ struck q = false ∧ s.isUp (.bay q) = true := by
  rw [State.deliveryCopies_ports, List.mem_map]
  refine exists_congr (fun q => ?_)
  simp only [List.mem_filter, mem_bayPorts, true_and, Bool.and_eq_true, Bool.not_eq_true']
  exact ⟨fun ⟨⟨⟨hd, hs⟩, hu⟩, hp⟩ => ⟨hp.symm, hd, hs, hu⟩, fun ⟨hp, hd, hs, hu⟩ => ⟨⟨⟨hd, hs⟩, hu⟩, hp.symm⟩⟩

/-- The ports of a lane arrival's own copies: the UP bay ports of the record's delivery set (R55). -/
theorem State.ownPorts_lane (s : State) (l : Lane) (h : Nat) (port : Port) :
    port ∈ (s.ownCopies (.lane l) h).map Copy.port ↔
      ∃ q, port = .bay q ∧ (s.record h).config.delivery.getLsbD q.index = true ∧ s.isUp (.bay q) = true := by
  refine (s.mem_deliveryPorts h _ _ port).trans (exists_congr (fun q => ?_))
  simp

/-- The ports of a pair arrival's own copies: the UP lanes, and the UP bay ports of the delivery set outside the pair (R73). -/
theorem State.ownPorts_bay (s : State) (p : BayPort) (h : Nat) (port : Port) :
    port ∈ (s.ownCopies (.bay p) h).map Copy.port ↔ s.isUp port = true ∧ match port with
      | .lane _ => True
      | .bay q => q.pair ≠ p.pair ∧ (s.record h).config.delivery.getLsbD q.index = true := by
  have hlanes : port ∈ s.upLanes ↔ s.isUp port = true ∧ ∃ l, port = .lane l := by
    rw [State.upLanes, List.mem_filter, and_comm]
    refine and_congr_right (fun _ => ?_)
    cases port with
    | lane l => cases l <;> simp
    | bay q => simp
  unfold State.ownCopies
  dsimp only
  rw [List.map_append, List.mem_append, State.injectionCopies_ports, hlanes, State.mem_deliveryPorts]
  cases port with
  | lane l => simp
  | bay q =>
    constructor
    · rintro (⟨-, l, hl⟩ | ⟨k, hk, hset, hstruck, hup⟩)
      · cases hl
      · cases hk
        exact ⟨hup, beq_eq_false_iff_ne.mp hstruck, hset⟩
    · rintro ⟨hup, hpair, hset⟩
      exact .inr ⟨q, rfl, hset, beq_eq_false_iff_ne.mpr hpair, hup⟩

/-! ## The fates of the copies (R149) -/

/-- A copy for an UP port with a full queue is dropped, whatever it is for (R149). -/
theorem State.fateOf_dropped (s : State) (cls : DataClass) (c : Copy) (hu : s.isUp c.port = true)
    (hq : s.queueFull c.port cls = true) : s.fateOf cls c = .dropped := by
  have hup : (s.port c.port).state = .up := beq_iff_eq.mp hu
  unfold State.fateOf
  dsimp only
  rw [hup, if_neg (by cases c.role <;> exact Bool.false_ne_true), if_pos (of_decide_eq_true hq)]

/-- A dropped copy leaves its port's descriptors and counts "queue drops" there (R149). -/
theorem PortUnit.dropped_port (u : PortUnit) (name : Nat) (cls : DataClass) (c : Copy) (quota : Nat) :
    ((u.offered .dropped name cls c).choose quota).counters.queueDrops = bump u.counters.queueDrops
      ∧ ∀ d, d ∈ ((u.offered .dropped name cls c).choose quota).descriptors ↔ d ∈ u.descriptors :=
  ⟨by rw [PortUnit.choose_counters]; rfl, fun d => PortUnit.mem_choose _ quota d⟩

theorem State.copiesOf_accepted {r : Record} {x : Arrival} (always own : List Copy) (ha : (r.place x).accepted = true)
    (hh : r.held = false) : r.copiesOf x always own = always ++ own ∧ r.wantedOf x own = own.length := by
  unfold Record.copiesOf Record.wantedOf
  rw [ha, hh]
  exact ⟨rfl, rfl⟩

/-- The copies an arrival has whatever its record says carry no handle and are no injections (R14). -/
theorem State.mem_alwaysCopies {s : State} {p : Port} {frame : List Byte} {c : Copy} (hc : c ∈ s.alwaysCopies p frame) :
    ∃ l, p = .lane l ∧ c = transitCopy l frame := by
  cases p with
  | lane l =>
    have hc : c ∈ s.transitCopies l frame := hc
    unfold State.transitCopies at hc
    dsimp only at hc
    split at hc
    · exact ⟨l, rfl, List.mem_singleton.mp hc⟩
    · exact absurd hc List.not_mem_nil
  | bay q => exact absurd hc List.not_mem_nil

/-! ## A first copy whose frame the pool refuses (R17, R58, R59, R148) -/

/-- A refusal on one port: POOL, that port's "pool refusals", and nothing else; no descriptor moves (R148). -/
theorem State.refuseFrame_spec (s : State) (p : Port) :
    (s.refuseFrame [p]).pool = s.pool ∧ (s.refuseFrame [p]).tallies = s.tallies ∧ (s.refuseFrame [p]).flag .pool = true
      ∧ ((s.refuseFrame [p]).port p).counters.poolRefusals = bump (s.port p).counters.poolRefusals
      ∧ ∀ q, ((s.refuseFrame [p]).port q).descriptors = (s.port q).descriptors := by
  have hport (q : Port) : (s.refuseFrame [p]).port q = if q = p then
      { s.port p with counters := { (s.port p).counters with poolRefusals := bump (s.port p).counters.poolRefusals } } else s.port q := by
    rw [State.refuseFrame_one, State.count, State.port_modPort]
    rfl
  refine ⟨rfl, rfl, ?_, ?_, fun q => ?_⟩
  · rw [State.flag, State.refuseFrame_flags]
    exact s.flag_raise_same .pool
  · rw [hport, if_pos rfl]
  · rw [hport]
    split
    · rename_i h
      rw [h]; rfl
    · rfl

/-- A first copy that had copies to make and whose frame the pool refuses, on any port (R17, R58, R59, R148). -/
theorem State.firstCopy_refused {s : State} {p : Port} {f : RxFrame} {h : Nat} (ht : s.lookupTakes p f h)
    (ha : ((s.record h).place (arrivalOf p f)).accepted = true) (hh : (s.record h).held = false)
    (hown : (s.looking p).ownCopies p h ≠ [])
    (hn : admissible (tagOf f.bytes).cls.dataClass (cellsFor f.bytes.length) s.freeCells = false) :
    ∃ t, exec (.lookupByKey p) s = .next t
      ∧ (t.record h).counters.refused = bump (s.record h).counters.refused
      ∧ (t.record h).counters.injected = (s.record h).counters.injected
      ∧ ((s.record h).place (arrivalOf p f) ≠ .late → (t.record h).seen.getLsbD 0 = false)
      ∧ ((s.record h).place (arrivalOf p f) = .late → (t.record h).seen = (s.record h).seen)
      ∧ t.pool = s.pool ∧ t.tallies = s.tallies ∧ t.flag .pool = true
      ∧ (t.port p).counters.poolRefusals = bump (s.port p).counters.poolRefusals
      ∧ ∀ q, (t.port q).descriptors = (s.port q).descriptors := by
  obtain ⟨t, hexec, -, ⟨hports, hpool, -, htallies⟩, -, hrecord, hflags⟩ := State.lookupTakes_spec ht
  obtain ⟨hcopies, hwanted⟩ := State.copiesOf_accepted ((s.looking p).alwaysCopies p f.bytes) ((s.looking p).ownCopies p h) ha hh
  have hrequest : (s.looking p).arrivalRequest p f h = ((s.looking p).refuseFrame [p], []) := by
    refine State.requestAdmission_refused _ _ _ _ _ ?_ hn
    intro hnil
    exact hown (List.append_eq_nil_iff.mp (hcopies.symm.trans hnil)).2
  have hzero (which : Copy → Bool) (copies : List Copy) : answeredEnqueued which copies [] = 0 := by
    simp [answeredEnqueued]
  rw [hwanted, hrequest, hzero, hzero] at hrecord
  rw [hrequest] at hports hpool htallies hflags
  obtain ⟨hrefused, hinjected, hclear, hlate⟩ :=
    (s.record h).arrived_unmarked (arrivalOf p f) _ ha (mt List.length_eq_zero_iff.mp hown)
  rw [← hrecord] at hrefused hinjected hclear hlate
  obtain ⟨hpool', htallies', hflag, hcount, hdescriptors⟩ := (s.looking p).refuseFrame_spec p
  have hport (q : Port) : t.port q = ((s.looking p).refuseFrame [p]).port q := congrArg (PortMap.get · q) hports
  refine ⟨t, hexec, hrefused, hinjected, hclear, hlate, hpool.trans hpool', htallies.trans htallies',
    (hflags _ Flag.noConfusion).trans hflag, ?_, fun q => ?_⟩
  · rw [hport, hcount, State.looking_port, if_pos rfl]; rfl
  · rw [hport, hdescriptors, State.looking_port]
    split
    · rename_i hq
      rw [hq]; rfl
    · rfl

end Sys2Proof.Machine
end

section
namespace Sys2Proof.Machine

/-! ## A first copy whose own copies all meet full queues (R58, R149) -/

theorem enqueuedCount_append_dropped (always own : List Copy) (fate : Copy → Fate) (hd : ∀ c ∈ own, fate c = .dropped) :
    enqueuedCount ((always ++ own).map fate) = enqueuedCount (always.map fate) := by
  have hnone : Fate.enqueued ∉ own.map fate := by
    intro hm
    obtain ⟨c, hc, he⟩ := List.mem_map.mp hm
    rw [hd c hc] at he
    exact Fate.noConfusion he
  rw [enqueuedCount, List.map_append, List.count_append, List.count_eq_zero_of_not_mem hnone, Nat.add_zero, enqueuedCount]

/-- An arrival whose own copies are all dropped: its own ports count the drops, the other ports, the tallies and the flags stay, and the
frame holds cells for its transit copy alone (R58, R149). -/
theorem State.storeFrame_ownDropped (s : State) (p : Port) (frame : List Byte) (h : Nat) (cls : DataClass)
    (hn : ((s.alwaysCopies p frame ++ s.ownCopies p h).map Copy.port).Nodup)
    (hd : ∀ c ∈ s.ownCopies p h, s.fateOf cls c = .dropped) :
    let copies := s.alwaysCopies p frame ++ s.ownCopies p h
    let a := s.storeFrame frame cls copies
    let n := enqueuedCount ((s.alwaysCopies p frame).map (s.fateOf cls))
    (answeredEnqueued Copy.carriesHandle copies a.2 = 0 ∧ answeredEnqueued Copy.isInjection copies a.2 = 0)
      ∧ a.1.pool = (if n = 0 then s.pool else s.pool ++ [⟨s.nextName, frame, cls, n⟩])
      ∧ (∀ k, a.1.tally k = s.tally k) ∧ a.1.flags = s.flags
      ∧ ∀ port ∈ (s.ownCopies p h).map Copy.port,
          (a.1.port port).counters.queueDrops = bump (s.port port).counters.queueDrops
            ∧ ∀ d, d ∈ (a.1.port port).descriptors ↔ d ∈ (s.port port).descriptors := by
  intro copies a n
  have hcase {c : Copy} (hc : c ∈ copies) : (c.handle = none ∧ c.role = .transit) ∨ s.fateOf cls c = .dropped := by
    rcases List.mem_append.mp hc with hc | hc
    · obtain ⟨l, -, rfl⟩ := State.mem_alwaysCopies hc
      exact .inl ⟨rfl, rfl⟩
    · exact .inr (hd c hc)
  have hanswer (which : Copy → Bool) (hw : ∀ c : Copy, c.handle = none → c.role = .transit → which c = false) :
      answeredEnqueued which copies a.2 = 0 := by
    rw [s.storeFrame_fates frame cls copies hn]
    refine answeredEnqueued_zero which copies _ (fun c hc hwhich => (hcase hc).resolve_left ?_)
    rintro ⟨hnone, hrole⟩
    exact Bool.false_ne_true ((hw c hnone hrole).symm.trans hwhich)
  refine ⟨⟨hanswer _ (fun c hnone _ => by rw [Copy.carriesHandle, hnone]; rfl),
    hanswer _ (fun c _ hrole => by rw [Copy.isInjection, hrole]; rfl)⟩, ?_, fun k => ?_, s.storeFrame_flags frame cls copies, ?_⟩
  · rw [s.storeFrame_pool frame cls copies hn, enqueuedCount_append_dropped _ _ _ hd]
  · rw [s.storeFrame_tally frame cls copies hn, List.countP_eq_zero.mpr, Nat.add_zero]
    intro c hc hcounts
    obtain ⟨henqueued, hhandle⟩ := of_decide_eq_true hcounts
    rcases hcase hc with ⟨hnone, -⟩ | hdropped
    · exact absurd (hnone.symm.trans hhandle) (Option.some_ne_none k).symm
    · exact Fate.noConfusion (hdropped.symm.trans henqueued)
  · intro port hport
    obtain ⟨c, hc, rfl⟩ := List.mem_map.mp hport
    rw [s.storeFrame_port frame cls copies hn c (List.mem_append_right _ hc), hd c hc]
    exact PortUnit.dropped_port _ _ _ _ _

/-- A first copy that had copies to make and whose own copies all meet full queues, on any port (R58, R149): of its copies the transit
copy alone can hold the frame. -/
theorem State.firstCopy_dropped {s : State} {p : Port} {f : RxFrame} {h : Nat} (ht : s.lookupTakes p f h)
    (ha : ((s.record h).place (arrivalOf p f)).accepted = true) (hh : (s.record h).held = false)
    (hown : (s.looking p).ownCopies p h ≠ [])
    (hadm : admissible (tagOf f.bytes).cls.dataClass (cellsFor f.bytes.length) s.freeCells = true)
    (hfull : ∀ port ∈ ((s.looking p).ownCopies p h).map Copy.port,
      (s.looking p).queueFull port (tagOf f.bytes).cls.dataClass = true) :
    let s' := s.looking p
    let cls := (tagOf f.bytes).cls.dataClass
    let n := enqueuedCount ((s'.alwaysCopies p f.bytes).map (s'.fateOf cls))
    ∃ t, exec (.lookupByKey p) s = .next t
      ∧ (t.record h).counters.refused = bump (s.record h).counters.refused
      ∧ (t.record h).counters.injected = (s.record h).counters.injected
      ∧ ((s.record h).place (arrivalOf p f) ≠ .late → (t.record h).seen.getLsbD 0 = false)
      ∧ ((s.record h).place (arrivalOf p f) = .late → (t.record h).seen = (s.record h).seen)
      ∧ (∀ k, t.tally k = s.tally k) ∧ t.flag .pool = s.flag .pool
      ∧ t.pool = (if n = 0 then s.pool else s.pool ++ [⟨s.nextName, f.bytes, cls, n⟩])
      ∧ (∀ port ∈ (s'.ownCopies p h).map Copy.port,
          (t.port port).counters.queueDrops = bump (s'.port port).counters.queueDrops
            ∧ ∀ d, d ∈ (t.port port).descriptors ↔ d ∈ (s'.port port).descriptors)
      ∧ (∀ port, port ∉ (s'.alwaysCopies p f.bytes ++ s'.ownCopies p h).map Copy.port → t.port port = s'.port port)
      ∧ ∀ c ∈ s'.alwaysCopies p f.bytes, s'.fateOf cls c = .enqueued →
          ⟨s.nextName, c.form, c.handle⟩ ∈ (t.port c.port).descriptors := by
  intro s' cls n
  obtain ⟨t, hexec, -, ⟨hports, hpool, -, htallies⟩, -, hrecord, hflags⟩ := State.lookupTakes_spec ht
  obtain ⟨hcopies, hwanted⟩ := State.copiesOf_accepted (s'.alwaysCopies p f.bytes) (s'.ownCopies p h) ha hh
  have hlist : s'.arrivalCopies p f h = s'.alwaysCopies p f.bytes ++ s'.ownCopies p h := hcopies
  have hnodup : ((s'.alwaysCopies p f.bytes ++ s'.ownCopies p h).map Copy.port).Nodup := hlist ▸ s'.arrivalCopies_nodup p f h
  have hdropped (c : Copy) (hc : c ∈ s'.ownCopies p h) : s'.fateOf cls c = .dropped :=
    s'.fateOf_dropped cls c (State.mem_ownCopies hc) (hfull _ (List.mem_map_of_mem hc))
  have hrequest : s'.arrivalRequest p f h = s'.storeFrame f.bytes cls (s'.alwaysCopies p f.bytes ++ s'.ownCopies p h) := by
    rw [State.arrivalRequest, hlist]
    exact s'.requestAdmission_stored _ _ _ _ (fun hnil => hown (List.append_eq_nil_iff.mp hnil).2) hadm
  obtain ⟨⟨hgot, hinject⟩, hpool', htally', hflags', hown'⟩ := s'.storeFrame_ownDropped p f.bytes h cls hnodup hdropped
  rw [hwanted, hrequest, hlist, hgot, hinject] at hrecord
  rw [hrequest] at hports hpool htallies hflags
  obtain ⟨hrefused, hinjected, hclear, hlate⟩ :=
    (s.record h).arrived_unmarked (arrivalOf p f) _ ha (mt List.length_eq_zero_iff.mp hown)
  rw [← hrecord] at hrefused hinjected hclear hlate
  have hport (q : Port) : t.port q = (s'.storeFrame f.bytes cls (s'.alwaysCopies p f.bytes ++ s'.ownCopies p h)).1.port q :=
    congrArg (PortMap.get · q) hports
  refine ⟨t, hexec, hrefused, hinjected, hclear, hlate, fun k => ?_, ?_, hpool.trans hpool', fun port hp => ?_, fun port hp => ?_,
    fun c hc he => ?_⟩
  · exact (congrArg (Sparse.get 0 · k) htallies).trans (htally' k)
  · exact (hflags _ Flag.noConfusion).trans (congrArg (BitVec.getLsbD · Flag.pool.bit) hflags')
  · rw [hport]; exact hown' port hp
  · rw [hport]; exact s'.storeFrame_port_other _ _ _ port hp
  · rw [hport, s'.storeFrame_port _ _ _ hnodup c (List.mem_append_left _ hc), he]
    exact PortUnit.mem_offered _ _ _ c _

theorem State.looking_queueFull (s : State) (p q : Port) (cls : DataClass) : (s.looking p).queueFull q cls = s.queueFull q cls := by
  have hqueue : ((s.looking p).port q).queue cls = (s.port q).queue cls := by
    rw [State.looking_port]
    split
    · rename_i h
      rw [h]; cases cls <;> rfl
    · rfl
  rw [State.queueFull, hqueue]
  rfl

/-- The lane's transit copy, when it is enqueued, holds the frame alone; else no copy does (R14, R149). -/
theorem State.alwaysCopies_enqueued (s : State) (l : Lane) (frame : List Byte) (cls : DataClass) :
    let n := enqueuedCount ((s.alwaysCopies (.lane l) frame).map (s.fateOf cls))
    ((tagOf frame).hops = 0 ∨ s.isUp (.lane l.other) = false ∨ s.queueFull (.lane l.other) cls = true → n = 0)
      ∧ ((tagOf frame).hops ≠ 0 → s.isUp (.lane l.other) = true → s.queueFull (.lane l.other) cls = false →
          s.alwaysCopies (.lane l) frame = [transitCopy l frame] ∧ s.fateOf cls (transitCopy l frame) = .enqueued ∧ n = 1) := by
  intro n
  have halways : s.alwaysCopies (.lane l) frame = s.transitCopies l frame := rfl
  refine ⟨fun hoff => ?_, fun hh hu hq => ?_⟩
  · by_cases hno : (tagOf frame).hops = 0 ∨ s.isUp (.lane l.other) = false
    · show enqueuedCount ((s.alwaysCopies (.lane l) frame).map _) = 0
      rw [halways, s.transitCopies_off l frame hno]
      rfl
    · obtain ⟨hh, hu⟩ := not_or.mp hno
      have hu := Bool.not_eq_false _ ▸ hu
      have hfull := (hoff.resolve_left hh).resolve_left (by rw [hu]; exact Bool.noConfusion)
      have hfate := s.fateOf_dropped cls (transitCopy l frame) hu hfull
      show enqueuedCount ((s.alwaysCopies (.lane l) frame).map _) = 0
      rw [halways, s.transitCopies_on l frame hh hu, List.map_singleton, hfate]
      rfl
  · have hcopies := s.transitCopies_on l frame hh hu
    have hfate := s.transitCopy_enqueued l frame cls hu (Nat.not_le.mp (of_decide_eq_false hq))
    refine ⟨hcopies, hfate, ?_⟩
    show enqueuedCount ((s.alwaysCopies (.lane l) frame).map _) = 1
    rw [halways, hcopies, List.map_singleton, hfate]
    rfl

/-- A copy with its port among an arrival's own makes the list of them non-empty. -/
theorem ownCopies_ne_nil {s : State} {p port : Port} {h : Nat} (hm : port ∈ (s.ownCopies p h).map Copy.port) : s.ownCopies p h ≠ [] := by
  intro hnil
  rw [hnil] at hm
  exact List.not_mem_nil hm

/-- Settles O28, from a first copy that the pool refuses and one whose copies all meet full queues, on a lane and on a pair's port. -/
theorem refusedFirstCopyIsLeftUnmarked : Obligations.RefusedFirstCopyIsLeftUnmarked := by
  refine ⟨?_, ?_, ?_, ?_⟩
  · intro l f h q s ht r x cls ha hh hdel hup hn
    have hmem := ((s.looking (.lane l)).ownPorts_lane l h (.bay q)).mpr ⟨q, rfl, hdel, (s.looking_isUp _ _).trans hup⟩
    obtain ⟨t, hexec, hrefused, -, hclear, hlate, hpool, htallies, hflag, hcount, hdescriptors⟩ :=
      State.firstCopy_refused ht ha hh (ownCopies_ne_nil hmem) hn
    exact ⟨t, hexec, hrefused, hclear, hlate, hpool, htallies, hflag, hcount, hdescriptors⟩
  · intro p f h s ht r x ha hh hwant hn
    have hmem : ∃ port, port ∈ ((s.looking (.bay p)).ownCopies (.bay p) h).map Copy.port := by
      rcases hwant with ⟨l, hup⟩ | ⟨q, hpair, hdel, hup⟩
      · exact ⟨.lane l, (State.ownPorts_bay _ p h _).mpr ⟨(s.looking_isUp _ _).trans hup, trivial⟩⟩
      · exact ⟨.bay q, (State.ownPorts_bay _ p h _).mpr ⟨(s.looking_isUp _ _).trans hup, hpair, hdel⟩⟩
    obtain ⟨port, hmem⟩ := hmem
    exact State.firstCopy_refused ht ha hh (ownCopies_ne_nil hmem) hn
  · intro l f h s ht r x hops cls wanted ha hh hadm hwant hfull
    have hports (port : Port) : port ∈ ((s.looking (.lane l)).ownCopies (.lane l) h).map Copy.port ↔ ∃ q, port = .bay q ∧ wanted q := by
      refine (State.ownPorts_lane _ l h port).trans (exists_congr (fun q => ?_))
      rw [s.looking_isUp]
      rfl
    obtain ⟨q, hq⟩ := hwant
    have hbay (q : BayPort) : (s.looking (.lane l)).port (.bay q) = s.port (.bay q) := by
      rw [State.looking_port, if_neg Port.noConfusion]
    obtain ⟨t, hexec, hrefused, hinjected, hclear, hlate, htally, hflag, hpool, hdrops, hothers, htransit⟩ :=
      State.firstCopy_dropped ht ha hh (ownCopies_ne_nil ((hports (.bay q)).mpr ⟨q, rfl, hq⟩)) hadm (fun port hp => by
        obtain ⟨q, rfl, hq⟩ := (hports port).mp hp
        rw [s.looking_queueFull]
        exact hfull q hq)
    obtain ⟨hnone, hone⟩ := (s.looking (.lane l)).alwaysCopies_enqueued l f.bytes cls
    rw [s.looking_isUp, s.looking_queueFull] at hnone hone
    refine ⟨t, hexec, hrefused, hinjected, hclear, hlate, htally, hflag, fun q hq => ?_, fun q hq => ?_, fun hoff => ?_,
      fun hh hu hroom => ?_⟩
    · rw [← hbay q]
      exact hdrops _ ((hports _).mpr ⟨q, rfl, hq⟩)
    · rw [← hbay q]
      refine hothers _ (fun hm => ?_)
      rw [List.map_append] at hm
      rcases List.mem_append.mp hm with hm | hm
      · obtain ⟨c, hc, hport⟩ := List.mem_map.mp hm
        obtain ⟨k, -, rfl⟩ := State.mem_alwaysCopies hc
        exact Port.noConfusion hport
      · obtain ⟨q', hport, hw⟩ := (hports _).mp hm
        exact hq (Port.bay.inj hport ▸ hw)
    · rw [hpool, if_pos (hnone hoff)]
    · obtain ⟨halways, hfate, hcount⟩ := hone hh hu hroom
      refine ⟨htransit (transitCopy l f.bytes) (halways ▸ List.mem_singleton_self _) hfate, ?_⟩
      rw [hpool, hcount, if_neg Nat.one_ne_zero]
  · intro p f h s ht r x cls wanted ha hh hadm hwant hfull
    have hports (port : Port) : port ∈ ((s.looking (.bay p)).ownCopies (.bay p) h).map Copy.port ↔ wanted port := by
      refine (State.ownPorts_bay _ p h port).trans ?_
      rw [s.looking_isUp]
      rfl
    have hport {port : Port} (hne : port ≠ .bay p) : (s.looking (.bay p)).port port = s.port port := by
      rw [State.looking_port, if_neg hne]
    have hwantedNe {port : Port} (hw : wanted port) : port ≠ .bay p := by
      rintro rfl
      exact hw.2.1 rfl
    obtain ⟨port, hw⟩ := hwant
    obtain ⟨t, hexec, hrefused, hinjected, hclear, hlate, htally, hflag, hpool, hdrops, hothers, -⟩ :=
      State.firstCopy_dropped ht ha hh (ownCopies_ne_nil ((hports port).mpr hw)) hadm (fun port hp => by
        rw [s.looking_queueFull]
        exact hfull port ((hports port).mp hp))
    refine ⟨t, hexec, hrefused, hinjected, hclear, hlate, htally, hflag, hpool, fun port hw => ?_, fun port hw hne => ?_⟩
    · rw [← hport (hwantedNe hw)]
      exact hdrops port ((hports port).mpr hw)
    · rw [← hport hne]
      exact hothers port (mt (hports port).mp hw)

end Sys2Proof.Machine
end

section
namespace Sys2Proof.Machine

/-! ## The settings block (R163, R172) -/

/-- Every setting lies in its range, setting by setting (R163). -/
theorem Settings.inRange_iff (v : Settings) : v.inRange = true ↔
    v.node.toNat ≤ 60 ∧ v.epoch.toNat ≤ 15 ∧ (1 ≤ v.hopLimit.toNat ∧ v.hopLimit.toNat ≤ 63) ∧ 0x0600 ≤ v.tagType.toNat
      ∧ (1 ≤ v.probePeriod.toNat ∧ v.probePeriod.toNat ≤ 100) ∧ (1 ≤ v.probeMissLimit.toNat ∧ v.probeMissLimit.toNat ≤ 15)
      ∧ v.sweepPeriod.toNat ≤ 3 ∧ v.sweepMask.toNat ≤ 0xFF ∧ v.freeze.toNat ≤ 0xFF ∧ v.pairEnable.toNat ≤ 3
      ∧ v.attachedNode0.toNat ≤ 60 ∧ v.attachedNode1.toNat ≤ 60 ∧ (v.maxFrame = 1536 ∨ v.maxFrame = 2048)
      ∧ (1 ≤ v.queueCapTrip.toNat ∧ v.queueCapTrip.toNat ≤ 128) ∧ (1 ≤ v.queueCapSample.toNat ∧ v.queueCapSample.toNat ≤ 128)
      ∧ (1 ≤ v.queueCapStatus.toNat ∧ v.queueCapStatus.toNat ≤ 128) ∧ (1 ≤ v.statusQuota.toNat ∧ v.statusQuota.toNat ≤ 255)
      ∧ v.flapLimit.toNat ≤ 15 ∧ v.attnMask.toNat ≤ 0x01FF := by
  simp only [Settings.inRange, allSettings, List.cons_append, List.nil_append, List.all_cons, List.all_nil, SettingId.inRange,
    Bool.and_true, Bool.true_and, Bool.and_eq_true, Bool.or_eq_true, decide_eq_true_eq, beq_iff_eq]
  exact Iff.rfl

/-- A pair's ATTACHED NODE does not clash with NODE (R5, R6). -/
theorem Settings.nodeClash_false (v : Settings) (k : Pair) : v.nodeClash k = false ↔ v.attached k = 0 ∨ v.attached k ≠ v.node := by
  simp only [Settings.nodeClash, Bool.and_eq_false_iff, bne_eq_false_iff_eq, beq_eq_false_iff_ne]

/-- The two ATTACHED NODE values do not clash, or no pair is enabled (R6, R122). -/
theorem Settings.pairClash_false (v : Settings) : v.pairClash = false ↔
    v.attachedNode0 = 0 ∨ v.attachedNode0 ≠ v.attachedNode1 ∨ (v.pairEnable.getLsbD 0 = false ∧ v.pairEnable.getLsbD 1 = false) := by
  simp only [Settings.pairClash, Settings.pairEnabled, Pair.index, Bool.and_eq_false_iff, bne_eq_false_iff_eq, beq_eq_false_iff_ne,
    Bool.or_eq_false_iff, or_assoc]

/-- A settings block passes in three parts: the ranges, NODE against each pair, and the pairs against each other (R172). -/
theorem Settings.blockPasses_iff (v : Settings) : v.blockPasses = true ↔
    v.inRange = true ∧ v.nodeClash .pair0 = false ∧ v.nodeClash .pair1 = false ∧ v.pairClash = false := by
  simp only [Settings.blockPasses, Settings.inRange, Bool.and_eq_true, Bool.not_eq_true', and_assoc]

/-! ## The checksum transfer (R171, R172) -/

/-- The checksum of an image stands in its last two bytes, after the bytes it is made over (R172). -/
theorem checksumPasses_iff (image checksum : List Byte) (h : checksum.length = 2) :
    checksumPasses (image ++ checksum) = true ↔ onesSum image = wordAt checksum 0 := by
  have hlength : (image ++ checksum).length - 2 = image.length := by rw [List.length_append, h]; omega
  have hbyte (i : Nat) : byteAt (image ++ checksum) (image.length + i) = byteAt checksum i := by
    rw [byteAt, List.getD_eq_getElem?_getD, List.getElem?_append_right (Nat.le_add_right _ _), Nat.add_sub_cancel_left,
      ← List.getD_eq_getElem?_getD, byteAt]
  have hword : wordAt (image ++ checksum) image.length = wordAt checksum 0 := by
    rw [wordAt, hbyte 1]
    exact congrArg (wordOf · (byteAt checksum 1)) (hbyte 0)
  rw [checksumPasses, hlength, List.take_left' rfl, hword, beq_iff_eq]

/-- The state in which a part's bytes have come and are judged (R171, R172). -/
def State.withPart (s : State) (bytes : List Byte) : State :=
  s.modLoader (fun l =>
    { l with
      tries := l.tried, retrying := false, store := l.store ++ bytes
      busOut := readItems (partAddress l.store) bytes.length })

theorem exec_checksumTransfer {s : State} {bytes : List Byte} (hl : s.loader.state = .reading) (hr : s.resetHeld = false)
    (hp : partSize s.loader.store = 2) (hb : bytes.length = 2) :
    exec (.transfer (.acknowledged bytes)) s = .next (
      if checksumPasses (s.loader.store ++ bytes) && (blockSettings (s.loader.store ++ bytes)).blockPasses then
        (s.withPart bytes).applyImage (s.loader.store ++ bytes)
      else (s.withPart bytes).failLoad) := by
  have hreading : s.reading = true := by rw [State.reading, hl, hr]; rfl
  show Host.Outcome.next (if s.reading then s.transferOutcome (.acknowledged bytes) else s) = _
  rw [hreading, if_pos rfl, State.transferOutcome, if_pos (hb.trans hp.symm), State.goodTry, hp,
    ← State.withPart, State.judgePart, if_neg (by decide : ¬ 2 = 8), if_pos rfl]
  have hstore : (s.withPart bytes).loader.store = s.loader.store ++ bytes := rfl
  rw [hstore]

/-! ## The end of a load (R93, R132, R175, R176) -/

/-- What the end of a load leaves, however it came out, of the state `u` it ends in: READY, LOADED, the sweep and the probe unit
started (R79, R93, R132, R175). -/
theorem State.endLoad_started (u : State) (outcome : LoadState) (ho : outcome = .loaded ∨ outcome = .failed) :
    let t := u.endLoad outcome
    t.ready = true ∧ t.flag .loaded = true ∧ t.loader = { u.loader with state := outcome } ∧ t.settings = u.settings ∧ t.table = u.table
      ∧ t.ports = u.ports
      ∧ (t.sweep.periodStart = u.bayClock ∧ t.sweep.periodLength = t.settings.sweepLength ∧ t.sweep.position ≤ 512
        ∧ (t.sweep.position < 512 → t.settings.masked t.sweep.position = false)
        ∧ ∀ k, k < t.sweep.position → t.settings.masked k = true)
      ∧ t.probe.boundary = some (u.bayClock + milliseconds t.settings.probeInterval)
      ∧ (t.settings.node ≠ 0 → t.probe.missA = 15 ∧ t.probe.missB = 15)
      ∧ t.probe.returns = u.probe.returns
      ∧ (t.settings.probeMissLimit.toNat ≤ 15 → t.probe.ring = if t.settings.node = 0 then .noRing else .isOpen) := by
  obtain ⟨heq, hloaded, hboundary, hmiss, hreturns, hring⟩ := u.endLoad_eq outcome
  intro t
  have ht : u.endLoad outcome = t := rfl
  rw [ht] at heq hloaded hboundary hmiss hreturns hring
  clear_value t
  have hsettings : t.settings = u.settings := by rw [heq]
  have hloader : t.loader = { u.loader with state := outcome } := by rw [heq]
  have hsweep : t.sweep = u.sweepAtStart := by rw [heq]
  have htable : t.table = u.table := by rw [heq]
  have hports : t.ports = u.ports := by rw [heq]
  obtain ⟨-, hposition, hclaimed, hpassed⟩ := u.settings.nextVisit_spec (Nat.zero_le 512)
  have hready : t.ready = true := by
    rw [State.ready, hloader]
    rcases ho with rfl | rfl <;> rfl
  rw [hsettings, hsweep]
  exact ⟨hready, hloaded, hloader, rfl, htable, hports,
    ⟨rfl, rfl, hposition, hclaimed, fun k hk => hpassed k (Nat.zero_le k) hk⟩, hboundary, hmiss, hreturns, hring⟩

/-- What a load's end leaves beside its outcome, as seen from the state `s` its last part came in: `u` is the state it ends in. -/
theorem State.load_started (s u : State) (outcome : LoadState) (ho : outcome = .loaded ∨ outcome = .failed)
    (hclock : u.bayClock = s.bayClock) (hreturns : u.probe.returns = s.probe.returns) :
    let t := u.endLoad outcome
    (t.sweep.periodStart = s.bayClock ∧ t.sweep.periodLength = t.settings.sweepLength ∧ t.sweep.position ≤ 512
        ∧ (t.sweep.position < 512 → t.settings.masked t.sweep.position = false)
        ∧ ∀ k, k < t.sweep.position → t.settings.masked k = true)
      ∧ t.probe.boundary = some (s.bayClock + milliseconds t.settings.probeInterval)
      ∧ (t.settings.node ≠ 0 → t.probe.missA = 15 ∧ t.probe.missB = 15)
      ∧ t.probe.answeredA = s.probe.answeredA ∧ t.probe.answeredB = s.probe.answeredB ∧ t.probe.serials = s.probe.serials
      ∧ (t.settings.probeMissLimit.toNat ≤ 15 → t.probe.ring = if t.settings.node = 0 then .noRing else .isOpen) := by
  obtain ⟨-, -, -, -, -, -, hsweep, hboundary, hmiss, hreturns', hring⟩ := u.endLoad_started outcome ho
  rw [hclock] at hsweep hboundary
  obtain ⟨ha, hb, hs⟩ := Prod.mk.inj (hreturns'.trans hreturns) |>.imp_right Prod.mk.inj
  exact ⟨hsweep, hboundary, hmiss, ha, hb, hs, hring⟩

/-- The state in which an image's settings stand and its standing records are installed next (R173, R174). -/
def State.applying (s : State) (store : List Byte) : State :=
  { s with
    loader := { s.loader with state := .applying }
    settings := s.settings.applyBlock (blockSettings store) s.loader.afterFullReset }

/-- The state an image's load ends in: settings, standing records, freeze bits, ports (R173 to R175). -/
def State.imageApplied (s : State) (store : List Byte) : State :=
  (((s.applying store).installAll store).addFreeze (blockSettings store).freeze).turnOnAll (enabledPorts (portEnableWord store))

theorem State.applyImage_eq (s : State) (store : List Byte) : s.applyImage store = (s.imageApplied store).endLoad .loaded := rfl

/-- What an image has reached before the ports are turned on: the settings, the table and the loader (R173, R174). -/
def State.imageStored (s : State) (store : List Byte) : State :=
  { s with
    settings := { s.settings.applyBlock (blockSettings store) s.loader.afterFullReset with
      freeze := s.settings.freeze ||| (blockSettings store).freeze }
    table := ((s.applying store).installAll store).table
    loader := { s.loader with state := .applying, skipped := ((s.applying store).installAll store).loader.skipped } }

theorem State.imageApplied_moves (s : State) (store : List Byte) : (s.imageStored store).onlyPortsMove (s.imageApplied store) := by
  have hmoves := State.turnOnAll_moves (enabledPorts (portEnableWord store))
    (((s.applying store).installAll store).addFreeze (blockSettings store).freeze)
  rw [State.installAll_moves] at hmoves
  have happlied : s.imageApplied store = State.turnOnAll (State.addFreeze ((s.applying store).installAll store)
    (blockSettings store).freeze) (enabledPorts (portEnableWord store)) := rfl
  rw [State.installAll_moves] at happlied
  rw [happlied]
  exact hmoves

/-- Each OFF port the enable word names goes UP or DOWN by its mark, and any other OFF port stays OFF (R175). -/
theorem State.imageApplied_ports (s : State) (store : List Byte) (p : Port) (ho : (s.port p).state = .off) :
    ((s.imageApplied store).port p).state =
      if (portEnableWord store).getLsbD (enableBit p) then (if (s.port p).signal then .up else .down) else .off := by
  obtain ⟨hnodup, hmem⟩ := enabledPorts_spec (portEnableWord store)
  have hport : (((s.applying store).installAll store).addFreeze (blockSettings store).freeze).port p = s.port p := by
    rw [State.installAll_moves]; rfl
  unfold State.imageApplied
  by_cases hin : p ∈ enabledPorts (portEnableWord store)
  · rw [State.turnOnAll_state _ hnodup hin _ (by rw [hport]; exact ho), hport, if_pos ((hmem p).mp hin)]
    rfl
  · rw [State.turnOnAll_port_other _ hin, hport, if_neg (mt (hmem p).mpr hin)]
    exact ho

/-- A failed load's ONs reach no setting, no record and no return of the probe unit (R176). -/
theorem State.failLoad_eq (s : State) : s.failLoad = (s.turnOnAll [.lane .a, .lane .b]).endLoad .failed := rfl

/-- An image that passes ends its load LOADED, with its settings, its standing records and its ports (R173 to R175). -/
theorem State.applyImage_applied (s : State) (store : List Byte) :
    let t := s.applyImage store
    t.loader.state = .loaded
      ∧ t.settings = { s.settings.applyBlock (blockSettings store) s.loader.afterFullReset with
          freeze := s.settings.freeze ||| (blockSettings store).freeze }
      ∧ t.table = ((s.applying store).installAll store).table
      ∧ t.loader.skipped = ((s.applying store).installAll store).loader.skipped
      ∧ (∀ p, (s.port p).state = .off → (t.port p).state =
          if (portEnableWord store).getLsbD (enableBit p) then (if (s.port p).signal then .up else .down) else .off) := by
  obtain ⟨-, -, hloader, hsettings, htable, hports, -⟩ := (s.imageApplied store).endLoad_started .loaded (.inl rfl)
  have hmoves := s.imageApplied_moves store
  have hsettings' := State.onlyPortsMove_settings hmoves
  have htable' := State.onlyPortsMove_table hmoves
  have hloader' := State.onlyPortsMove_loader hmoves
  rw [s.applyImage_eq]
  refine ⟨by rw [hloader], hsettings.trans hsettings', htable.trans htable', ?_, fun p ho => ?_⟩
  · rw [hloader, hloader']; rfl
  · rw [State.port, hports]
    exact s.imageApplied_ports store p ho

/-- A load that fails keeps the settings and the table (R176). -/
theorem State.failLoad_failed (s : State) :
    s.failLoad.loader.state = .failed ∧ s.failLoad.settings = s.settings ∧ s.failLoad.table = s.table := by
  have hmoves := State.turnOnAll_moves [.lane .a, .lane .b] s
  obtain ⟨-, -, hloader, hsettings, htable, -⟩ := (s.turnOnAll [.lane .a, .lane .b]).endLoad_started .failed (.inr rfl)
  rw [s.failLoad_eq]
  exact ⟨by rw [hloader], hsettings.trans (State.onlyPortsMove_settings hmoves), htable.trans (State.onlyPortsMove_table hmoves)⟩

/-- An image leaves the bay clock, and the probe unit's returns, as they were (R173 to R175). -/
theorem State.imageApplied_clock (s : State) (store : List Byte) :
    (s.imageApplied store).bayClock = s.bayClock ∧ (s.imageApplied store).probe.returns = s.probe.returns := by
  have hclock := State.onlyPortsMove_bayClock (s.imageApplied_moves store)
  refine ⟨hclock, ?_⟩
  unfold State.imageApplied
  rw [State.turnOnAll_returns, State.installAll_moves]
  rfl

/-- Settles O8, from the judgement of the whole image, what an applied and a failed load leave, and what every load's end starts. -/
theorem checksumTransferAppliesTheImageOrFails : Obligations.ChecksumTransferAppliesTheImageOrFails := by
  constructor
  · intro s bytes hl hr hp hb store value block enabled applied
    have hexec := exec_checksumTransfer hl hr hp hb
    have hpasses : (checksumPasses store && block.blockPasses) = true ↔
        onesSum s.loader.store = wordAt bytes 0 ∧ block.blockPasses = true := by
      rw [Bool.and_eq_true, checksumPasses_iff _ _ hb]
    by_cases hjudged : (checksumPasses store && block.blockPasses) = true
    · obtain ⟨hstate, hsettings, htable, hskipped, hports⟩ := (s.withPart bytes).applyImage_applied store
      obtain ⟨hready, hloaded, -⟩ := ((s.withPart bytes).imageApplied store).endLoad_started .loaded (.inl rfl)
      obtain ⟨hclock, hreturns⟩ := (s.withPart bytes).imageApplied_clock store
      refine ⟨(s.withPart bytes).applyImage store, hexec.trans (congrArg _ (if_pos hjudged)), hready, hloaded, fun _ _ => ?_,
        fun hnot => absurd (hpasses.mp hjudged) hnot,
        State.load_started s ((s.withPart bytes).imageApplied store) .loaded (.inl rfl) hclock hreturns⟩
      refine ⟨hstate, hsettings, ⟨(s.withPart bytes).applying store, rfl, rfl, rfl, htable, hskipped⟩, fun p ho => ?_⟩
      rw [hports p ho]
      rcases p with l | q
      · cases l <;> rfl
      · cases q <;> rfl
    · have hclock := State.onlyPortsMove_bayClock (State.turnOnAll_moves [.lane .a, .lane .b] (s.withPart bytes))
      obtain ⟨hready, hloaded, -⟩ := ((s.withPart bytes).turnOnAll [.lane .a, .lane .b]).endLoad_started .failed (.inr rfl)
      exact ⟨(s.withPart bytes).failLoad, hexec.trans (congrArg _ (if_neg hjudged)), hready, hloaded,
        fun hsum hblock => absurd (hpasses.mpr ⟨hsum, hblock⟩) hjudged, fun _ => (s.withPart bytes).failLoad_failed,
        State.load_started s ((s.withPart bytes).turnOnAll [.lane .a, .lane .b]) .failed (.inr rfl)
          hclock (State.turnOnAll_returns _ _)⟩
  · intro v
    rw [v.blockPasses_iff, v.inRange_iff, v.nodeClash_false, v.nodeClash_false, v.pairClash_false]
    exact Iff.rfl

end Sys2Proof.Machine
end

section
namespace Sys2Proof.Machine

/-! ## The fields that the laws of settings, roster, buffers and sweep speak of -/

/-- What SettingsLaw, RosterLaw, BufferLaw and SweepLaw read of a state. -/
structure Watched where
  settings : Settings
  roster : List (Nat × RosterEntry)
  serials : List Word
  staging : List Byte
  frontView : List Byte
  backView : List Byte
  cursor : Nat
  position : Nat
  notices : List Nat

def State.watched (s : State) : Watched :=
  { settings := s.settings, roster := s.probe.roster, serials := s.probe.serials, staging := s.staging, frontView := s.frontView
    backView := s.backView, cursor := s.cursor, position := s.sweep.position, notices := s.notices }

/-- Each of the four laws that holds of the one state holds of the other. -/
def State.keepsLaws (s t : State) : Prop :=
  (SettingsLaw s → SettingsLaw t) ∧ (RosterLaw s → RosterLaw t) ∧ (BufferLaw s → BufferLaw t) ∧ (SweepLaw s → SweepLaw t)

theorem State.keepsLaws_refl (s : State) : s.keepsLaws s := ⟨id, id, id, id⟩

theorem State.keepsLaws_trans {s t u : State} (h : s.keepsLaws t) (k : t.keepsLaws u) : s.keepsLaws u := by
  obtain ⟨h1, h2, h3, h4⟩ := h
  obtain ⟨k1, k2, k3, k4⟩ := k
  exact ⟨k1 ∘ h1, k2 ∘ h2, k3 ∘ h3, k4 ∘ h4⟩

/-- The laws read the watched fields alone, each its own. -/
theorem settingsLaw_congr {s t : State} (h : t.settings = s.settings) : SettingsLaw s → SettingsLaw t := by
  unfold SettingsLaw
  rw [h]
  exact id

theorem rosterLaw_congr {s t : State} (hr : t.probe.roster = s.probe.roster) (hs : t.probe.serials = s.probe.serials) :
    RosterLaw s → RosterLaw t := by
  unfold RosterLaw
  rw [hr, hs]
  exact id

theorem bufferLaw_congr {s t : State} (hs : t.staging = s.staging) (hf : t.frontView = s.frontView) (hb : t.backView = s.backView)
    (hc : t.cursor = s.cursor) : BufferLaw s → BufferLaw t := by
  unfold BufferLaw
  rw [hs, hf, hb, hc]
  exact id

theorem sweepLaw_congr {s t : State} (hp : t.sweep.position = s.sweep.position) (hn : t.notices = s.notices) : SweepLaw s → SweepLaw t := by
  unfold SweepLaw
  rw [hp, hn]
  exact id

/-- A change of the settings alone among the watched fields. -/
theorem State.keepsLaws_of_settings {s t : State} (h : t.watched = { s.watched with settings := t.settings })
    (hl : SettingsLaw s → SettingsLaw t) : s.keepsLaws t :=
  ⟨hl, rosterLaw_congr (congrArg Watched.roster h) (congrArg Watched.serials h),
    bufferLaw_congr (congrArg Watched.staging h) (congrArg Watched.frontView h) (congrArg Watched.backView h) (congrArg Watched.cursor h),
    sweepLaw_congr (congrArg Watched.position h) (congrArg Watched.notices h)⟩

/-- A change of the roster and the serial list alone among the watched fields. -/
theorem State.keepsLaws_of_roster {s t : State} (h : t.watched = { s.watched with roster := t.probe.roster, serials := t.probe.serials })
    (hl : RosterLaw s → RosterLaw t) : s.keepsLaws t :=
  ⟨settingsLaw_congr (congrArg Watched.settings h), hl,
    bufferLaw_congr (congrArg Watched.staging h) (congrArg Watched.frontView h) (congrArg Watched.backView h) (congrArg Watched.cursor h),
    sweepLaw_congr (congrArg Watched.position h) (congrArg Watched.notices h)⟩

/-- A change of the staging record, the views and the cursor alone among the watched fields. -/
theorem State.keepsLaws_of_buffers {s t : State}
    (h : t.watched = { s.watched with staging := t.staging, frontView := t.frontView, backView := t.backView, cursor := t.cursor })
    (hl : BufferLaw s → BufferLaw t) : s.keepsLaws t :=
  ⟨settingsLaw_congr (congrArg Watched.settings h), rosterLaw_congr (congrArg Watched.roster h) (congrArg Watched.serials h), hl,
    sweepLaw_congr (congrArg Watched.position h) (congrArg Watched.notices h)⟩

/-- A change of the sweep's position and the notices alone among the watched fields. -/
theorem State.keepsLaws_of_sweep {s t : State} (h : t.watched = { s.watched with position := t.sweep.position, notices := t.notices })
    (hl : SweepLaw s → SweepLaw t) : s.keepsLaws t :=
  ⟨settingsLaw_congr (congrArg Watched.settings h), rosterLaw_congr (congrArg Watched.roster h) (congrArg Watched.serials h),
    bufferLaw_congr (congrArg Watched.staging h) (congrArg Watched.frontView h) (congrArg Watched.backView h) (congrArg Watched.cursor h),
    hl⟩

/-- A change of the notices alone that lists no handle twice. -/
theorem State.keepsLaws_of_notices {s t : State} (h : t.watched = { s.watched with notices := t.notices })
    (hn : s.notices.Nodup → t.notices.Nodup) : s.keepsLaws t := by
  have hposition : t.sweep.position = s.sweep.position := congrArg Watched.position h
  refine State.keepsLaws_of_sweep (by rw [hposition]; exact h) (fun hs => ?_)
  obtain ⟨hp, hl⟩ := hs
  exact ⟨hposition ▸ hp, hn hl⟩

/-- A change that leaves the watched fields keeps the laws. -/
theorem State.keepsLaws_of_watched {s t : State} (h : t.watched = s.watched) : s.keepsLaws t := by
  have hnotices : t.notices = s.notices := congrArg Watched.notices h
  exact State.keepsLaws_of_notices (by rw [h, hnotices]; rfl) (by rw [hnotices]; exact id)

/-! ## Updates that leave the watched fields -/

@[simp] theorem State.watched_raise (s : State) (f : Flag) : (s.raise f).watched = s.watched := rfl
@[simp] theorem State.watched_raiseIf (s : State) (c : Bool) (f : Flag) : (s.raiseIf c f).watched = s.watched := by cases c <;> rfl
@[simp] theorem State.watched_modPort (s : State) (p : Port) (g : PortUnit → PortUnit) : (s.modPort p g).watched = s.watched := rfl
@[simp] theorem State.watched_count (s : State) (p : Port) (g : PortCounters → PortCounters) : (s.count p g).watched = s.watched := rfl
@[simp] theorem State.watched_modProving (s : State) (l : Lane) (g : ProvingRecord → ProvingRecord) :
    (s.modProving l g).watched = s.watched := rfl
@[simp] theorem State.watched_putRecord (s : State) (h : Nat) (r : Record) : (s.putRecord h r).watched = s.watched := rfl
@[simp] theorem State.watched_settleFrame (s : State) (p : Port) : (s.settleFrame p).watched = s.watched := rfl
@[simp] theorem State.watched_discard (s : State) (p : Port) (g : PortCounters → PortCounters) : (s.discard p g).watched = s.watched := rfl
@[simp] theorem State.watched_claimTable (s : State) (p : Port) (c : IntakeClaim) : (s.claimTable p c).watched = s.watched := rfl
@[simp] theorem State.watched_rotate (s : State) (p : Port) : (s.rotate p).watched = s.watched := rfl
@[simp] theorem State.watched_endInHand (s : State) : s.endInHand.watched = s.watched := rfl
@[simp] theorem State.watched_modLoader (s : State) (g : Loader → Loader) : (s.modLoader g).watched = s.watched := rfl
@[simp] theorem State.watched_serve (s : State) (p : Port) : (s.serve p).watched = s.watched := rfl
@[simp] theorem State.watched_judgeRing (s : State) : s.judgeRing.watched = s.watched := by rw [State.judgeRing_eq]; rfl

theorem State.watched_traffic {s t : State} (h : s.onlyTrafficMoves t) : t.watched = s.watched := by
  unfold State.onlyTrafficMoves at h
  rw [h]
  rfl

@[simp] theorem State.watched_request (s : State) (frame : List Byte) (cls : DataClass) (copies : List Copy) (blame : List Port) :
    (s.requestAdmission frame cls copies blame).1.watched = s.watched := State.watched_traffic (s.requestAdmission_traffic _ _ _ _)

@[simp] theorem State.watched_sendTransit (s : State) (l : Lane) (frame : List Byte) : (s.sendTransit l frame).watched = s.watched :=
  s.watched_request _ _ _ _

@[simp] theorem State.watched_handleArrival (s : State) (h : Nat) (p : Port) (f : RxFrame) (always own : List Copy) :
    (s.handleArrival h p f always own).watched = s.watched := by
  rw [State.handleArrival_moves]
  rfl

@[simp] theorem State.watched_laneMoved (s : State) (old new : PortState) : (s.laneMoved old new).watched = s.watched := by
  have hdistrust : (s.modProbe ProbeUnit.distrust).watched = s.watched := rfl
  unfold State.laneMoved
  dsimp only
  split
  · rfl
  · split <;> split <;> simp [hdistrust]

@[simp] theorem State.watched_sendProving (s : State) (l : Lane) : (s.sendProving l).watched = s.watched := by
  rw [State.sendProving, State.watched_modProving, State.watched_request]

/-! ## Copies that leave, and ports that change (R30, R115, R155) -/

/-- A notice joins the list once (R30). -/
theorem State.sendNotice_keeps (s : State) (h : Nat) : s.keepsLaws (s.sendNotice h) := by
  refine State.keepsLaws_of_notices (by rw [State.sendNotice_eq]; rfl) (fun hn => ?_)
  unfold State.sendNotice
  split
  · exact hn
  · rename_i hnew
    refine List.nodup_append.mpr ⟨hn, List.pairwise_singleton _ h, fun a ha b hb => ?_⟩
    rw [List.mem_singleton.mp hb]
    rintro rfl
    exact hnew (List.contains_iff_mem.mpr ha)

theorem State.tallyDown_keeps (s : State) (h : Nat) : s.keepsLaws (s.tallyDown h) := by
  have hput : s.keepsLaws (s.putTally h (s.tally h - 1)) := State.keepsLaws_of_watched rfl
  unfold State.tallyDown
  dsimp only
  split
  · exact State.keepsLaws_trans hput (State.sendNotice_keeps _ h)
  · exact hput

theorem State.releaseCopy_keeps (s : State) (d : Descriptor) : s.keepsLaws (s.releaseCopy d) := by
  have hpool : s.keepsLaws { s with pool := releaseFrame s.pool d.frame } := State.keepsLaws_of_watched rfl
  unfold State.releaseCopy
  dsimp only
  split
  · exact State.keepsLaws_trans hpool (State.tallyDown_keeps _ _)
  · exact hpool

/-- Copies that leave one after another keep the laws. -/
theorem State.releaseAll_keeps (ds : List Descriptor) (s : State) : s.keepsLaws (ds.foldl State.releaseCopy s) := by
  induction ds generalizing s with
  | nil => exact s.keepsLaws_refl
  | cons d ds ih => exact State.keepsLaws_trans (s.releaseCopy_keeps d) (ih _)

theorem State.flush_keeps (s : State) (p : Port) : s.keepsLaws (s.flush p) := by
  unfold State.flush
  dsimp only
  exact State.keepsLaws_trans (State.keepsLaws_of_watched (s.watched_modPort p _)) (State.releaseAll_keeps _ _)

theorem State.enterState_keeps (s : State) (p : Port) (new : PortState) : s.keepsLaws (s.enterState p new) := by
  have hflush : s.keepsLaws (s.flushIfInService p) := by
    unfold State.flushIfInService
    split
    · exact s.flush_keeps p
    · exact s.keepsLaws_refl
  refine State.keepsLaws_trans hflush (State.keepsLaws_of_watched ?_)
  unfold State.enterState
  cases p with
  | lane l => simp
  | bay q => simp

theorem State.movePort_keeps (s : State) (p : Port) (new : PortState) : s.keepsLaws (s.movePort p new) := by
  unfold State.movePort
  split
  · exact s.keepsLaws_refl
  · exact s.enterState_keeps p new

/-- A change of a port's unit after a change that keeps the laws keeps them too. -/
theorem State.keepsLaws_modPort {s t : State} (h : s.keepsLaws t) (p : Port) (g : PortUnit → PortUnit) : s.keepsLaws (t.modPort p g) :=
  State.keepsLaws_trans h (State.keepsLaws_of_watched rfl)

theorem State.linkPresent_keeps (s : State) (p : Port) : s.keepsLaws (s.linkPresent p) := by
  have hsignal := State.keepsLaws_modPort s.keepsLaws_refl p (fun u => { u with signal := true })
  unfold State.linkPresent
  dsimp only
  split
  · exact State.keepsLaws_trans hsignal (State.movePort_keeps _ _ _)
  · exact hsignal

theorem State.linkLost_keeps (s : State) (p : Port) : s.keepsLaws (s.linkLost p) := by
  have hsignal := State.keepsLaws_modPort s.keepsLaws_refl p (fun u => { u with signal := false })
  unfold State.linkLost
  dsimp only
  split
  · exact State.keepsLaws_trans hsignal (State.keepsLaws_modPort (State.movePort_keeps _ _ _) _ _)
  · exact State.keepsLaws_trans hsignal (State.movePort_keeps _ _ _)
  all_goals exact hsignal

/-! ## Port commands (R116) -/

theorem State.commandOn_keeps (s : State) (p : Port) : s.keepsLaws (s.commandOn p).1 := by
  unfold State.commandOn
  split
  · exact s.movePort_keeps _ _
  all_goals exact s.keepsLaws_refl

theorem State.commandOff_keeps (s : State) (p : Port) : s.keepsLaws (s.commandOff p).1 := by
  unfold State.commandOff
  split
  · exact s.keepsLaws_refl
  all_goals exact State.keepsLaws_modPort (s.movePort_keeps _ _) _ _

theorem State.commandReinstate_keeps (s : State) (p : Port) : s.keepsLaws (s.commandReinstate p).1 := by
  unfold State.commandReinstate
  split
  case h_5 => exact State.keepsLaws_modPort (s.movePort_keeps _ _) _ _
  all_goals exact s.keepsLaws_refl

theorem State.commandProve_keeps (s : State) (p : Port) : s.keepsLaws (s.commandProve p).1 := by
  unfold State.commandProve
  split
  · exact s.keepsLaws_refl
  · rename_i l
    split
    · refine State.keepsLaws_trans (t := s.movePort (.lane l) .proving) (s.movePort_keeps _ _) (State.keepsLaws_of_watched ?_)
      rw [State.beginProving, State.watched_sendProving, State.watched_modProving]
    · exact s.keepsLaws_refl

theorem State.commandEndProve_keeps (s : State) (p : Port) : s.keepsLaws (s.commandEndProve p).1 := by
  unfold State.commandEndProve
  split
  · exact s.keepsLaws_refl
  · split
    · exact s.movePort_keeps _ _
    · exact s.keepsLaws_refl

theorem State.portCommand_keeps (s : State) (n : Byte) (action : State → Port → State × Result)
    (h : ∀ p, s.keepsLaws (action s p).1) : s.keepsLaws (s.portCommand n action).1 := by
  unfold State.portCommand
  split
  · exact h _
  · exact s.keepsLaws_refl

end Sys2Proof.Machine
end

section
namespace Sys2Proof.Machine

/-! ## The roster and the serial list (R131, R133, R140 to R142) -/

/-- An entry of a number in 1 to 60 that takes a value keeps the roster's form (R140). -/
theorem State.putRoster_keeps (s : State) (k : Nat) (e : RosterEntry) (hk : 1 ≤ k ∧ k ≤ 60) : s.keepsLaws (s.putRoster k e) := by
  refine State.keepsLaws_of_roster rfl (fun hl => ?_)
  obtain ⟨hwf, hkeys, hserials⟩ := hl
  refine ⟨Sparse.wf_put _ _ _ _ hwf, fun x hx => ?_, hserials⟩
  rcases (Sparse.mem_put _ _ _ _ x).mp hx with ⟨rfl, -⟩ | ⟨hm, -⟩
  · exact hk
  · exact hkeys x hm

theorem State.hearProbe_keeps (s : State) (l : Lane) (arrival : Time) (frame : List Byte) (hv : tagValid frame = true) :
    s.keepsLaws (s.hearProbe l arrival frame) := by
  obtain ⟨-, hlow, hhigh, -⟩ := (tagValid_iff frame).mp hv
  unfold State.hearProbe
  dsimp only
  split
  · exact State.keepsLaws_trans (s.putRoster_keeps _ _ ⟨hlow, hhigh⟩) (State.keepsLaws_of_watched (State.watched_raiseIf _ _ _))
  · exact s.keepsLaws_refl

/-- Ageing drops entries and renames none (R141). -/
theorem State.ageRoster_keeps (s : State) (now : Time) : s.keepsLaws (s.ageRoster now) := by
  refine State.keepsLaws_trans (t := s.modProbe _) (State.keepsLaws_of_roster rfl (fun hl => ?_))
    (State.keepsLaws_of_watched (State.watched_raiseIf _ _ _))
  obtain ⟨hwf, hkeys, hserials⟩ := hl
  obtain ⟨hrising, -⟩ := (Sparse.wf_iff _ _).mp hwf
  refine ⟨(Sparse.wf_iff _ _).mpr ⟨?_, fun e he => ?_⟩, fun e he => ?_, hserials⟩
  · exact List.Pairwise.sublist List.filter_sublist (List.Pairwise.map _ (fun _ _ h => h) hrising)
  · exact bne_iff_ne.mp (List.mem_filter.mp he).2
  · obtain ⟨x, hx, rfl⟩ := List.mem_map.mp (List.mem_filter.mp he).1
    exact hkeys x hx

theorem appendSerial_length (serials : List Word) (serial : Word) (h : serials.length ≤ 4) : (appendSerial serials serial).length ≤ 4 := by
  unfold appendSerial
  split <;> simp <;> omega

theorem State.sendProbe_keeps (s : State) (now : Time) : s.keepsLaws (s.sendProbe now) := by
  unfold State.sendProbe
  dsimp only
  refine State.keepsLaws_trans (t := s.modProbe _) (State.keepsLaws_of_roster rfl (fun hl => ?_))
    (State.keepsLaws_of_watched (State.watched_request _ _ _ _ _))
  obtain ⟨hwf, hkeys, hserials⟩ := hl
  exact ⟨hwf, hkeys, appendSerial_length _ _ hserials⟩

theorem State.probeBoundary_keeps (s : State) (due : Time) : s.keepsLaws (s.probeBoundary due) := by
  have hjudged : s.keepsLaws s.judgePeriod := State.keepsLaws_of_watched rfl
  have hwork : s.keepsLaws (s.boundaryWork s.bayClock) := by
    unfold State.boundaryWork
    split
    · exact s.ageRoster_keeps _
    · exact State.keepsLaws_trans (State.keepsLaws_trans hjudged (State.ageRoster_keeps _ _))
        (State.keepsLaws_trans (State.keepsLaws_of_watched (State.watched_judgeRing _)) (State.sendProbe_keeps _ _))
  exact State.keepsLaws_trans hwork (State.keepsLaws_of_watched rfl)

/-- A restart empties the serial list and drops at most one entry (R142). -/
theorem State.restartProbes_keeps (s : State) : s.keepsLaws s.restartProbes := by
  obtain ⟨heq, -⟩ := s.restartProbes_eq
  refine State.keepsLaws_of_roster (by rw [heq]; rfl) (fun hl => ?_)
  obtain ⟨hwf, hkeys, -⟩ := hl
  have hroster : s.restartProbes.probe.roster = s.unitRestarted.roster := by rw [heq]
  have hserials : s.restartProbes.probe.serials = [] := by rw [heq]; rfl
  have hunit : s.unitRestarted.roster = s.probe.roster
      ∨ s.unitRestarted.roster = Sparse.put RosterEntry.absent s.probe.roster s.settings.node.toNat RosterEntry.absent := by
    unfold State.unitRestarted
    dsimp only
    split
    · exact .inl rfl
    · exact .inr rfl
  unfold RosterLaw
  rw [hroster, hserials]
  rcases hunit with hu | hu <;> rw [hu]
  · exact ⟨hwf, hkeys, Nat.zero_le 4⟩
  · refine ⟨Sparse.wf_put _ _ _ _ hwf, fun x hx => ?_, Nat.zero_le 4⟩
    rcases (Sparse.mem_put _ _ _ _ x).mp hx with ⟨-, hne⟩ | ⟨hm, -⟩
    · exact absurd rfl hne
    · exact hkeys x hm

/-! ## Writes of settings (R5, R6, R111, R122, R163) -/

theorem Settings.get_set (v : Settings) (n m : SettingId) (x : Word) : (v.set n x).get m = if m = n then x else v.get m := by
  cases n <;> cases m <;> rfl

/-- A setting that takes a value of its range leaves every setting in its range (R163). -/
theorem Settings.inRange_set {v : Settings} {n : SettingId} {x : Word} (hv : v.inRange = true) (hx : n.inRange x = true) :
    (v.set n x).inRange = true := by
  refine List.all_eq_true.mpr (fun m hm => ?_)
  rw [Settings.get_set]
  split
  · rename_i h
    rw [h]; exact hx
  · exact List.all_eq_true.mp hv m hm

/-- The own-origin set holds no number twice: each enabled pair's number against NODE, and the two pairs' against each other (R6). -/
theorem Settings.originsDistinct_iff (v : Settings) : v.originsDistinct = true ↔
    (∀ k, v.pairEnabled k = true → v.nodeClash k = false)
      ∧ (v.pairEnabled .pair0 = true → v.pairEnabled .pair1 = true → v.attachedNode0 = 0 ∨ v.attachedNode0 ≠ v.attachedNode1) := by
  have hpairs : (∀ k, v.pairEnabled k = true → v.nodeClash k = false) ↔
      (v.pairEnabled .pair0 = true → v.nodeClash .pair0 = false) ∧ (v.pairEnabled .pair1 = true → v.nodeClash .pair1 = false) :=
    ⟨fun h => ⟨h _, h _⟩, fun ⟨h0, h1⟩ k => by cases k with | pair0 => exact h0 | pair1 => exact h1⟩
  have himp (b c : Bool) : (b && c) = false ↔ (b = true → c = false) := by cases b <;> simp
  rw [hpairs]
  simp only [Settings.originsDistinct, Bool.and_eq_true, Bool.not_eq_true', himp, Bool.and_assoc, and_assoc, bne_iff_ne, beq_eq_false_iff_ne,
    Decidable.or_iff_not_imp_left, ne_eq]

/-- The settings that the own-origin set hangs on (R6). -/
def originSettings : List SettingId := [.node, .pairEnable, .attachedNode0, .attachedNode1]

theorem Settings.originsDistinct_set (v : Settings) {n : SettingId} (x : Word) (hn : n ∉ originSettings) :
    (v.set n x).originsDistinct = v.originsDistinct := by
  cases n with
  | node | pairEnable | attachedNode0 | attachedNode1 => exact absurd (by decide) hn
  | _ => rfl

/-- A setting outside the own-origin set that takes a value of its range keeps the laws (R163). -/
theorem State.putSetting_keeps (s : State) {n : SettingId} {x : Word} (hn : n ∉ originSettings)
    (hx : SettingsLaw s → n.inRange x = true) : s.keepsLaws (s.putSetting n x) := by
  refine State.keepsLaws_of_settings rfl (fun hl => ?_)
  have hx := hx hl
  obtain ⟨hrange, hdistinct⟩ := hl
  exact ⟨Settings.inRange_set hrange hx, (s.settings.originsDistinct_set x hn).trans hdistinct⟩

theorem State.writePlain_keeps (s : State) {n : SettingId} (x : Word) (hn : n ∉ originSettings) : s.keepsLaws (s.writePlain n x).1 := by
  unfold State.writePlain
  split
  · rename_i hx
    exact s.putSetting_keeps hn (fun _ => hx)
  · exact s.keepsLaws_refl

/-- Bits of the low byte, put together, stay in the low byte (R111). -/
theorem freeze_or_inRange {x y : Word} (hx : SettingId.freeze.inRange x = true) (hy : SettingId.freeze.inRange y = true) :
    SettingId.freeze.inRange (x ||| y) = true := by
  have hx : x.toNat ≤ 0xFF := of_decide_eq_true hx
  have hy : y.toNat ≤ 0xFF := of_decide_eq_true hy
  refine decide_eq_true (Nat.le_of_lt_succ ?_)
  rw [BitVec.toNat_or]
  exact Nat.or_lt_two_pow (n := 8) (Nat.lt_succ_of_le hx) (Nat.lt_succ_of_le hy)

theorem State.writeFreeze_keeps (s : State) (x : Word) : s.keepsLaws (s.writeFreeze x).1 := by
  unfold State.writeFreeze
  split
  · exact s.keepsLaws_refl
  · rename_i hx
    refine s.putSetting_keeps (by decide) (fun hl => freeze_or_inRange ?_ (decide_eq_true (Nat.not_lt.mp hx)))
    exact List.all_eq_true.mp hl.1 .freeze (by decide)

theorem State.writeMissLimit_keeps (s : State) (x : Word) : s.keepsLaws (s.writeMissLimit x).1 := by
  unfold State.writeMissLimit
  split
  · rename_i hx
    exact State.keepsLaws_trans (s.putSetting_keeps (by decide) (fun _ => hx)) (State.keepsLaws_of_watched (State.watched_judgeRing _))
  · exact s.keepsLaws_refl

/-- A NODE that passes R5 is on no enabled pair's ATTACHED NODE (R6). -/
theorem State.writeNode_keeps (s : State) (x : Word) : s.keepsLaws (s.writeNode x).1 := by
  unfold State.writeNode
  split
  · exact s.keepsLaws_refl
  split
  · exact s.keepsLaws_refl
  split
  · exact s.keepsLaws_refl
  rename_i hrange hclash
  refine State.keepsLaws_trans (State.keepsLaws_of_settings (t := s.putSetting .node x) rfl (fun hl => ?_)) (State.restartProbes_keeps _)
  obtain ⟨hv, hdistinct⟩ := hl
  obtain ⟨-, hpairs⟩ := (Settings.originsDistinct_iff _).mp hdistinct
  refine ⟨Settings.inRange_set hv (decide_eq_true (Nat.not_lt.mp hrange)), (Settings.originsDistinct_iff _).mpr ⟨fun k hk => ?_, hpairs⟩⟩
  have hfree : s.settings.clashesWithPair k x = false := by
    obtain ⟨h0, h1⟩ := Bool.or_eq_false_iff.mp (Bool.eq_false_iff.mpr hclash)
    cases k with
    | pair0 => exact h0
    | pair1 => exact h1
  have hattached : (s.putSetting .node x).settings.attached k = s.settings.attached k := by cases k <;> rfl
  refine (Settings.nodeClash_false _ k).mpr ?_
  rw [hattached, Decidable.or_iff_not_imp_left]
  intro hne heq
  have heq : s.settings.attached k = x := heq
  exact Bool.eq_false_iff.mp hfree ((s.settings.clashesWithPair_iff k x).mpr ⟨heq ▸ hne, hk, heq.symm⟩)

end Sys2Proof.Machine
end

section
namespace Sys2Proof.Machine

/-! ## Writes of the own-origin set's settings (R6, R122) -/

theorem attachedSetting_inRange (k : Pair) {x : Word} (hx : x.toNat ≤ 60) : (attachedSetting k).inRange x = true := by
  cases k <;> exact decide_eq_true hx

theorem Settings.attached_setAttached (v : Settings) (k : Pair) (x : Word) :
    (v.set (attachedSetting k) x).attached k = x ∧ (v.set (attachedSetting k) x).attached k.other = v.attached k.other := by
  cases k <;> exact ⟨rfl, rfl⟩

theorem Settings.pairEnabled_setAttached (v : Settings) (k : Pair) (x : Word) (j : Pair) :
    (v.set (attachedSetting k) x).pairEnabled j = v.pairEnabled j := by
  cases k <;> rfl

theorem Settings.node_setAttached (v : Settings) (k : Pair) (x : Word) : (v.set (attachedSetting k) x).node = v.node := by
  cases k <;> rfl

/-- The clash between the pairs, told from the side of either pair (R6). -/
theorem Settings.pairsDistinct_iff (v : Settings) (k : Pair) :
    (v.pairEnabled .pair0 = true → v.pairEnabled .pair1 = true → v.attachedNode0 = 0 ∨ v.attachedNode0 ≠ v.attachedNode1)
      ↔ (v.pairEnabled k = true → v.pairEnabled k.other = true → v.attached k = 0 ∨ v.attached k ≠ v.attached k.other) := by
  cases k with
  | pair0 => exact Iff.rfl
  | pair1 =>
    have hsymm : v.attachedNode0 = 0 ∨ v.attachedNode0 ≠ v.attachedNode1 ↔ v.attachedNode1 = 0 ∨ v.attachedNode1 ≠ v.attachedNode0 := by
      by_cases h : v.attachedNode0 = v.attachedNode1
      · rw [h]
      · exact iff_of_true (.inr h) (.inr (Ne.symm h))
    rw [hsymm]
    exact forall_comm

/-- The pairs other than `k` are the other one. -/
theorem Pair.eq_or_other (j k : Pair) : j = k ∨ j = k.other := by cases j <;> cases k <;> decide

/-- An ATTACHED NODE that passes R6 is neither NODE nor the other pair's number. -/
theorem Settings.originsDistinct_setAttached {v : Settings} {k : Pair} {x : Word} (hv : v.originsDistinct = true)
    (hn : ¬ (x ≠ 0 ∧ x = v.node)) (hc : v.clashesWithPair k.other x = false) :
    (v.set (attachedSetting k) x).originsDistinct = true := by
  obtain ⟨hnode, -⟩ := v.originsDistinct_iff.mp hv
  obtain ⟨hsame, hother⟩ := v.attached_setAttached k x
  refine (Settings.originsDistinct_iff _).mpr ⟨fun j hj => ?_, ((Settings.pairsDistinct_iff _ k).mpr fun _ ho => ?_)⟩
  · rw [Settings.nodeClash_false, Settings.node_setAttached]
    rcases Pair.eq_or_other j k with rfl | rfl
    · rw [hsame]
      exact Decidable.or_iff_not_imp_left.mpr (fun h0 hx => hn ⟨h0, hx⟩)
    · rw [hother, ← Settings.nodeClash_false]
      exact hnode _ (v.pairEnabled_setAttached k x _ ▸ hj)
  · rw [hsame, hother]
    rw [Settings.pairEnabled_setAttached] at ho
    exact Decidable.or_iff_not_imp_left.mpr (fun h0 hx => Bool.eq_false_iff.mp hc ((v.clashesWithPair_iff _ x).mpr ⟨h0, ho, hx⟩))

theorem State.writeAttached_keeps (s : State) (k : Pair) (x : Word) : s.keepsLaws (s.writeAttached k x).1 := by
  unfold State.writeAttached
  split
  · exact s.keepsLaws_refl
  split
  · exact s.keepsLaws_refl
  split
  · exact s.keepsLaws_refl
  split
  · exact s.keepsLaws_refl
  rename_i hrange hnode hclash
  refine State.keepsLaws_of_settings (t := s.putSetting (attachedSetting k) x) rfl (fun hl => ?_)
  obtain ⟨hv, hdistinct⟩ := hl
  exact ⟨Settings.inRange_set hv (attachedSetting_inRange k (Nat.not_lt.mp hrange)),
    Settings.originsDistinct_setAttached hdistinct hnode (Bool.eq_false_iff.mpr hclash)⟩

/-- A PAIR ENABLE that passes R122 enables no pair on a number of the own-origin set. -/
theorem Settings.originsDistinct_setPairEnable {v : Settings} {x : Word} (hv : v.originsDistinct = true) (hx : x.toNat ≤ 3)
    (hn : ∀ k, v.enablesNode k x = false) (hc : ¬ (x = 3 ∧ v.attachedNode0 ≠ 0 ∧ v.attachedNode0 = v.attachedNode1)) :
    (v.set .pairEnable x).originsDistinct = true := by
  obtain ⟨hnode, -⟩ := v.originsDistinct_iff.mp hv
  refine (Settings.originsDistinct_iff _).mpr ⟨fun k hk => ?_, fun h0 h1 => ?_⟩
  · have hbit : x.getLsbD k.index = true := hk
    have hsame : (v.set .pairEnable x).nodeClash k = v.nodeClash k := by cases k <;> rfl
    rw [hsame]
    by_cases hold : v.pairEnabled k = true
    · exact hnode k hold
    · refine (v.nodeClash_false k).mpr (Decidable.or_iff_not_imp_left.mpr fun hne heq => ?_)
      exact Bool.eq_false_iff.mp (hn k) ((v.enablesNode_iff k x).mpr ⟨hbit, Bool.eq_false_iff.mpr hold, hne, heq⟩)
  · exact Decidable.or_iff_not_imp_left.mpr (fun hne heq => hc ⟨(bothBits_iff hx).mpr ⟨h0, h1⟩, hne, heq⟩)

theorem State.writePairEnable_keeps (s : State) (x : Word) : s.keepsLaws (s.writePairEnable x).1 := by
  unfold State.writePairEnable
  split
  · exact s.keepsLaws_refl
  split
  · exact s.keepsLaws_refl
  split
  · exact s.keepsLaws_refl
  split
  · exact s.keepsLaws_refl
  rename_i hrange _ hnode hclash
  refine State.keepsLaws_of_settings (t := s.putSetting .pairEnable x) rfl (fun hl => ?_)
  obtain ⟨hv, hdistinct⟩ := hl
  have hrange := Nat.not_lt.mp hrange
  obtain ⟨h0, h1⟩ := Bool.or_eq_false_iff.mp (Bool.eq_false_iff.mpr hnode)
  refine ⟨Settings.inRange_set hv (decide_eq_true hrange), Settings.originsDistinct_setPairEnable hdistinct hrange (fun k => ?_) hclash⟩
  cases k with
  | pair0 => exact h0
  | pair1 => exact h1

/-- Every setting is written by the rule that owns it (R163). -/
theorem State.writeById_keeps (s : State) (n : SettingId) (x : Word) : s.keepsLaws (s.writeById n x).1 := by
  cases n with
  | node => exact s.writeNode_keeps x
  | attachedNode0 => exact s.writeAttached_keeps .pair0 x
  | attachedNode1 => exact s.writeAttached_keeps .pair1 x
  | pairEnable => exact s.writePairEnable_keeps x
  | freeze => exact s.writeFreeze_keeps x
  | probeMissLimit => exact s.writeMissLimit_keeps x
  | _ => exact s.writePlain_keeps x (by decide)

theorem State.writeSetting_keeps (s : State) (n : Byte) (x : Word) : s.keepsLaws (s.writeSetting n x).1 := by
  unfold State.writeSetting
  split
  · exact s.writeById_keeps _ x
  · exact s.keepsLaws_refl

/-! ## Intakes and grants of arrivals (R9 to R16, R34 to R36, R62 to R64) -/

@[simp] theorem State.watched_clash (s : State) : s.clash.watched = s.watched := rfl

@[simp] theorem State.watched_probeReturn (s : State) (l : Lane) (frame : List Byte) : (s.probeReturn l frame).watched = s.watched := by
  have hanswer : (s.modProbe (fun u => u.answer l)).watched = s.watched := by cases l <;> rfl
  obtain ⟨hclash, hdown, hanswered⟩ := s.probeReturn_cases l frame
  by_cases hs : wordAt frame 22 ∈ s.probe.serials
  · cases hl : s.lanesUp with
    | false => rw [hdown hs hl]
    | true => rw [hanswered hs hl, State.watched_judgeRing, hanswer]
  · rw [hclash hs, State.watched_clash]

@[simp] theorem State.watched_reflect (s : State) (l : Lane) (frame : List Byte) : (s.reflect l frame).watched = s.watched := by
  unfold State.reflect
  split
  · exact s.watched_request _ _ _ _
  · rfl

@[simp] theorem State.watched_provingArrival (s : State) (l : Lane) (f : RxFrame) : (s.provingArrival l f).watched = s.watched := by
  unfold State.provingArrival
  dsimp only
  split
  · rfl
  split
  · split <;> rfl
  split
  · rfl
  · exact s.watched_reflect l _

@[simp] theorem State.watched_removeFrame (s : State) (l : Lane) (f : RxFrame) : (s.removeFrame l f).watched = s.watched := by
  unfold State.removeFrame
  dsimp only
  split
  · exact s.watched_probeReturn l _
  · rfl

/-- Of step 6, a probe alone reaches a law: it names its origin in the roster, a number in 1 to 60 (R12, R140). -/
theorem State.laneStep6_keeps (s : State) (l : Lane) (f : RxFrame) (hv : tagValid f.bytes = true) : s.keepsLaws (s.laneStep6 l f) := by
  have hstep : (if (tagOf f.bytes).hops = 0 then s.count (.lane l) PortCounters.expired else s).watched = s.watched := by split <;> rfl
  unfold State.laneStep6
  dsimp only
  split
  · exact State.keepsLaws_trans (State.keepsLaws_of_watched (by rw [State.watched_settleFrame, hstep]))
      (State.keepsLaws_trans (State.hearProbe_keeps _ l f.arrival f.bytes hv) (State.keepsLaws_of_watched (State.watched_sendTransit _ _ _)))
  split
  · exact State.keepsLaws_of_watched (by rw [State.watched_sendTransit, State.watched_settleFrame, hstep])
  · exact State.keepsLaws_of_watched (by rw [State.watched_claimTable, hstep])

theorem State.laneSteps_keeps (s : State) (l : Lane) (f : RxFrame) : s.keepsLaws (s.laneSteps l f) := by
  unfold State.laneSteps
  dsimp only
  split
  · exact State.keepsLaws_of_watched rfl
  split
  · exact State.keepsLaws_of_watched rfl
  split
  · exact State.keepsLaws_of_watched rfl
  rename_i hv
  split
  · exact State.keepsLaws_of_watched (by simp)
  split
  · exact State.keepsLaws_of_watched rfl
  split
  · exact State.keepsLaws_of_watched (by simp)
  · exact s.laneStep6_keeps l f (by simpa using hv)

theorem State.unpairedSteps_keeps (s : State) (p : BayPort) (f : RxFrame) : s.keepsLaws (s.unpairedSteps p f) := by
  refine State.keepsLaws_of_watched ?_
  unfold State.unpairedSteps
  repeat' split
  all_goals rfl

theorem State.pairedSteps_keeps (s : State) (p : BayPort) (f : RxFrame) : s.keepsLaws (s.pairedSteps p f) := by
  refine State.keepsLaws_of_watched ?_
  unfold State.pairedSteps
  dsimp only
  repeat' split
  all_goals rfl

theorem State.watched_lookupOn (s : State) (p : Port) (f : RxFrame) : (s.lookupOn p f).watched = s.watched := by
  cases p with
  | lane l =>
    unfold State.lookupOn State.laneLookup
    dsimp only
    split
    · split
      · exact s.watched_handleArrival _ _ _ _ _
      · exact s.watched_sendTransit _ _
    · exact s.watched_sendTransit _ _
  | bay q =>
    unfold State.lookupOn State.pairLookup
    dsimp only
    split
    · split
      · exact s.watched_handleArrival _ _ _ _ _
      · rfl
    · rfl

theorem State.watched_searchOn (s : State) (p : BayPort) (f : RxFrame) : (s.searchOn p f).watched = s.watched := by
  unfold State.searchOn
  split
  · unfold State.originate
    dsimp only
    split <;> simp
  · rfl

end Sys2Proof.Machine
end

section
namespace Sys2Proof.Machine

/-! ## The sweep and the notices (R30, R78 to R82, R91) -/

theorem Settings.nextVisit_le (v : Settings) (h : Nat) : v.nextVisit h ≤ Config.handles := by
  rcases Nat.le_total h Config.handles with hh | hh
  · exact (v.nextVisit_spec hh).2.1
  · rw [Settings.nextVisit, Nat.sub_eq_zero_of_le hh]
    exact Nat.le_refl _

/-- A change of the sweep's items that ends with its position in 0 to 512. -/
theorem State.modSweep_keeps (s : State) (g : Sweep → Sweep)
    (h : s.sweep.position ≤ Config.handles → (g s.sweep).position ≤ Config.handles) : s.keepsLaws (s.modSweep g) :=
  State.keepsLaws_of_sweep rfl (fun hl => ⟨h hl.1, hl.2⟩)

theorem State.startPass_keeps (s : State) : s.keepsLaws s.startPass := s.modSweep_keeps _ (fun _ => s.settings.nextVisit_le 0)

theorem State.nextPeriod_keeps (s : State) : s.keepsLaws s.nextPeriod := s.modSweep_keeps _ id

theorem State.overrun_keeps (s : State) : s.keepsLaws s.overrun :=
  State.keepsLaws_trans (s.modSweep_keeps _ id) (State.keepsLaws_of_watched (State.watched_raise _ _))

theorem State.sweepBoundary_keeps (s : State) : s.keepsLaws s.sweepBoundary := by
  unfold State.sweepBoundary
  split
  · exact State.keepsLaws_trans s.nextPeriod_keeps (State.overrun_keeps _)
  · exact State.keepsLaws_trans s.nextPeriod_keeps (State.startPass_keeps _)

theorem State.passOn_keeps (s : State) (h : Nat) : s.keepsLaws (s.passOn h) := by
  have hnext : s.keepsLaws (s.modSweep (fun w => { w with position := s.settings.nextVisit (h + 1) })) :=
    s.modSweep_keeps _ (fun _ => s.settings.nextVisit_le _)
  unfold State.passOn
  dsimp only
  split
  · exact hnext
  split
  · exact State.keepsLaws_trans (State.keepsLaws_trans hnext (State.modSweep_keeps _ _ id)) (State.startPass_keeps _)
  · exact hnext

theorem State.watched_visit (s : State) (h : Nat) : (s.visit h).watched = s.watched := by
  unfold State.visit
  dsimp only
  split
  · rw [State.watched_raiseIf, State.watched_putRecord]
  · rfl

theorem State.watched_freeIfDrained (s : State) (h : Nat) : (s.freeIfDrained h).watched = s.watched := by
  unfold State.freeIfDrained
  split <;> rfl

/-- The oldest notice leaves the list as it acts (R30). -/
theorem State.noticeTaken_keeps (s : State) (h : Nat) :
    s.keepsLaws (({ s.endInHand with notices := s.notices.drop 1 } : State).freeIfDrained h) := by
  have htaken : s.keepsLaws { s.endInHand with notices := s.notices.drop 1 } :=
    State.keepsLaws_of_notices rfl (fun hn => hn.sublist (List.drop_sublist 1 _))
  exact State.keepsLaws_trans htaken (State.keepsLaws_of_watched (State.watched_freeIfDrained _ h))

theorem State.endTransmission_keeps (s : State) (p : Port) (d : Descriptor) : s.keepsLaws (s.endTransmission p d) := by
  unfold State.endTransmission
  exact State.keepsLaws_trans
    (State.keepsLaws_trans (State.keepsLaws_of_watched (s.watched_modPort p _)) (State.releaseCopy_keeps _ d))
    (State.keepsLaws_of_watched (State.watched_serve _ p))

/-! ## The end of a load (R173 to R176) -/

theorem State.watched_startProbes (s : State) : s.startProbes.watched = s.watched := by
  rw [State.startProbes_judged, State.watched_judgeRing]
  unfold State.unitAtStart
  split <;> rfl

theorem State.endLoad_keeps (s : State) (outcome : LoadState) : s.keepsLaws (s.endLoad outcome) := by
  have hloaded : s.keepsLaws ((s.modLoader (fun l => { l with state := outcome })).raise .loaded) := State.keepsLaws_of_watched rfl
  have hsweep (u : State) : u.keepsLaws u.startSweep :=
    State.keepsLaws_trans (State.modSweep_keeps u _ id) (State.startPass_keeps _)
  exact State.keepsLaws_trans (State.keepsLaws_trans hloaded (hsweep _)) (State.keepsLaws_of_watched (State.watched_startProbes _))

theorem State.turnOnAll_keeps (ps : List Port) (s : State) : s.keepsLaws (s.turnOnAll ps) := by
  induction ps generalizing s with
  | nil => exact s.keepsLaws_refl
  | cons p ps ih => exact State.keepsLaws_trans (s.commandOn_keeps p) (ih _)

theorem State.failLoad_keeps (s : State) : s.keepsLaws s.failLoad :=
  State.keepsLaws_trans (State.turnOnAll_keeps _ s) (State.endLoad_keeps _ _)

theorem State.watched_installAll (s : State) (store : List Byte) : (s.installAll store).watched = s.watched := by
  rw [State.installAll_moves]
  rfl

/-- After FULL RESET the incremented EPOCH stays in its four bits (R7). -/
theorem nextEpoch_inRange (e : Word) : ((e + 1) &&& 0x000F).toNat ≤ 15 := by
  rw [BitVec.toNat_and]
  exact Nat.and_le_right

/-- A settings block that passes is one under which the own-origin set's numbers are distinct (R6, R172). -/
theorem Settings.originsDistinct_of_block {v : Settings} (hn : ∀ k, v.nodeClash k = false) (hp : v.pairClash = false) :
    v.originsDistinct = true := by
  refine v.originsDistinct_iff.mpr ⟨fun k _ => hn k, fun h0 _ => ?_⟩
  rcases v.pairClash_false.mp hp with h | h | ⟨h, -⟩
  · exact .inl h
  · exact .inr h
  · exact absurd h0 (Bool.eq_false_iff.mp h)

/-- A settings block that passes, applied, is lawful: FREEZE waits, and EPOCH is the block's or the incremented one (R7, R172, R173). -/
theorem Settings.applyBlock_lawful {v block : Settings} (hv : v.inRange = true) (hb : block.blockPasses = true) (afterFullReset : Bool) :
    (v.applyBlock block afterFullReset).inRange = true ∧ (v.applyBlock block afterFullReset).originsDistinct = true := by
  obtain ⟨hrange, h0, h1, hpair⟩ := block.blockPasses_iff.mp hb
  constructor
  · have hfrozen : ({ block with freeze := v.freeze } : Settings).inRange = true :=
      Settings.inRange_set (n := .freeze) hrange (List.all_eq_true.mp hv .freeze (by decide))
    cases afterFullReset with
    | false => exact hfrozen
    | true => exact Settings.inRange_set (n := .epoch) hfrozen (decide_eq_true (nextEpoch_inRange v.epoch))
  · refine Settings.originsDistinct_of_block (fun k => ?_) hpair
    cases k with
    | pair0 => exact h0
    | pair1 => exact h1

/-- An image whose settings block passes keeps the laws (R173 to R175). -/
theorem State.applyImage_keeps (s : State) {store : List Byte} (hb : (blockSettings store).blockPasses = true) :
    s.keepsLaws (s.applyImage store) := by
  have hblock : s.keepsLaws (s.applying store) :=
    State.keepsLaws_of_settings rfl (fun hl => Settings.applyBlock_lawful hl.1 hb s.loader.afterFullReset)
  have hinstalled := State.keepsLaws_trans hblock (State.keepsLaws_of_watched (State.watched_installAll _ store))
  have hfreeze (u : State) : u.keepsLaws (u.addFreeze (blockSettings store).freeze) :=
    u.putSetting_keeps (by decide) (fun hl => freeze_or_inRange (List.all_eq_true.mp hl.1 .freeze (by decide))
      (List.all_eq_true.mp ((blockSettings store).blockPasses_iff.mp hb).1 .freeze (by decide)))
  rw [State.applyImage_eq]
  exact State.keepsLaws_trans (State.keepsLaws_trans hinstalled (hfreeze _))
    (State.keepsLaws_trans (State.turnOnAll_keeps _ _) (State.endLoad_keeps _ _))

theorem State.judgePart_keeps (s : State) (size : Nat) : s.keepsLaws (s.judgePart size) := by
  unfold State.judgePart
  dsimp only
  split
  · split
    · exact s.keepsLaws_refl
    · exact s.failLoad_keeps
  split
  · split
    · rename_i hpasses
      exact s.applyImage_keeps (Bool.and_eq_true_iff.mp hpasses).2
    · exact s.failLoad_keeps
  · exact s.keepsLaws_refl

theorem State.transferOutcome_keeps (s : State) (outcome : TryOutcome) : s.keepsLaws (s.transferOutcome outcome) := by
  have hloader (g : Loader → Loader) : s.keepsLaws (s.modLoader g) := State.keepsLaws_of_watched (s.watched_modLoader g)
  cases outcome with
  | notAcknowledged which =>
    unfold State.transferOutcome State.failedTry
    dsimp only
    split
    · exact State.keepsLaws_trans (hloader _) (State.failLoad_keeps _)
    · exact hloader _
  | acknowledged bytes =>
    unfold State.transferOutcome State.goodTry
    dsimp only
    split
    · exact State.keepsLaws_trans (hloader _) (State.judgePart_keeps _ _)
    · exact s.keepsLaws_refl

/-! ## The three starts (R167, R169, R170) -/

theorem resetBuffers_length : stagingReset.length = 32 ∧ viewCleared.length = 96 := by decide

/-- The reset values are lawful, whatever was before (R170). -/
theorem State.freshStart_keeps (s : State) (signal : PortMap Bool) (held : Bool) : s.keepsLaws (s.freshStart signal held) := by
  have hsettings : Settings.reset.inRange = true ∧ Settings.reset.originsDistinct = true := by decide
  obtain ⟨hstaging, hview⟩ := resetBuffers_length
  refine ⟨fun _ => hsettings, fun _ => ?_, fun _ => ?_, fun _ => ?_⟩
  · exact ⟨rfl, fun _ he => absurd he List.not_mem_nil, Nat.zero_le 4⟩
  · exact ⟨hstaging, hview, hview, Nat.zero_lt_succ 511⟩
  · exact ⟨Nat.le_refl _, List.nodup_nil⟩

/-- FULL RESET keeps FREEZE and EPOCH, each in its range, and enables no pair (R167). -/
theorem Settings.afterFullReset_lawful {v : Settings} (hv : v.inRange = true) :
    v.afterFullReset.inRange = true ∧ v.afterFullReset.originsDistinct = true := by
  have hreset : Settings.reset.inRange = true := by decide
  have hfrozen := Settings.inRange_set (n := .freeze) hreset (List.all_eq_true.mp hv .freeze (by decide))
  refine ⟨Settings.inRange_set (n := .epoch) hfrozen (List.all_eq_true.mp hv .epoch (by decide)), ?_⟩
  have hreset (k : Pair) : Settings.reset.pairEnabled k = false := by cases k <;> decide
  have hoff : ∀ k, v.afterFullReset.pairEnabled k = false := hreset
  refine (Settings.originsDistinct_iff _).mpr ⟨fun k hk => ?_, fun h0 _ => ?_⟩
  · exact absurd hk (Bool.eq_false_iff.mp (hoff k))
  · exact absurd h0 (Bool.eq_false_iff.mp (hoff _))

theorem State.fullReset_keeps (s : State) : s.keepsLaws s.fullReset := by
  obtain ⟨-, hroster, hbuffer, hsweep⟩ := s.freshStart_keeps s.signals s.resetHeld
  exact ⟨fun hl => Settings.afterFullReset_lawful hl.1, hroster, hbuffer, hsweep⟩

/-! ## The command port's buffers (R94, R105, R106, R110, R168) -/

/-- A write over bytes leaves as many as there were (R94). -/
theorem overlay_length (old : List Byte) (offset : Nat) (data : List Byte) : (overlay old offset data).length = old.length := by
  simp only [overlay, List.length_append, List.length_take, List.length_drop]
  omega

theorem State.writeStage_keeps (s : State) (offset : Byte) (data : List Byte) : s.keepsLaws (s.writeStage offset data) :=
  State.keepsLaws_of_buffers rfl (fun ⟨hs, hf, hb, hc⟩ => ⟨(overlay_length _ _ _).trans hs, hf, hb, hc⟩)

theorem cursorAfter_lt {cursor : Nat} (hc : cursor < Config.handles) (chosen : List Nat) : cursorAfter cursor chosen < Config.handles := by
  unfold cursorAfter
  split
  · exact Nat.mod_lt _ (by decide)
  · exact hc

theorem State.attentionRead_keeps (s : State) (chosen : List Nat) : s.keepsLaws { s with cursor := cursorAfter s.cursor chosen } :=
  State.keepsLaws_of_buffers rfl (fun ⟨hs, hf, hb, hc⟩ => ⟨hs, hf, hb, cursorAfter_lt hc chosen⟩)

theorem State.resetPort_keeps (s : State) : s.keepsLaws s.resetPort := by
  obtain ⟨hstaging, hview⟩ := resetBuffers_length
  exact State.keepsLaws_of_buffers rfl (fun _ => ⟨hstaging, hview, hview, Nat.zero_lt_succ 511⟩)

theorem twinBytes_length (twins : List TwinEntry) (i : Nat) : (twinBytes twins i).length = 6 := by
  unfold twinBytes
  split <;> rfl

/-- A view has 96 bytes (12.3). -/
theorem viewImage_length (h : Nat) (r : Record) : (viewImage h r).length = 96 := by
  have hconfig : (configBytes r.config).length = 18 := rfl
  have hcounters : (counterBytes r.counters).length = 26 := rfl
  have hword (w : Word) : (wordBytes w).length = 2 := rfl
  have htime (t : Time) : (timeBytes t).length = 4 := rfl
  simp only [viewImage, List.length_append, List.length_cons, List.length_nil, List.length_map, List.flatMap_cons, List.flatMap_nil,
    hconfig, hcounters, hword, htime, twinBytes_length]

theorem State.takeView_keeps (s : State) (h : Nat) : s.keepsLaws (s.takeView h) :=
  State.keepsLaws_of_buffers rfl (fun ⟨hs, hf, _, hc⟩ => ⟨hs, viewImage_length _ _, hf, hc⟩)

end Sys2Proof.Machine
end

section
namespace Sys2Proof.Machine

/-! ## Command frames (R156 to R161) -/

@[simp] theorem State.watched_post (s : State) (r : Result) : (s.post r).watched = s.watched := rfl

/-- An immediate command keeps the laws when what it does on its arguments keeps them: a refusal and the answer reach none (R160). -/
theorem State.immediate_keeps {α : Type} (s : State) (arg : FrameArg α) (n : Nat) (act : α → State × Result × List Byte)
    (h : ∀ x, s.keepsLaws (act x).1) : s.keepsLaws (s.immediate arg n act) := by
  unfold State.immediate
  split
  · cases arg with
    | whole x => exact State.keepsLaws_trans (h x) (State.keepsLaws_of_watched rfl)
    | cut => exact State.keepsLaws_of_watched (s.watched_post _)
  · exact State.keepsLaws_of_watched (s.watched_post _)

theorem State.claimTimed_keeps (s : State) (kind : TimedKind) (arg : FrameArg Word) (copy : List Byte) :
    s.keepsLaws (s.claimTimed kind arg copy) := by
  refine State.keepsLaws_of_watched ?_
  unfold State.claimTimed
  split
  · cases arg with
    | whole h =>
      dsimp only
      split <;> rfl
    | cut => rfl
  · rfl

theorem State.readPort_keeps (s : State) (n : Byte) (after : State → Port → State) (h : ∀ p, s.keepsLaws (after s p)) :
    s.keepsLaws (s.readPort n after).1 := by
  unfold State.readPort
  split
  · exact h _
  · exact s.keepsLaws_refl

theorem State.readSetting_same (s : State) (n : Byte) : (s.readSetting n).1 = s := by
  unfold State.readSetting
  split <;> rfl

theorem State.readRoster_same (s : State) (first n : Nat) : (s.readRoster first n).1 = s := by
  unfold State.readRoster
  split <;> rfl

/-! ## Timed operations at their grants (R96 to R108) -/

/-- A grant keeps the laws when its operation does: the posted result reaches none (R96). -/
theorem State.grantTimed_keeps (s : State) (kind : TimedKind) (op : State → Nat → List Byte → State × Result)
    (h : ∀ handle copy, s.keepsLaws (op s handle copy).1) : s.keepsLaws (s.grantTimed kind op) := by
  have hposted (u : State) (r : Result) : u.keepsLaws (u.postResult r) := State.keepsLaws_of_watched rfl
  unfold State.grantTimed
  split
  · dsimp only
    split
    · exact State.keepsLaws_trans (h _ _) (hposted _ _)
    · exact s.keepsLaws_refl
  · exact s.keepsLaws_refl

/-- A record alone is written at the grants that touch no view. -/
theorem State.putRecord_keeps (s : State) (h : Nat) (r : Record) : s.keepsLaws (s.putRecord h r) :=
  State.keepsLaws_of_watched (s.watched_putRecord h r)

theorem State.installOp_keeps (s : State) (h : Nat) (copy : List Byte) : s.keepsLaws (s.installOp h copy).1 := by
  unfold State.installOp
  split
  · exact s.keepsLaws_refl
  split
  · exact s.keepsLaws_refl
  split
  · exact s.keepsLaws_refl
  split
  · exact s.keepsLaws_refl
  split
  · exact s.keepsLaws_refl
  · exact s.putRecord_keeps _ _

theorem State.amendOp_keeps (s : State) (h : Nat) (copy : List Byte) : s.keepsLaws (s.amendOp h copy).1 := by
  unfold State.amendOp
  dsimp only
  split
  · exact s.keepsLaws_refl
  split
  · exact s.keepsLaws_refl
  split
  · exact s.keepsLaws_refl
  split
  · exact s.keepsLaws_refl
  · exact s.putRecord_keeps _ _

theorem State.retireOp_keeps (s : State) (h : Nat) (copy : List Byte) : s.keepsLaws (s.retireOp h copy).1 := by
  unfold State.retireOp
  dsimp only
  split
  · exact s.keepsLaws_refl
  split
  · exact s.keepsLaws_refl
  split
  · exact s.keepsLaws_refl
  · exact s.putRecord_keeps _ _

theorem State.heldOp_keeps (s : State) (held : Bool) (h : Nat) (copy : List Byte) : s.keepsLaws (State.heldOp held s h copy).1 := by
  unfold State.heldOp
  dsimp only
  split
  · exact s.keepsLaws_refl
  split
  · exact s.keepsLaws_refl
  · exact s.putRecord_keeps _ _

theorem State.snapshotOp_keeps (s : State) (change : Record → Record) (h : Nat) (copy : List Byte) :
    s.keepsLaws (State.snapshotOp change s h copy).1 := by
  unfold State.snapshotOp
  dsimp only
  split
  · exact s.keepsLaws_refl
  split
  · exact State.keepsLaws_trans (s.takeView_keeps h) (State.putRecord_keeps _ _ _)
  · exact s.takeView_keeps h

/-! ## One step -/

/-- The state an outcome goes on in, if it goes on, keeps the laws of `s`. -/
def State.endsLawfully (s : State) (o : Host.Outcome State Fault Refusal) : Prop := ∀ t, o = .next t → s.keepsLaws t

theorem State.endsLawfully_next {s t : State} (h : s.keepsLaws t) : s.endsLawfully (.next t) := fun _ ht => by
  cases ht
  exact h

/-- An event that has an occasion only under a condition, and no effect without it (log 2). -/
theorem State.endsLawfully_ite {s t : State} (c : Prop) [Decidable c] (h : s.keepsLaws t) : s.endsLawfully (.next (if c then t else s)) := by
  refine State.endsLawfully_next ?_
  split
  · exact h
  · exact s.keepsLaws_refl

/-! ### The events that act on what the part may hold, with no occasion without it (log 2) -/

theorem State.laneIntake_lawful (l : Lane) (s : State) : s.endsLawfully (execLaneIntake l s) := by
  unfold execLaneIntake
  split
  · exact State.endsLawfully_next (s.laneSteps_keeps l _)
  · exact State.endsLawfully_next s.keepsLaws_refl

theorem State.bayIntake_lawful (p : BayPort) (s : State) : s.endsLawfully (execBayIntake p s) := by
  unfold execBayIntake
  split
  · refine State.endsLawfully_next ?_
    split
    · exact s.pairedSteps_keeps p _
    · exact s.unpairedSteps_keeps p _
  · exact State.endsLawfully_next s.keepsLaws_refl

theorem State.lookupByKey_lawful (p : Port) (s : State) : s.endsLawfully (execLookupByKey p s) := by
  unfold execLookupByKey
  split
  · refine State.endsLawfully_ite _ (State.keepsLaws_of_watched ?_)
    rw [State.watched_lookupOn, State.watched_rotate, State.watched_settleFrame]
  · exact State.endsLawfully_next s.keepsLaws_refl

theorem State.patternSearch_lawful (p : BayPort) (s : State) : s.endsLawfully (execPatternSearch p s) := by
  unfold execPatternSearch
  split
  · refine State.endsLawfully_ite _ (State.keepsLaws_of_watched ?_)
    rw [State.watched_searchOn, State.watched_rotate, State.watched_settleFrame]
  · exact State.endsLawfully_next s.keepsLaws_refl

theorem State.noticeGrant_lawful (s : State) : s.endsLawfully (execNoticeGrant s) := by
  unfold execNoticeGrant
  split
  · exact State.endsLawfully_next (s.noticeTaken_keeps _)
  · exact State.endsLawfully_next s.keepsLaws_refl

theorem State.sweepVisit_lawful (s : State) : s.endsLawfully (execSweepVisit s) :=
  State.endsLawfully_ite _ (State.keepsLaws_trans (State.keepsLaws_of_watched (by rw [State.watched_visit, State.watched_endInHand]))
    (State.passOn_keeps _ _))

theorem State.sweepPeriodBoundary_lawful (s : State) : s.endsLawfully (execSweepPeriodBoundary s) :=
  State.endsLawfully_ite _ s.sweepBoundary_keeps

theorem State.probeBoundary_lawful (s : State) : s.endsLawfully (execProbeBoundary s) := by
  unfold execProbeBoundary
  split
  · exact State.endsLawfully_next (s.probeBoundary_keeps _)
  · exact State.endsLawfully_next s.keepsLaws_refl

theorem State.provingFrame_lawful (l : Lane) (s : State) : s.endsLawfully (execProvingFrame l s) := by
  unfold execProvingFrame
  split
  · exact State.endsLawfully_next (State.keepsLaws_of_watched (by rw [State.watched_modProving, State.watched_sendProving]))
  · exact State.endsLawfully_next s.keepsLaws_refl

theorem State.transmissionEnd_lawful (p : Port) (s : State) : s.endsLawfully (execTransmissionEnd p s) := by
  unfold execTransmissionEnd
  split
  · exact State.endsLawfully_next (s.endTransmission_keeps p _)
  · exact State.endsLawfully_next s.keepsLaws_refl

theorem State.unknownCommand_lawful (frame : StrayFrame) (s : State) : s.endsLawfully (execUnknownCommand frame s) := by
  refine State.endsLawfully_next ?_
  split
  · split <;> exact State.keepsLaws_of_watched (s.watched_post _)
  · exact s.keepsLaws_refl

/-- With no command waiting, a unit that is due acts, or the clock moves (log 1). -/
theorem State.idle_lawful (s : State) : s.endsLawfully s.idle := by
  unfold State.idle
  split
  · exact s.sweepPeriodBoundary_lawful
  split
  · exact s.probeBoundary_lawful
  split
  · exact s.provingFrame_lawful .a
  split
  · exact s.provingFrame_lawful .b
  · refine State.endsLawfully_next (State.keepsLaws_of_watched ?_)
    unfold State.tick
    split <;> rfl

/-- Every command and event keeps the laws. -/
theorem exec_lawful (c : Instr) (s : State) : s.endsLawfully (exec c s) := by
  have hwatched {t : State} (h : t.watched = s.watched) : s.endsLawfully (.next t) :=
    State.endsLawfully_next (State.keepsLaws_of_watched h)
  have himmediate {α : Type} (arg : FrameArg α) (n : Nat) (act : α → State × Result × List Byte) (h : ∀ x, s.keepsLaws (act x).1) :
      s.endsLawfully (.next (s.immediate arg n act)) := State.endsLawfully_next (s.immediate_keeps arg n act h)
  have hclaim (kind : TimedKind) (arg : FrameArg Word) (copy : List Byte) : s.endsLawfully (.next (s.claimTimed kind arg copy)) :=
    State.endsLawfully_next (s.claimTimed_keeps kind arg copy)
  have hgrant (kind : TimedKind) (op : State → Nat → List Byte → State × Result) (h : ∀ handle copy, s.keepsLaws (op s handle copy).1) :
      s.endsLawfully (.next (s.grantTimed kind op)) := State.endsLawfully_next (s.grantTimed_keeps kind op h)
  cases c with
  | powerOn signal => exact State.endsLawfully_next (s.freshStart_keeps _ _)
  | resetNLow => exact State.endsLawfully_next (s.freshStart_keeps _ _)
  | resetNHigh => exact State.endsLawfully_ite _ (State.keepsLaws_of_watched rfl)
  | fullReset => exact State.endsLawfully_next s.fullReset_keeps
  | controlReset => exact himmediate _ _ _ (fun _ => s.resetPort_keeps)
  | transfer outcome => exact State.endsLawfully_ite _ (s.transferOutcome_keeps outcome)
  | linkSignalPresent p => exact State.endsLawfully_next (s.linkPresent_keeps p)
  | linkSignalLost p => exact State.endsLawfully_next (s.linkLost_keeps p)
  | frameReception p frame => exact State.endsLawfully_ite _ (State.keepsLaws_of_watched (s.watched_modPort p _))
  | frameReceptionStart p => exact State.endsLawfully_ite _ (State.keepsLaws_of_watched (s.watched_modPort p _))
  | laneIntake l => exact s.laneIntake_lawful l
  | bayIntake p => exact s.bayIntake_lawful p
  | lookupByKey p => exact s.lookupByKey_lawful p
  | patternSearch p => exact s.patternSearch_lawful p
  | noticeGrant => exact s.noticeGrant_lawful
  | sweepPeriodBoundary => exact s.sweepPeriodBoundary_lawful
  | sweepVisit => exact s.sweepVisit_lawful
  | probeBoundary => exact s.probeBoundary_lawful
  | provingFrame l => exact s.provingFrame_lawful l
  | transmissionEnd p => exact s.transmissionEnd_lawful p
  | statusRead => exact hwatched rfl
  | flagsRead => exact hwatched rfl
  | flagsClear word => exact himmediate _ _ _ (fun _ => State.keepsLaws_of_watched rfl)
  | settingRead number => exact himmediate _ _ _ (fun n => (s.readSetting_same n).symm ▸ s.keepsLaws_refl)
  | settingWrite arg => exact himmediate _ _ _ (fun x => s.writeSetting_keeps x.1 x.2)
  | nodeWrite value => exact himmediate _ _ _ s.writeNode_keeps
  | attachedNodeWrite k value => exact himmediate _ _ _ (s.writeAttached_keeps k)
  | pairEnableWrite value => exact himmediate _ _ _ s.writePairEnable_keeps
  | freezeWrite value => exact himmediate _ _ _ s.writeFreeze_keeps
  | probeMissLimitWrite value => exact himmediate _ _ _ s.writeMissLimit_keeps
  | attnMaskWrite value => exact himmediate _ _ _ (fun x => s.writePlain_keeps x (by decide))
  | stageWrite arg => exact himmediate _ _ _ (fun x => s.writeStage_keeps x.1 x.2)
  | stageRead => exact himmediate _ _ _ (fun _ => s.keepsLaws_refl)
  | install handle => exact hclaim _ _ _
  | amend handle => exact hclaim _ _ _
  | retire handle => exact hclaim _ _ _
  | hold handle => exact hclaim _ _ _
  | release handle => exact hclaim _ _ _
  | snapshot handle => exact hclaim _ _ _
  | snapshotClear handle => exact hclaim _ _ _
  | installGrant => exact hgrant _ _ s.installOp_keeps
  | amendGrant => exact hgrant _ _ s.amendOp_keeps
  | retireGrant => exact hgrant _ _ s.retireOp_keeps
  | holdGrant => exact hgrant _ _ (s.heldOp_keeps true)
  | releaseGrant => exact hgrant _ _ (s.heldOp_keeps false)
  | snapshotGrant => exact hgrant _ _ (s.snapshotOp_keeps _)
  | snapshotClearGrant => exact hgrant _ _ (s.snapshotOp_keeps _)
  | viewRead arg => exact himmediate _ _ _ (fun _ => s.keepsLaws_refl)
  | attentionRead => exact himmediate _ _ _ (fun _ => s.attentionRead_keeps _)
  | portRead port => exact himmediate _ _ _ (fun n => s.readPort_keeps n _ (fun _ => s.keepsLaws_refl))
  | portReadClear port => exact himmediate _ _ _ (fun n => s.readPort_keeps n _ (fun p => State.keepsLaws_of_watched (s.watched_count p _)))
  | portOn port => exact himmediate _ _ _ (fun n => s.portCommand_keeps n _ s.commandOn_keeps)
  | portOff port => exact himmediate _ _ _ (fun n => s.portCommand_keeps n _ s.commandOff_keeps)
  | prove port => exact himmediate _ _ _ (fun n => s.portCommand_keeps n _ s.commandProve_keeps)
  | endProve port => exact himmediate _ _ _ (fun n => s.portCommand_keeps n _ s.commandEndProve_keeps)
  | reinstate port => exact himmediate _ _ _ (fun n => s.portCommand_keeps n _ s.commandReinstate_keeps)
  | ringRead => exact himmediate _ _ _ (fun _ => s.keepsLaws_refl)
  | rosterRead arg => exact himmediate _ _ _ (fun x => (s.readRoster_same x.1.toNat x.2.toNat).symm ▸ s.keepsLaws_refl)
  | unknownCommand frame => exact s.unknownCommand_lawful frame

/-- Settles O58: the front command keeps the laws, its leaving the queue touches none, and so does the idle part's work. -/
theorem everyStepKeepsTheSettingsRosterBufferAndSweepLaws : Obligations.EveryStepKeepsTheSettingsRosterBufferAndSweepLaws := by
  intro s t h
  unfold step at h
  split at h
  · exact s.idle_lawful t h
  · rename_i c rest _
    have hqueue : s.keepsLaws { s with pending := rest } := State.keepsLaws_of_watched rfl
    exact State.keepsLaws_trans hqueue (exec_lawful c _ t h)

end Sys2Proof.Machine
end

section
namespace Sys2Proof.Machine

/-! ## Where an arrival is placed (R40, R41, R43) -/

/-- A sequence at distance `d` ahead of H lies 65536 − d behind it (R40). -/
theorem Record.behind_eq (r : Record) (seq : Word) : r.behind seq = (65536 - r.distance seq) % 65536 := by
  unfold Record.behind Record.distance
  bv_omega

/-- The five occasions of a resync (R41). -/
theorem Record.resyncs_iff (r : Record) (x : Arrival) :
    r.resyncs x = true ↔ r.state = .armed ∨ r.noHighest = true ∨ x.epoch ≠ r.epoch
      ∨ (r.state = .silent ∧ ¬ (x.epoch = r.epoch ∧ r.marked x.seq = true))
      ∨ (wildDistance (r.distance x.seq) = true ∧ r.wildCount = 3) := by
  simp only [Record.resyncs, Bool.or_eq_true, Bool.and_eq_true, Bool.not_eq_true', beq_iff_eq, bne_iff_ne, or_assoc,
    ← Bool.not_eq_true]

/-- An arrival that does not resynchronise is sorted by its distance and, at H and behind it, by its mark (R43). -/
theorem Record.place_unsynced {r : Record} {x : Arrival} (h : r.resyncs x = false) :
    r.place x =
      if r.distance x.seq = 0 then (if r.marked x.seq then .duplicate else .atTop)
      else if r.distance x.seq ≤ 1024 then .advance
      else if r.distance x.seq ≤ 65472 then .wild
      else if r.marked x.seq then .duplicate
      else .late := by
  unfold Record.place
  dsimp only
  rw [if_neg (Bool.eq_false_iff.mp h)]

/-- The outcome resync is the occasion's alone (R41, R43). -/
theorem Record.place_resync_iff (r : Record) (x : Arrival) : r.place x = .resync ↔ r.resyncs x = true := by
  constructor
  · intro hp
    refine (Bool.not_eq_false _).mp (fun hr => ?_)
    rw [Record.place_unsynced hr] at hp
    repeat' split at hp
    all_goals exact Placement.noConfusion hp
  · intro hr
    unfold Record.place
    dsimp only
    rw [if_pos hr]

/-- At distance 0 the mark asked is that of H (R40). -/
theorem Record.marked_top {r : Record} {seq : Word} (h : r.distance seq = 0) : r.marked seq = r.seen.getLsbD 0 := by
  have hb : r.behind seq = 0 := by rw [r.behind_eq, h]
  unfold Record.marked
  rw [hb]
  rfl

/-- Settles O22, from the sorting by distance and mark and from the occasions of a resync. -/
theorem whereAnArrivalIsPlaced : Obligations.WhereAnArrivalIsPlaced := by
  refine ⟨fun r x hr => ?_, fun r x => ?_⟩
  · intro d marked
    have hmark : r.marked x.seq = true ↔ marked := r.marked_iff x.seq
    have hplace : r.place x =
        if d = 0 then (if r.marked x.seq then .duplicate else .atTop)
        else if d ≤ 1024 then .advance
        else if d ≤ 65472 then .wild
        else if r.marked x.seq then .duplicate
        else .late := Record.place_unsynced hr
    refine ⟨fun h => ?_, fun h1 h2 => ?_, fun h1 h2 => ?_, fun h1 hm => ?_, fun h1 hm => ?_⟩
    · rw [hplace, if_pos h, Record.marked_top h]
    · rw [hplace, if_neg (by omega), if_pos h2]
    · rw [hplace, if_neg (by omega), if_neg (by omega), if_pos h2]
    · rw [hplace, if_neg (by omega), if_neg (by omega), if_neg (by omega), if_pos (hmark.mpr hm)]
    · rw [hplace, if_neg (by omega), if_neg (by omega), if_neg (by omega), if_neg (mt hmark.mp hm)]
  · rw [r.place_resync_iff, r.resyncs_iff, r.marked_iff, wildDistance_iff, and_assoc]
    rfl

/-! ## An advance (R44) -/

/-- An advance by `d` moves each mark `d` places up the window, and the places it opens are unmarked (R44). -/
theorem Record.advance_seen (r : Record) (x : Arrival) {i : Nat} (hi : i < 64) :
    (r.applyPlacement x .advance).seen.getLsbD i =
      (decide (r.distance x.seq ≤ i) && r.seen.getLsbD (i - r.distance x.seq)) := by
  show (r.seen <<< r.distance x.seq).getLsbD i = _
  rw [BitVec.getLsbD_shiftLeft, decide_eq_true hi, Bool.true_and, ← decide_not]
  simp only [Nat.not_lt]

/-- Settles O23: the marks move with the window, and the pushed-out and skipped numbers are those R44 counts. -/
theorem advanceMovesTheWindowAndCountsTheMissed : Obligations.AdvanceMovesTheWindowAndCountsTheMissed :=
  fun r x _ _ _ => ⟨rfl, rfl, fun _ _ hi => r.advance_seen x hi, rfl⟩

end Sys2Proof.Machine
end

section
namespace Sys2Proof.Machine

/-! ## The mark of a first copy that has a copy enqueued (R45, R58, R74) -/

/-- A first copy that neither resynchronises nor advances stands in the window as it was (R45). -/
theorem Record.behind_of_inWindow {r : Record} {x : Arrival} (h : r.place x = .atTop ∨ r.place x = .late) : r.behind x.seq < 64 := by
  have hr : r.resyncs x = false := by
    refine Bool.eq_false_iff.mpr (fun hr => ?_)
    rw [(r.place_resync_iff x).mpr hr] at h
    exact h.elim Placement.noConfusion Placement.noConfusion
  have hd : r.distance x.seq = 0 ∨ 65472 < r.distance x.seq := by
    rw [Record.place_unsynced hr] at h
    by_cases h0 : r.distance x.seq = 0
    · exact .inl h0
    · refine .inr (Nat.not_le.mp (fun hwild => ?_))
      by_cases hahead : r.distance x.seq ≤ 1024
      · rw [if_neg h0, if_pos hahead] at h
        exact h.elim Placement.noConfusion Placement.noConfusion
      · rw [if_neg h0, if_neg hahead, if_pos hwild] at h
        exact h.elim Placement.noConfusion Placement.noConfusion
  rw [r.behind_eq]
  omega

/-- The twin stage leaves H where placement put it (R42 to R48). -/
theorem Record.paired_highest (r : Record) (x : Arrival) : (r.paired x).highest = (r.applyPlacement x (r.place x)).highest := by
  unfold Record.paired
  rw [Record.pairFirst_eq, Record.hearFirst, Record.setLeg_eq]

/-- An accepted arrival's sequence lies in the window its placement leaves (R42, R44, R45). -/
theorem Record.paired_behind (r : Record) (x : Arrival) (ha : (r.place x).accepted = true) : (r.paired x).behind x.seq < 64 := by
  have hself : (x.seq - x.seq).toNat < 64 := by rw [BitVec.sub_self]; decide
  unfold Record.behind
  rw [Record.paired_highest]
  cases hp : r.place x with
  | resync => exact hself
  | advance => exact hself
  | atTop => exact Record.behind_of_inWindow (r := r) (.inl hp)
  | late => exact Record.behind_of_inWindow (r := r) (.inr hp)
  | duplicate => rw [hp] at ha; exact absurd ha Bool.false_ne_true
  | wild => rw [hp] at ha; exact absurd ha Bool.false_ne_true

/-- A sequence of the window is marked once its mark is set (R58). -/
theorem Record.mark_marked {r : Record} {seq : Word} (h : r.behind seq < 64) : (r.mark seq).seen.getLsbD (r.behind seq) = true := by
  simp [Record.mark, h]

/-- Stage 5 counts "injected" once when some injection copy is enqueued, and not at all else (R74). -/
theorem Record.settle_injected (r : Record) (seq : Word) (wanted got injected : Nat) :
    (r.settle seq wanted got injected).counters.injected =
      if 0 < injected then bump r.counters.injected else r.counters.injected := by
  unfold Record.settle
  dsimp only
  split <;> split <;> rfl

/-- With some copy enqueued, stage 5 marks the sequence and counts no refusal (R58). -/
theorem Record.settle_enqueued (r : Record) (seq : Word) (wanted injected : Nat) {got : Nat} (hg : 0 < got) :
    (r.settle seq wanted got injected).seen = (r.mark seq).seen
      ∧ (r.settle seq wanted got injected).counters.refused = r.counters.refused := by
  unfold Record.settle
  dsimp only
  rw [if_pos (Or.inr hg)]
  split <;> exact ⟨rfl, rfl⟩

theorem Record.arrived_injected (r : Record) (x : Arrival) (wanted got injected : Nat) (ha : (r.place x).accepted = true) :
    (r.arrived x wanted got injected).counters.injected =
      if 0 < injected then bump r.counters.injected else r.counters.injected := by
  obtain ⟨-, hinjected, -⟩ := r.paired_unmarked x ha
  rw [r.arrived_first x wanted got injected ha]
  dsimp only
  rw [Record.settle_injected, hinjected]

/-- A first copy of which some copy is enqueued is marked seen and not counted "refused" (R58, R74). -/
theorem Record.arrived_marked (r : Record) (x : Arrival) (wanted injected : Nat) {got : Nat} (ha : (r.place x).accepted = true)
    (hg : 0 < got) :
    (r.arrived x wanted got injected).marked x.seq = true
      ∧ (r.arrived x wanted got injected).counters.refused = r.counters.refused := by
  have hwindow := r.paired_behind x ha
  obtain ⟨hrefused, -⟩ := r.paired_unmarked x ha
  obtain ⟨hseen, hkept⟩ := (r.paired x).settle_enqueued x.seq wanted injected hg
  rw [r.arrived_first x wanted got injected ha]
  refine ⟨(Record.marked_iff _ _).mpr ⟨hwindow, ?_⟩, hkept.trans hrefused⟩
  dsimp only
  rw [hseen]
  exact Record.mark_marked hwindow

/-! ## The copies of an arrival, one by one (R55, R56, R67, R73) -/

/-- The delivery copy on an UP port of the delivery set that is not struck from it (R55, R56). -/
theorem State.deliveryCopy_mem {s : State} (h : Nat) {c : StreamConfig} {struck : BayPort → Bool} {q : BayPort}
    (hd : c.delivery.getLsbD q.index = true) (hs : struck q = false) (hu : s.isUp (.bay q) = true) :
    ⟨.bay q, s.deliveryForm q, some h, .delivery⟩ ∈ s.deliveryCopies h c struck := by
  refine List.mem_map_of_mem (List.mem_filter.mpr ⟨mem_bayPorts q, ?_⟩)
  rw [hd, hs, hu]
  rfl

/-- The injection copy on an UP lane (R73). -/
theorem State.injectionCopy_mem {s : State} (h : Nat) (form : Form) {l : Lane} (hu : s.isUp (.lane l) = true) :
    ⟨.lane l, form, some h, .injection⟩ ∈ s.injectionCopies h form := by
  refine List.mem_map_of_mem (List.mem_filter.mpr ⟨?_, hu⟩)
  cases l <;> decide

/-- Each of an arrival's own copies carries its record's handle (R57). -/
theorem State.ownCopies_carry {s : State} {p : Port} {h : Nat} {c : Copy} (hc : c ∈ s.ownCopies p h) : c.carriesHandle = true := by
  have hhandle : c.handle = some h := by
    cases p with
    | lane l => exact (State.mem_deliveryCopies hc).2.1
    | bay q =>
      rcases List.mem_append.mp hc with hi | hd
      · exact (State.mem_injectionCopies hi).2
      · exact (State.mem_deliveryCopies hd).2.1
  rw [Copy.carriesHandle, hhandle]
  rfl

/-- With neither lane UP a pair's arrival has no injection copy (R73). -/
theorem State.ownCopies_noInjection {s : State} {p : BayPort} {h : Nat} (hdown : ∀ l : Lane, s.isUp (.lane l) = false) {c : Copy}
    (hc : c ∈ s.ownCopies (.bay p) h) : c.isInjection = false := by
  rcases List.mem_append.mp hc with hi | hd
  · have hlanes : s.upLanes = [] := by simp [State.upLanes, hdown]
    rw [State.injectionCopies, hlanes] at hi
    exact absurd hi List.not_mem_nil
  · rw [Copy.isInjection, (State.mem_deliveryCopies hd).2.2]
    rfl

/-- An answer counts none of the copies when none of them is of the kind asked for. -/
theorem answeredEnqueued_none {which : Copy → Bool} {copies : List Copy} (fates : List Fate) (h : ∀ c ∈ copies, which c = false) :
    answeredEnqueued which copies fates = 0 := by
  unfold answeredEnqueued
  rw [List.length_eq_zero_iff, List.filter_eq_nil_iff]
  intro e he
  rw [h e.1 (List.of_mem_zip he).1]
  exact Bool.false_ne_true

/-- A copy for an UP port whose queue has room is enqueued, whatever it is for (R149). -/
theorem State.fateOf_room (s : State) (cls : DataClass) (c : Copy) (hu : s.isUp c.port = true) (hq : s.queueFull c.port cls = false) :
    s.fateOf cls c = .enqueued := by
  have hup : (s.port c.port).state = .up := beq_iff_eq.mp hu
  refine s.fateOf_enqueued cls c ?_ (Nat.not_le.mp (of_decide_eq_false hq))
  rw [hup]
  cases c.role <;> rfl

/-- A request leaves the descriptors of a port that none of its copies names, be it the blamed one (R147, R148). -/
theorem State.requestAdmission_descriptors_other (s : State) (frame : List Byte) (cls : DataClass) (copies : List Copy) (p : Port)
    {q : Port} (hq : q ∉ copies.map Copy.port) :
    ((s.requestAdmission frame cls copies [p]).1.port q).descriptors = (s.port q).descriptors := by
  unfold State.requestAdmission
  split
  · rfl
  · split
    · exact congrArg PortUnit.descriptors (s.storeFrame_port_other frame cls copies q hq)
    · obtain ⟨-, -, -, -, hdescriptors⟩ := s.refuseFrame_spec p
      exact hdescriptors q

/-! ## A first copy that is delivered and injected (R55 to R58, R72 to R74) -/

theorem State.looking_descriptors (s : State) (p q : Port) : ((s.looking p).port q).descriptors = (s.port q).descriptors := by
  rw [State.looking_port]
  split
  · rename_i h
    rw [h]; rfl
  · rfl

/-- What the grant of an accepted arrival's lookup leaves of one of its own copies that has room in the pool and in its port's queue: its
descriptor, the stored frame, the mark of the sequence, and "injected" when it is an injection copy (R55, R58, R72 to R74, R149). -/
theorem State.firstCopy_placed {s t : State} {p : Port} {f : RxFrame} {h : Nat} (ht : s.lookupTakes p f h)
    (ha : ((s.record h).place (arrivalOf p f)).accepted = true) (hh : (s.record h).held = false)
    (hexec : exec (.lookupByKey p) s = .next t) {c : Copy} (hc : c ∈ (s.looking p).ownCopies p h)
    (hadm : admissible (tagOf f.bytes).cls.dataClass (cellsFor f.bytes.length) s.freeCells = true)
    (hroom : ((s.port c.port).queue (tagOf f.bytes).cls.dataClass).length < s.settings.queueCap (tagOf f.bytes).cls.dataClass) :
    ⟨s.nextName, c.form, c.handle⟩ ∈ (t.port c.port).descriptors
      ∧ (∃ g ∈ t.pool, g.name = s.nextName ∧ g.bytes = f.bytes ∧ g.cls = (tagOf f.bytes).cls.dataClass)
      ∧ (t.record h).marked (arrivalOf p f).seq = true ∧ (t.record h).counters.refused = (s.record h).counters.refused
      ∧ (c.isInjection = true → (t.record h).counters.injected = bump (s.record h).counters.injected) := by
  obtain ⟨t', hexec', -, ⟨hports, hpool, -, -⟩, -, hrecord, -⟩ := State.lookupTakes_spec ht
  obtain rfl : t = t' := Host.Outcome.next.inj (hexec.symm.trans hexec')
  obtain ⟨hcopies, -⟩ := State.copiesOf_accepted ((s.looking p).alwaysCopies p f.bytes) ((s.looking p).ownCopies p h) ha hh
  have hmem : c ∈ (s.looking p).arrivalCopies p f h := by
    rw [State.arrivalCopies]
    exact hcopies ▸ List.mem_append_right _ hc
  have hnodup := (s.looking p).arrivalCopies_nodup p f h
  have hfate : (s.looking p).fateOf (tagOf f.bytes).cls.dataClass c = .enqueued :=
    (s.looking p).fateOf_room _ c (State.mem_ownCopies hc)
      ((s.looking_queueFull p c.port _).trans (decide_eq_false (Nat.not_le.mpr hroom)))
  obtain ⟨hdescriptor, hframe⟩ := (s.looking p).requestAdmission_placed f.bytes _ _ [p] hnodup c hmem hadm hfate
  have hanswer (which : Copy → Bool) (hw : which c = true) :
      0 < answeredEnqueued which ((s.looking p).arrivalCopies p f h) ((s.looking p).arrivalRequest p f h).2 := by
    have hstored : (s.looking p).arrivalRequest p f h = (s.looking p).storeFrame f.bytes _ ((s.looking p).arrivalCopies p f h) :=
      State.requestAdmission_stored _ _ _ _ _ (List.ne_nil_of_mem hmem) hadm
    rw [hstored, State.storeFrame_fates _ _ _ _ hnodup]
    exact answeredEnqueued_pos which _ _ c hmem hw (by rw [hfate]; exact Fate.noConfusion)
  have hport : t.port c.port = ((s.looking p).arrivalRequest p f h).1.port c.port := congrArg (PortMap.get · c.port) hports
  rw [hport, hpool, hrecord]
  obtain ⟨hmarked, hrefused⟩ := (s.record h).arrived_marked (arrivalOf p f) _ _ ha (hanswer _ (State.ownCopies_carry hc))
  refine ⟨hdescriptor, hframe, hmarked, hrefused, fun hi => ?_⟩
  rw [Record.arrived_injected _ _ _ _ _ ha, if_pos (hanswer _ hi)]

/-- A port that none of an arrival's copies names keeps its descriptors, and with no injection copy "injected" stays (R73, R74). -/
theorem State.pairArrival_keeps {s t : State} {p : BayPort} {f : RxFrame} {h : Nat} (ht : s.lookupTakes (.bay p) f h)
    (ha : ((s.record h).place (arrivalOf (.bay p) f)).accepted = true) (hh : (s.record h).held = false)
    (hexec : exec (.lookupByKey (.bay p)) s = .next t) :
    (∀ q : BayPort, q.pair = p.pair → (t.port (.bay q)).descriptors = (s.port (.bay q)).descriptors)
      ∧ ((∀ l : Lane, s.isUp (.lane l) = false) → (t.record h).counters.injected = (s.record h).counters.injected) := by
  obtain ⟨t', hexec', -, ⟨hports, -, -, -⟩, -, hrecord, -⟩ := State.lookupTakes_spec ht
  obtain rfl : t = t' := Host.Outcome.next.inj (hexec.symm.trans hexec')
  have hlist : (s.looking (.bay p)).arrivalCopies (.bay p) f h = (s.looking (.bay p)).ownCopies (.bay p) h :=
    (State.copiesOf_accepted [] ((s.looking (.bay p)).ownCopies (.bay p) h) ha hh).1
  refine ⟨fun q hq => ?_, fun hdown => ?_⟩
  · have hother : Port.bay q ∉ ((s.looking (.bay p)).arrivalCopies (.bay p) f h).map Copy.port := by
      rw [hlist, State.ownPorts_bay]
      rintro ⟨-, hne, -⟩
      exact hne hq
    have hport : t.port (.bay q) = ((s.looking (.bay p)).arrivalRequest (.bay p) f h).1.port (.bay q) :=
      congrArg (PortMap.get · (.bay q)) hports
    rw [hport, ← s.looking_descriptors (.bay p) (.bay q)]
    exact State.requestAdmission_descriptors_other _ _ _ _ _ hother
  · have hnone : answeredEnqueued Copy.isInjection ((s.looking (.bay p)).arrivalCopies (.bay p) f h)
        ((s.looking (.bay p)).arrivalRequest (.bay p) f h).2 = 0 := by
      refine answeredEnqueued_none _ (fun c hc => ?_)
      rw [hlist] at hc
      exact State.ownCopies_noInjection (fun l => (s.looking_isUp _ _).trans (hdown l)) hc
    rw [hrecord, Record.arrived_injected _ _ _ _ _ ha, hnone, if_neg (Nat.lt_irrefl 0)]

/-- Settles O27, from what the grant leaves of one copy that has room, on a lane and on a pair's port. -/
theorem firstCopyIsDeliveredAndAPairsInjected : Obligations.FirstCopyIsDeliveredAndAPairsInjected := by
  refine ⟨?_, ?_⟩
  · intro l f h q s ht r x cls ha hh hdel hup hadm hroom
    obtain ⟨t, hexec, -⟩ := State.lookupTakes_spec ht
    have hmem := State.deliveryCopy_mem (s := s.looking (.lane l)) h (struck := fun _ => false) hdel rfl ((s.looking_isUp _ _).trans hup)
    obtain ⟨hdescriptor, hframe, hmarked, hrefused, -⟩ := State.firstCopy_placed ht ha hh hexec hmem hadm hroom
    exact ⟨t, hexec, hdescriptor, hframe, hmarked, hrefused⟩
  · intro p f h s ht r x cls hasRoom ha hh
    obtain ⟨t, hexec, -⟩ := State.lookupTakes_spec ht
    have injection {l : Lane} (hroom : hasRoom (.lane l)) :=
      State.firstCopy_placed ht ha hh hexec
        (List.mem_append_left _ (State.injectionCopy_mem h _ ((s.looking_isUp (.bay p) (.lane l)).trans hroom.1))) hroom.2.1 hroom.2.2
    have delivery {q : BayPort} (hpair : q.pair ≠ p.pair) (hdel : r.config.delivery.getLsbD q.index = true) (hroom : hasRoom (.bay q)) :=
      State.firstCopy_placed ht ha hh hexec
        (List.mem_append_right _ (State.deliveryCopy_mem h hdel (beq_eq_false_iff_ne.mpr hpair)
          ((s.looking_isUp (.bay p) (.bay q)).trans hroom.1))) hroom.2.1 hroom.2.2
    obtain ⟨hown, hnone⟩ := State.pairArrival_keeps ht ha hh hexec
    refine ⟨t, hexec, fun l hroom => ?_, fun q hpair hdel hroom => ?_, ?_, hown, hnone⟩
    · obtain ⟨hdescriptor, -, -, -, hinjected⟩ := injection hroom
      exact ⟨hdescriptor, hinjected rfl⟩
    · obtain ⟨hdescriptor, -⟩ := delivery hpair hdel hroom
      exact hdescriptor
    · rintro (⟨l, hroom⟩ | ⟨q, hpair, hdel, hroom⟩)
      · obtain ⟨-, hframe, hmarked, hrefused, -⟩ := injection hroom
        exact ⟨hframe, hmarked, hrefused⟩
      · obtain ⟨-, hframe, hmarked, hrefused, -⟩ := delivery hpair hdel hroom
        exact ⟨hframe, hmarked, hrefused⟩

end Sys2Proof.Machine
end

section
namespace Sys2Proof.Machine

/-! ## What a visit makes of the record it judges (R51, R82 to R87) -/

/-- The record differs in no field but those a visit may change: the state, the twin list, the deadline mark, the place in the attention
set, the legs' statuses and misses, the twin-miss counters and "silences" (R82). -/
def Record.onlyVisitMoves (r r' : Record) : Prop :=
  r' = { r with
    state := r'.state, twins := r'.twins, running := r'.running, inAttention := r'.inAttention
    legA := { r.legA with status := r'.legA.status, misses := r'.legA.misses }
    legB := { r.legB with status := r'.legB.status, misses := r'.legB.misses }
    counters := { r.counters with
      twinMissA := r'.counters.twinMissA, twinMissB := r'.counters.twinMissB, silences := r'.counters.silences } }

theorem Record.onlyVisitMoves_trans {r r' r'' : Record} (h : r.onlyVisitMoves r') (k : r'.onlyVisitMoves r'') : r.onlyVisitMoves r'' := by
  unfold Record.onlyVisitMoves at h k ⊢
  rw [h] at k
  exact k

theorem Record.lapseTwins_moves (r : Record) (now : Time) : r.onlyVisitMoves (r.lapseTwins now) := by
  unfold Record.onlyVisitMoves
  rw [Record.lapseTwins_eq]

theorem State.loseLegs_moves (s : State) (r : Record) : r.onlyVisitMoves (s.loseLegs r) := by
  unfold Record.onlyVisitMoves
  rw [State.loseLegs_eq]

theorem Record.judgeDeadline_moves (r : Record) (now : Time) : r.onlyVisitMoves (r.judgeDeadline now) := by
  unfold Record.onlyVisitMoves
  rw [Record.judgeDeadline_eq]

theorem State.visitRecord_moves (s : State) (r : Record) : r.onlyVisitMoves (s.visitRecord r) := by
  have hsteps : r.onlyVisitMoves (s.visitSteps r) :=
    Record.onlyVisitMoves_trans (r.lapseTwins_moves s.bayClock)
      (Record.onlyVisitMoves_trans (s.loseLegs_moves _) (Record.judgeDeadline_moves _ s.bayClock))
  refine Record.onlyVisitMoves_trans hsteps ?_
  unfold Record.onlyVisitMoves
  rw [State.visitRecord_eq]

/-- How many of the record's entries that await a leg have a deadline that has passed; a one-leg record has none (R84). -/
def Record.lapsedOn (r : Record) (now : Time) (l : LegId) : Nat :=
  if r.twoLeg then r.twins.countP (fun e => hasPassed now e.deadline && decide (e.awaits = l)) else 0

/-- The entries that step 1 takes from a two-leg record's list (R84). -/
theorem Record.lapsedOn_eq {r : Record} (h2 : r.twoLeg = true) (now : Time) (l : LegId) :
    r.lapsedOn now l = (r.twins.filter (fun e => hasPassed now e.deadline)).countP (fun e => decide (e.awaits = l)) := by
  rw [Record.lapsedOn, if_pos h2, List.countP_filter]
  exact List.countP_congr (fun e _ => by rw [Bool.and_comm])

/-- Step 1 on one leg: its misses rise by its lapsed entries and stop at 15, and it is LOST when one of them brought them to the threshold
(R51, R84). -/
theorem Record.lapseTwins_leg (r : Record) (now : Time) (l : LegId) :
    ((r.lapseTwins now).leg l).misses.toNat = min 15 ((r.leg l).misses.toNat + r.lapsedOn now l)
      ∧ ((r.lapseTwins now).leg l).status =
        if 0 < r.lapsedOn now l ∧ r.config.missThreshold.toNat ≤ ((r.lapseTwins now).leg l).misses.toNat then .lost
        else (r.leg l).status := by
  by_cases h2 : r.twoLeg = true
  · have hleg (ts : List TwinEntry) : ({ r with twins := ts } : Record).leg l = r.leg l := by cases l <;> rfl
    have hmiss := Record.missAll_leg (r.twins.filter (fun e => hasPassed now e.deadline))
      { r with twins := r.twins.filter (fun e => !hasPassed now e.deadline) } l
    rw [hleg, ← Record.lapsedOn_eq h2] at hmiss
    rw [Record.lapseTwins, if_pos h2]
    exact hmiss
  · have hfew : (r.leg l).misses.toNat < 16 := (r.leg l).misses.isLt
    rw [Record.lapseTwins, if_neg h2, Record.lapsedOn, if_neg h2, if_neg (fun h => Nat.lt_irrefl 0 h.1)]
    exact ⟨by omega, rfl⟩

/-- Step 1 on the twin-miss counters: each rises by its leg's lapsed entries and stops at 0xFFFF (R51, R84). -/
theorem Record.lapseTwins_counters (r : Record) (now : Time) :
    (r.lapseTwins now).counters.twinMissA.toNat = min 0xFFFF (r.counters.twinMissA.toNat + r.lapsedOn now .a)
      ∧ (r.lapseTwins now).counters.twinMissB.toNat = min 0xFFFF (r.counters.twinMissB.toNat + r.lapsedOn now .b) := by
  by_cases h2 : r.twoLeg = true
  · have hmiss := Record.missAll_counters (r.twins.filter (fun e => hasPassed now e.deadline))
      { r with twins := r.twins.filter (fun e => !hasPassed now e.deadline) }
    rw [← Record.lapsedOn_eq h2, ← Record.lapsedOn_eq h2] at hmiss
    rw [Record.lapseTwins, if_pos h2]
    exact hmiss
  · have hfewA : r.counters.twinMissA.toNat < 65536 := r.counters.twinMissA.isLt
    have hfewB : r.counters.twinMissB.toNat < 65536 := r.counters.twinMissB.isLt
    have hnone (l : LegId) : r.lapsedOn now l = 0 := if_neg h2
    rw [Record.lapseTwins, if_neg h2, hnone, hnone]
    omega

/-- Step 2 on one leg, a leg whose port is UP or that the record does not have (R85). -/
theorem State.legByPort_up (s : State) {port : Option Port} (x : Leg) (h : ∀ p, port = some p → s.isUp p = true) :
    s.legByPort port x = x := by
  unfold State.legByPort
  split
  · rw [if_pos (h _ rfl)]
  · rfl

/-- Step 2 on one leg, a leg whose port is not UP (R85). -/
theorem State.legByPort_down (s : State) {p : Port} (x : Leg) (h : s.isUp p = false) :
    s.legByPort (some p) x = { x with status := .lost } := by
  rw [State.legByPort, if_neg (Bool.eq_false_iff.mp h)]

theorem State.legByPort_misses (s : State) (port : Option Port) (x : Leg) : (s.legByPort port x).misses = x.misses := by
  unfold State.legByPort
  split
  · split <;> rfl
  · rfl

/-- A visit's legs are those of steps 1 and 2 (R84, R85). -/
theorem State.visitRecord_leg (s : State) (r : Record) (l : LegId) :
    (s.visitRecord r).leg l = s.legByPort (r.config.legMode.port l) ((r.lapseTwins s.bayClock).leg l) := by
  have hconfig : (r.lapseTwins s.bayClock).config = r.config := by rw [Record.lapseTwins_eq]
  rw [← hconfig, State.visitRecord_eq, State.visitSteps, Record.judgeDeadline_eq]
  cases l <;> rfl

/-- A visit's twin-miss counters are those of step 1 (R84). -/
theorem State.visitRecord_twinMisses (s : State) (r : Record) :
    (s.visitRecord r).counters.twinMissA = (r.lapseTwins s.bayClock).counters.twinMissA
      ∧ (s.visitRecord r).counters.twinMissB = (r.lapseTwins s.bayClock).counters.twinMissB := by
  rw [State.visitRecord_eq, State.visitSteps, Record.judgeDeadline_eq, State.loseLegs_eq]
  exact ⟨rfl, rfl⟩

/-- The record as steps 1 and 2 leave it to step 3 (R84, R85). -/
def State.visitLegs (s : State) (r : Record) : Record := s.loseLegs (r.lapseTwins s.bayClock)

/-- Steps 1 and 2 leave what step 3 asks: the state, the deadline and its mark; and "silences" (R82). -/
theorem State.visitLegs_eq (s : State) (r : Record) :
    (s.visitLegs r).state = r.state ∧ (s.visitLegs r).running = r.running ∧ (s.visitLegs r).deadline = r.deadline
      ∧ (s.visitLegs r).counters.silences = r.counters.silences
      ∧ (s.visitLegs r).twins = if r.twoLeg then r.twins.filter (fun e => !hasPassed s.bayClock e.deadline) else r.twins := by
  unfold State.visitLegs
  rw [State.loseLegs_eq, Record.lapseTwins_eq]
  exact ⟨rfl, rfl, rfl, rfl, rfl⟩

theorem State.visitSteps_eq (s : State) (r : Record) : s.visitSteps r = (s.visitLegs r).judgeDeadline s.bayClock := rfl

/-- Step 4 sets the state anew in LIVE and SINGLE alone (R87). -/
theorem State.visitRecord_state (s : State) (r : Record) (h : (s.visitSteps r).state.arriving = false) :
    (s.visitRecord r).state = (s.visitSteps r).state := by
  show (s.visitState r).state = _
  unfold State.visitState
  dsimp only
  rw [h, Bool.false_and, if_neg Bool.false_ne_true]

/-- A LIVE or SINGLE record whose deadline has passed is SILENT after its visit (R86). -/
theorem State.visitRecord_silent (s : State) (r : Record) (ha : r.state = .live ∨ r.state = .single) (hr : r.running = true)
    (hp : hasPassed s.bayClock r.deadline = true) :
    (s.visitRecord r).state = .silent ∧ (s.visitRecord r).twins = [] ∧ (s.visitRecord r).running = false
      ∧ (s.visitRecord r).counters.silences = bump r.counters.silences := by
  obtain ⟨hstate, hrunning, hdeadline, hsilences, -⟩ := s.visitLegs_eq r
  have harriving : r.state.arriving = true := by rcases ha with h | h <;> rw [h] <;> rfl
  have hdue : ((s.visitLegs r).state.arriving && (s.visitLegs r).running && hasPassed s.bayClock (s.visitLegs r).deadline) = true := by
    rw [hstate, hrunning, hdeadline, harriving, hr, hp]
    rfl
  have hlapsed : s.visitSteps r = { s.visitLegs r with
      state := .silent, twins := [], running := false
      counters := { (s.visitLegs r).counters with silences := bump (s.visitLegs r).counters.silences } } := if_pos hdue
  refine ⟨?_, ?_, ?_, ?_⟩
  · rw [s.visitRecord_state r (by rw [hlapsed]; rfl), hlapsed]
  · rw [State.visitRecord_eq, hlapsed]
  · rw [State.visitRecord_eq, hlapsed]
  · rw [State.visitRecord_eq, hlapsed, hsilences]

/-- A record whose deadline is stopped or has not passed keeps its deadline mark, "silences" and the entries that have not lapsed; in
ARMED and SILENT it keeps its state (R84, R86, R87). -/
theorem State.visitRecord_unlapsed (s : State) (r : Record) (hn : ¬ (r.running = true ∧ hasPassed s.bayClock r.deadline = true)) :
    (s.visitRecord r).running = r.running ∧ (s.visitRecord r).counters.silences = r.counters.silences
      ∧ (r.twoLeg = true → ∀ e, e ∈ (s.visitRecord r).twins ↔ e ∈ r.twins ∧ hasPassed s.bayClock e.deadline = false)
      ∧ ((r.state = .armed ∨ r.state = .silent) → (s.visitRecord r).state = r.state) := by
  obtain ⟨hstate, hrunning, hdeadline, hsilences, htwins⟩ := s.visitLegs_eq r
  have hkept : s.visitSteps r = s.visitLegs r := by
    refine Record.judgeDeadline_kept (s.visitLegs r) _ ?_
    rw [hrunning, hdeadline, Bool.and_assoc, Bool.and_eq_false_iff]
    exact .inr (Bool.eq_false_iff.mpr (fun h => hn (Bool.and_eq_true_iff.mp h)))
  refine ⟨?_, ?_, fun h2 e => ?_, fun ha => ?_⟩
  · rw [State.visitRecord_eq, hkept, hrunning]
  · rw [State.visitRecord_eq, hkept, hsilences]
  · rw [State.visitRecord_eq, hkept, htwins, if_pos h2, List.mem_filter, Bool.not_eq_true']
  · have hidle : (s.visitSteps r).state.arriving = false := by
      rw [hkept, hstate]
      rcases ha with h | h <;> rw [h] <;> rfl
    rw [s.visitRecord_state r hidle, hkept, hstate]

/-- Step 4's attention is judged on the state and the leg statuses the visit leaves (R87). -/
theorem State.visitJoins_iff (s : State) (r : Record) :
    visitJoins r (s.visitState r) = true ↔ (s.visitRecord r).state ≠ r.state ∨ (s.visitRecord r).legA.status ≠ r.legA.status
      ∨ (s.visitRecord r).legB.status ≠ r.legB.status := by
  have hstate : (s.visitState r).state = (s.visitRecord r).state := rfl
  have hlegA : (s.visitState r).legA = (s.visitRecord r).legA := rfl
  have hlegB : (s.visitState r).legB = (s.visitRecord r).legB := rfl
  unfold visitJoins legsDiffer
  rw [hstate, hlegA, hlegB]
  simp only [Bool.or_eq_true, bne_iff_ne, ne_comm (a := r.legA.status), ne_comm (a := r.legB.status)]

/-! ## A visit and the pass (R80 to R82, R91) -/

/-- A visit reaches the table and the flags alone. -/
theorem State.visit_eq (s : State) (h : Nat) : s.visit h = { s with table := (s.visit h).table, flags := (s.visit h).flags } := by
  unfold State.visit
  dsimp only
  split
  · rw [State.raiseIf_eq]
    rfl
  · rfl

theorem State.visit_unoccupied {s : State} {h : Nat} (ho : (s.record h).state.occupied = false) : s.visit h = s :=
  if_neg (Bool.eq_false_iff.mp ho)

theorem State.visit_occupied {s : State} {h : Nat} (ho : (s.record h).state.occupied = true) :
    (s.visit h).record h = s.visitRecord (s.record h)
      ∧ ∀ g, (s.visit h).flag g =
          (s.flag g || (visitJoins (s.record h) (s.visitState (s.record h)) && decide (Flag.attention = g))) := by
  have hvisit : s.visit h =
      (s.putRecord h (s.visitRecord (s.record h))).raiseIf (visitJoins (s.record h) (s.visitState (s.record h))) .attention := if_pos ho
  rw [hvisit]
  refine ⟨?_, fun g => State.flag_raiseIf _ _ _ g⟩
  rw [State.record, State.raiseIf_table]
  exact s.record_putRecord_same h _

theorem State.visit_others (s : State) (h : Nat) : s.otherRecordsKept (s.visit h) h := by
  intro k hk
  unfold State.visit
  dsimp only
  split
  · rw [State.record, State.raiseIf_table]
    exact s.record_putRecord_other _ hk
  · rfl

/-- A visit changes of its handle's record what steps 1 to 4 may change, and nothing of a record that no visit judges (R81, R82). -/
theorem State.visit_moves (s : State) (h : Nat) : (s.record h).onlyVisitMoves ((s.visit h).record h) := by
  cases ho : (s.record h).state.occupied with
  | true =>
    rw [(State.visit_occupied ho).1]
    exact s.visitRecord_moves _
  | false =>
    rw [State.visit_unoccupied ho]
    exact rfl

/-- Going on reaches the sweep alone. -/
theorem State.passOn_eq (s : State) (h : Nat) : s.passOn h = { s with sweep := (s.passOn h).sweep } := by
  unfold State.passOn
  dsimp only
  split
  · rfl
  · split <;> rfl

/-- Where the pass goes on after handle `h`: to the next handle that SWEEP MASK does not name; with none left to the first such handle of
the pass that is owed, or to its end (R80, R81, R91). -/
theorem State.passOn_sweep (s : State) (h : Nat) :
    (s.passOn h).sweep =
      if s.settings.nextVisit (h + 1) < 512 then { s.sweep with position := s.settings.nextVisit (h + 1) }
      else if s.sweep.passOwed then { s.sweep with position := s.settings.nextVisit 0, passOwed := false }
      else { s.sweep with position := s.settings.nextVisit (h + 1) } := by
  by_cases hn : s.settings.nextVisit (h + 1) < 512
  · have hgo : s.passOn h = s.modSweep (fun w => { w with position := s.settings.nextVisit (h + 1) }) := if_pos (decide_eq_true hn)
    rw [hgo, if_pos hn]
    rfl
  · have hend : s.passOn h =
        if s.sweep.passOwed = true then
          ((s.modSweep (fun w => { w with position := s.settings.nextVisit (h + 1) })).modSweep
            (fun w => { w with passOwed := false })).startPass
        else s.modSweep (fun w => { w with position := s.settings.nextVisit (h + 1) }) := if_neg (mt of_decide_eq_true hn)
    rw [hend, if_neg hn]
    split <;> rfl

/-- The first handle after a visited one that SWEEP MASK does not name is the next to be claimed (R80, R81). -/
theorem State.passOn_next (s : State) {h k : Nat} (hk : h < k) (h512 : k < 512) (hm : s.settings.masked k = false)
    (hbetween : ∀ j, h < j → j < k → s.settings.masked j = true) :
    (s.passOn h).sweep.position = k ∧ (s.passOn h).sweep.passOwed = s.sweep.passOwed := by
  obtain ⟨hge, -, hfree, hmasked⟩ := s.settings.nextVisit_spec (h := h + 1) (by omega)
  have hnext : s.settings.nextVisit (h + 1) = k := by
    rcases Nat.lt_trichotomy (s.settings.nextVisit (h + 1)) k with hlt | heq | hgt
    · exact absurd (hbetween _ hge hlt) (Bool.eq_false_iff.mp (hfree (by omega)))
    · exact heq
    · exact absurd (hmasked k hk hgt) (Bool.eq_false_iff.mp hm)
  rw [s.passOn_sweep, hnext, if_pos h512]
  exact ⟨rfl, rfl⟩

/-- After the last handle of a pass the sweep begins the pass that is owed, or stops at 512 (R80, R91). -/
theorem State.passOn_last (s : State) {h : Nat} (hh : h < 512) (hall : ∀ k, h < k → k < 512 → s.settings.masked k = true) :
    (s.passOn h).sweep.passOwed = false
      ∧ (s.passOn h).sweep.position = if s.sweep.passOwed then s.settings.nextVisit 0 else 512 := by
  obtain ⟨hge, hle, hfree, -⟩ := s.settings.nextVisit_spec (h := h + 1) (by omega)
  have hend : s.settings.nextVisit (h + 1) = 512 := by
    refine Nat.le_antisymm hle (Nat.not_lt.mp (fun hlt => ?_))
    exact absurd (hall _ hge hlt) (Bool.eq_false_iff.mp (hfree hlt))
  rw [s.passOn_sweep, hend, if_neg (Nat.lt_irrefl 512)]
  cases howed : s.sweep.passOwed with
  | true => exact ⟨rfl, rfl⟩
  | false => exact ⟨howed, rfl⟩

/-- The visit that may act: it ends the mark of a grant in hand, judges the record at the position, and the pass goes on from there. -/
theorem exec_sweepVisit {s : State} (ht : s.visitTurn = true) :
    ∃ t, exec .sweepVisit s = .next t
      ∧ t = { s with table := t.table, flags := t.flags, inHand := none, sweep := (s.passOn s.sweep.position).sweep }
      ∧ (∀ k, t.record k = (s.endInHand.visit s.sweep.position).record k)
      ∧ t.flags = (s.endInHand.visit s.sweep.position).flags := by
  have hvisit := s.endInHand.visit_eq s.sweep.position
  have hpass := (s.endInHand.visit s.sweep.position).passOn_eq s.sweep.position
  have hsweep : ((s.endInHand.visit s.sweep.position).passOn s.sweep.position).sweep = (s.passOn s.sweep.position).sweep := by
    rw [State.passOn_sweep, State.passOn_sweep, hvisit]
    rfl
  refine ⟨_, congrArg Host.Outcome.next (if_pos ht), ?_, fun k => ?_, ?_⟩
  · rw [← hsweep, hpass, hvisit]
    rfl
  · rw [hpass]; rfl
  · rw [hpass]

/-- Settles O39, from what a visit reaches, where the pass goes on, and the record the visit leaves. -/
theorem sweepVisitJudgesOneRecord : Obligations.SweepVisitJudgesOneRecord := by
  refine ⟨fun s ht => ?_, fun s ht => ?_⟩
  · intro h r
    obtain ⟨t, hexec, hmoves, hrecord, hflags⟩ := exec_sweepVisit ht
    have hsweep : t.sweep = (s.passOn h).sweep := by rw [hmoves]
    refine ⟨t, hexec, ?_, fun k hk => (hrecord k).trans (s.endInHand.visit_others h k hk), ?_, fun ho => ?_, ?_, ?_⟩
    · have hperiods : (s.passOn h).sweep =
          { s.sweep with position := (s.passOn h).sweep.position, passOwed := (s.passOn h).sweep.passOwed } := by
        rw [s.passOn_sweep]
        split
        · rfl
        · split <;> rfl
      rw [hsweep, ← hperiods]
      exact hmoves
    · rw [hrecord]
      exact s.endInHand.visit_moves h
    · rw [hrecord, hflags, State.visit_unoccupied (s := s.endInHand) ho]
      exact ⟨rfl, rfl⟩
    · rw [hsweep]
      exact fun k hk h512 hm hbetween => s.passOn_next hk h512 hm hbetween
    · rw [hsweep]
      intro hall
      obtain ⟨howed, hposition⟩ := s.passOn_last (State.position_of_visitTurn ht) hall
      obtain ⟨-, hle, hunmasked, hmasked⟩ := s.settings.nextVisit_spec (h := 0) (by decide)
      refine ⟨howed, fun hno => ?_, fun hyes => ?_⟩
      · rw [hposition, hno]
        rfl
      · rw [hposition, if_pos hyes]
        exact ⟨hle, hunmasked, fun k => hmasked k (Nat.zero_le k)⟩
  · intro h r passed lapsed ho
    obtain ⟨hrecord, hraised⟩ := State.visit_occupied (s := s.endInHand) (h := h) ho
    obtain ⟨hmissA, hmissB⟩ := s.visitRecord_twinMisses r
    obtain ⟨hcountA, hcountB⟩ := r.lapseTwins_counters s.bayClock
    obtain ⟨t, hexec, -, hkept, hflags⟩ := exec_sweepVisit ht
    have hflag : t.flag .attention = (s.endInHand.visit h).flag .attention := congrArg (BitVec.getLsbD · Flag.attention.bit) hflags
    refine ⟨t, hexec, ?_⟩
    rw [show t.record h = s.visitRecord r from (hkept h).trans hrecord]
    refine ⟨fun l => ⟨?_, fun hup => ?_⟩, hmissA ▸ hcountA, hmissB ▸ hcountB, fun leg port hport hdown => ?_,
      s.visitRecord_silent r, s.visitRecord_unlapsed r, fun hchange => ?_⟩
    · rw [s.visitRecord_leg, State.legByPort_misses]
      exact (r.lapseTwins_leg s.bayClock l).1
    · rw [s.visitRecord_leg, State.legByPort_up s _ hup]
      exact (r.lapseTwins_leg s.bayClock l).2
    · rw [s.visitRecord_leg, hport, State.legByPort_down s _ hdown]
    · have hjoins : visitJoins r (s.visitState r) = true := (s.visitJoins_iff r).mpr hchange
      refine ⟨?_, (hflag.trans (hraised .attention)).trans ?_⟩
      · show ((s.visitState r).inAttention || visitJoins r (s.visitState r)) = true
        rw [hjoins, Bool.or_true]
      · rw [show visitJoins (s.endInHand.record h) (s.endInHand.visitState (s.endInHand.record h)) = true from hjoins]
        exact Bool.or_true _

end Sys2Proof.Machine
end

section
namespace Sys2Proof.Machine

/-! ## The bay intake, check by check (R62 to R64, R71) -/

theorem exec_bayIntake {p : BayPort} {f : RxFrame} {s : State} (hn : s.nextFrame (.bay p) = some f) :
    exec (.bayIntake p) s = .next (if s.settings.paired p then s.pairedSteps p f else s.unpairedSteps p f) := by
  show execBayIntake p s = _
  rw [execBayIntake, hn]

/-- The test of an intake's first step fails just on a frame whose FCS does not match or whose length is out of range (R63). -/
theorem not_whole_iff (frame : List Byte) (upper : Nat) :
    (!lengthAndFcsPass frame upper) = true ↔ ¬ (fcsMatches frame = true ∧ 64 ≤ frame.length ∧ frame.length ≤ upper) := by
  rw [Bool.not_eq_true', ← Bool.not_eq_true, lengthAndFcsPass_iff]
  exact not_congr ⟨fun ⟨hlow, hhigh, hfcs⟩ => ⟨hfcs, hlow, hhigh⟩, fun ⟨hfcs, hlow, hhigh⟩ => ⟨hlow, hhigh, hfcs⟩⟩

theorem not_isTagged_iff (tagType : Word) (frame : List Byte) : (!isTagged tagType frame) = true ↔ ¬ typeWordOf frame = tagType := by
  rw [Bool.not_eq_true', ← Bool.not_eq_true, isTagged_iff]

/-- Two checks in a row with one discard are one check (R71). -/
theorem one_check_of_two {α : Type} (c d : Prop) [Decidable c] [Decidable d] (x y : α) :
    (if c then x else if d then x else y) = if c ∨ d then x else y := by
  by_cases hc : c
  · rw [if_pos hc, if_pos (.inl hc)]
  · by_cases hd : d
    · rw [if_neg hc, if_pos hd, if_pos (.inr hd)]
    · rw [if_neg hc, if_neg hd, if_neg (not_or.mpr ⟨hc, hd⟩)]

/-- Two checks that say the same, with the same to do when they hold, are one check when the checks after them are. -/
theorem check_congr {α : Type} {c d : Prop} [Decidable c] [Decidable d] {x y u v : α} (hcd : c ↔ d) (hheld : x = u) (hafter : y = v) :
    (if c then x else y) = if d then u else v :=
  ite_congr (propext hcd) (fun _ => hheld) (fun _ => hafter)

/-- Settles O20, by the intake's checks in their order on each of its two paths. -/
theorem bayIntakeDiscardsOrClaims : Obligations.BayIntakeDiscardsOrClaims := by
  intro p f s hn u gone claims whole tagged wrongOrigin
  have discarded (g : PortCounters → PortCounters) : Host.Outcome.next (s.discard (.bay p) g) = gone (g u.counters) := by
    rw [s.discard_eq]
  refine ⟨fun hunpaired => ?_, fun hpaired => ?_⟩
  · rw [exec_bayIntake hn, hunpaired, if_neg Bool.false_ne_true, State.unpairedSteps]
    simp only [apply_ite Host.Outcome.next]
    exact check_congr (not_whole_iff _ _) (discarded _) <| check_congr (isTagged_iff _ _) (discarded _) <|
      check_congr (d := s.settings.node = 0) Iff.rfl (discarded _) rfl
  · rw [exec_bayIntake hn, hpaired, if_pos rfl, State.pairedSteps]
    simp only [apply_ite Host.Outcome.next]
    rw [one_check_of_two]
    exact check_congr (not_whole_iff _ _) (discarded _) <| check_congr (not_isTagged_iff _ _) (discarded _) <|
      check_congr (Bool.not_eq_true' _).to_iff (discarded _) <| check_congr (d := wrongOrigin) Iff.rfl (discarded _) <|
      check_congr (d := s.settings.node = 0) Iff.rfl (discarded _) rfl

end Sys2Proof.Machine
end

section
namespace Sys2Proof.Machine

/-! ## The grant of a search whose record takes the frame (R35, R36, R65, R67) -/

theorem exec_patternSearch {s : State} {p : BayPort} {f : RxFrame} {h : Nat} (ht : s.searchTakes p f h) :
    exec (.patternSearch p) s = .next ((s.looking (.bay p)).originate h p f) := by
  obtain ⟨hg, hf, hk⟩ := ht
  have hfind : (s.looking (.bay p)).findPattern p f.bytes = some h := hk
  have hsearch : (s.looking (.bay p)).searchOn p f = (s.looking (.bay p)).originate h p f := by rw [State.searchOn, hfind]
  show execPatternSearch p s = _
  rw [execPatternSearch, hf, ← hsearch]
  exact congrArg Host.Outcome.next (if_pos hg)

/-- The frame an origination in this state stores: the relay's, tagged by the record of handle `h` (R65). -/
def State.originatedFrame (s : State) (h : Nat) (f : RxFrame) : List Byte :=
  insertTag s.settings.tagType (s.tagFor (s.record h)) f.bytes

/-- The copies of an origination in this state on the record of handle `h` (R67). -/
def State.searchCopies (s : State) (p : BayPort) (h : Nat) : List Copy := s.originationCopies h (s.record h).config p

/-- The request an unheld origination in this state makes for its copies (R68, R147). -/
def State.originationRequest (s : State) (p : BayPort) (f : RxFrame) (h : Nat) : State × List Fate :=
  s.requestAdmission (s.originatedFrame h f) (s.record h).config.cls (s.searchCopies p h) [.bay p]

/-- The record an unheld origination leaves, by what its copies came to (R66, R68, R69). -/
def Record.originated (r : Record) (arrival : Time) (wanted got injected : Nat) : Record :=
  ({ r.takeFrame arrival with
    sendCounter := (r.takeFrame arrival).sendCounter + 1 }.settleOrigination wanted got injected).settleSingle r

/-- The record of handle `h` after an unheld origination in this state, whose request has come to what its answer says (R68). -/
def State.originatedRecord (s : State) (p : BayPort) (f : RxFrame) (h : Nat) : Record :=
  (s.record h).originated f.arrival (s.searchCopies p h).length
    (answeredEnqueued Copy.carriesHandle (s.searchCopies p h) (s.originationRequest p f h).2)
    (answeredEnqueued Copy.isInjection (s.searchCopies p h) (s.originationRequest p f h).2)

/-- An origination counts "refused" when it had copies to make and none of them is enqueued, and "injected" when some lane's is (R68). -/
theorem State.originatedRecord_counters (s : State) (p : BayPort) (f : RxFrame) (h : Nat) :
    let c := (s.record h).counters
    let enqueued (which : Copy → Bool) := answeredEnqueued which (s.searchCopies p h) (s.originationRequest p f h).2
    (s.originatedRecord p f h).counters.refused =
        (if (s.searchCopies p h).length ≠ 0 ∧ enqueued Copy.carriesHandle = 0 then bump c.refused else c.refused)
      ∧ (s.originatedRecord p f h).counters.injected = if 0 < enqueued Copy.isInjection then bump c.injected else c.injected := by
  unfold State.originatedRecord Record.originated Record.settleOrigination
  dsimp only
  split <;> split <;> exact ⟨rfl, rfl⟩

/-- An unheld origination, put together: the request, the record it leaves, and ATTENTION when the record joins the set (R65 to R69). -/
theorem State.originate_unheld {s : State} {h : Nat} (p : BayPort) (f : RxFrame) (hh : (s.record h).held = false) :
    s.originate h p f = ((s.originationRequest p f h).1.putRecord h (s.originatedRecord p f h)).raiseIf
      ((s.originatedRecord p f h).state != (s.record h).state || legsDiffer (s.record h) (s.originatedRecord p f h)) .attention :=
  if_neg (by rw [hh]; exact Bool.false_ne_true)

/-- The grant of a search whose record takes the frame and is not held, said once: what its request leaves, the record, the flags. -/
theorem State.searchTakes_spec {s : State} {p : BayPort} {f : RxFrame} {h : Nat} (ht : s.searchTakes p f h)
    (hh : (s.record h).held = false) :
    let s' := s.looking (.bay p)
    let a := s'.originationRequest p f h
    ∃ t, exec (.patternSearch p) s = .next t ∧ (t.ports = a.1.ports ∧ t.pool = a.1.pool ∧ t.tallies = a.1.tallies)
      ∧ t.record h = s'.originatedRecord p f h ∧ ∀ g, g ≠ .attention → t.flag g = a.1.flag g := by
  intro s' a
  have hrecord (u : State) (c : Bool) : (u.raiseIf c .attention).record h = u.record h := by cases c <;> rfl
  refine ⟨_, exec_patternSearch ht, ?_⟩
  rw [State.originate_unheld (s := s') p f hh]
  refine ⟨⟨State.raiseIf_ports _ _ _, State.raiseIf_pool _ _ _, State.raiseIf_tallies _ _ _⟩, ?_, fun g hg => ?_⟩
  · rw [hrecord, State.record_putRecord_same]
  · rw [State.flag_raiseIf, decide_eq_false hg.symm, Bool.and_false, Bool.or_false]
    rfl

/-! ## The copies of an origination (R67) -/

theorem State.mem_upLanes (s : State) (port : Port) : port ∈ s.upLanes ↔ s.isUp port = true ∧ ∃ l, port = .lane l := by
  rw [State.upLanes, List.mem_filter, and_comm]
  refine and_congr_right (fun _ => ?_)
  cases port with
  | lane l => cases l <;> simp
  | bay q => simp

/-- The ports of an origination's copies: the UP lanes, and the UP bay ports of the delivery set but the record's own (R67). -/
theorem State.searchCopies_ports (s : State) (p : BayPort) (h : Nat) (port : Port) :
    port ∈ (s.searchCopies p h).map Copy.port ↔ s.isUp port = true ∧ match port with
      | .lane _ => True
      | .bay q => q ≠ p ∧ (s.record h).config.delivery.getLsbD q.index = true := by
  unfold State.searchCopies State.originationCopies
  rw [List.map_append, List.mem_append, State.injectionCopies_ports, State.mem_upLanes, State.mem_deliveryPorts]
  cases port with
  | lane l => simp
  | bay q =>
    constructor
    · rintro (⟨-, l, hl⟩ | ⟨k, hk, hset, hstruck, hup⟩)
      · cases hl
      · cases hk
        exact ⟨hup, beq_eq_false_iff_ne.mp hstruck, hset⟩
    · rintro ⟨hup, hown, hset⟩
      exact .inr ⟨q, rfl, hset, beq_eq_false_iff_ne.mpr hown, hup⟩

/-- An origination's copies name different ports (R151). -/
theorem State.searchCopies_nodup (s : State) (p : BayPort) (h : Nat) : ((s.searchCopies p h).map Copy.port).Nodup :=
  s.injectionAndDelivery_nodup h h _ _ _

/-- Each copy of an origination is for an UP port and carries its record's handle (R67). -/
theorem State.mem_searchCopies {s : State} {p : BayPort} {h : Nat} {c : Copy} (hc : c ∈ s.searchCopies p h) :
    s.isUp c.port = true ∧ c.carriesHandle = true := by
  have hhandle : c.handle = some h := by
    rcases List.mem_append.mp hc with hi | hd
    · exact (State.mem_injectionCopies hi).2
    · exact (State.mem_deliveryCopies hd).2.1
  exact ⟨((s.searchCopies_ports p h c.port).mp (List.mem_map_of_mem hc)).1, by rw [Copy.carriesHandle, hhandle]; rfl⟩

/-- What the grant of an unheld record's search leaves of one of its copies that has room in the pool and in its port's queue: its
descriptor, the stored frame, "refused" as it was, and one more "injected" when it is an injection copy (R67, R68, R149). -/
theorem State.origination_placed {s t : State} {p : BayPort} {f : RxFrame} {h : Nat} (ht : s.searchTakes p f h)
    (hh : (s.record h).held = false) (hexec : exec (.patternSearch p) s = .next t) {c : Copy}
    (hc : c ∈ (s.looking (.bay p)).searchCopies p h)
    (hadm : admissible (s.record h).config.cls (cellsFor ((s.looking (.bay p)).originatedFrame h f).length) s.freeCells = true)
    (hroom : s.queueFull c.port (s.record h).config.cls = false) :
    ⟨s.nextName, c.form, c.handle⟩ ∈ (t.port c.port).descriptors
      ∧ (∃ g ∈ t.pool, g.name = s.nextName ∧ g.bytes = (s.looking (.bay p)).originatedFrame h f ∧ g.cls = (s.record h).config.cls)
      ∧ (t.record h).counters.refused = (s.record h).counters.refused
      ∧ (c.isInjection = true → (t.record h).counters.injected = bump (s.record h).counters.injected) := by
  obtain ⟨t', hexec', ⟨hports, hpool, -⟩, hrecord, -⟩ := State.searchTakes_spec ht hh
  obtain rfl : t = t' := Host.Outcome.next.inj (hexec.symm.trans hexec')
  have hnodup := (s.looking (.bay p)).searchCopies_nodup p h
  obtain ⟨hup, hcarries⟩ := State.mem_searchCopies hc
  have hfate : (s.looking (.bay p)).fateOf (s.record h).config.cls c = .enqueued :=
    State.fateOf_room _ _ c hup ((s.looking_queueFull _ _ _).trans hroom)
  obtain ⟨hdescriptor, hframe⟩ := (s.looking (.bay p)).requestAdmission_placed _ _ _ [.bay p] hnodup c hc hadm hfate
  have hanswer (which : Copy → Bool) (hw : which c = true) : 0 < answeredEnqueued which ((s.looking (.bay p)).searchCopies p h)
      ((s.looking (.bay p)).originationRequest p f h).2 := by
    have hstored := (s.looking (.bay p)).requestAdmission_stored _ _ _ [.bay p] (List.ne_nil_of_mem hc) hadm
    rw [show (s.looking (.bay p)).originationRequest p f h = _ from hstored, State.storeFrame_fates _ _ _ _ hnodup]
    exact answeredEnqueued_pos which _ _ c hc hw (by rw [hfate]; exact Fate.noConfusion)
  obtain ⟨hrefused, hinjected⟩ := (s.looking (.bay p)).originatedRecord_counters p f h
  have hport : t.port c.port = ((s.looking (.bay p)).originationRequest p f h).1.port c.port := congrArg (PortMap.get · c.port) hports
  rw [hport, hpool, hrecord, hrefused, hinjected]
  refine ⟨hdescriptor, hframe, if_neg (fun hnone => ?_), fun hi => if_pos (hanswer _ hi)⟩
  exact absurd hnone.2 (Nat.ne_of_gt (hanswer _ hcarries))

/-! ## An origination of which no copy is enqueued (R68, R148, R149) -/

theorem answeredEnqueued_nil (which : Copy → Bool) (copies : List Copy) : answeredEnqueued which copies [] = 0 := by
  simp [answeredEnqueued]

/-- A stored frame whose copies are all dropped: their ports count the drops, and no descriptor, tally, cell or flag changes (R149). -/
theorem State.storeFrame_allDropped (s : State) (frame : List Byte) (cls : DataClass) (copies : List Copy)
    (hn : (copies.map Copy.port).Nodup) (hd : ∀ c ∈ copies, s.fateOf cls c = .dropped) :
    let a := s.storeFrame frame cls copies
    (∀ which, answeredEnqueued which copies a.2 = 0) ∧ a.1.pool = s.pool ∧ (∀ k, a.1.tally k = s.tally k) ∧ a.1.flags = s.flags
      ∧ (∀ port d, d ∈ (a.1.port port).descriptors ↔ d ∈ (s.port port).descriptors)
      ∧ ∀ port ∈ copies.map Copy.port, (a.1.port port).counters.queueDrops = bump (s.port port).counters.queueDrops := by
  intro a
  have hnone : enqueuedCount (copies.map (s.fateOf cls)) = 0 := enqueuedCount_append_dropped [] copies _ hd
  have hdropped {port : Port} (hport : port ∈ copies.map Copy.port) :
      (a.1.port port).counters.queueDrops = bump (s.port port).counters.queueDrops
        ∧ ∀ d, d ∈ (a.1.port port).descriptors ↔ d ∈ (s.port port).descriptors := by
    obtain ⟨c, hc, rfl⟩ := List.mem_map.mp hport
    rw [s.storeFrame_port frame cls copies hn c hc, hd c hc]
    exact PortUnit.dropped_port _ _ _ _ _
  refine ⟨fun which => ?_, ?_, fun k => ?_, s.storeFrame_flags frame cls copies, fun port d => ?_, fun port hport => (hdropped hport).1⟩
  · rw [s.storeFrame_fates frame cls copies hn]
    exact answeredEnqueued_zero which copies _ (fun c hc _ => hd c hc)
  · rw [s.storeFrame_pool frame cls copies hn, if_pos hnone]
  · rw [s.storeFrame_tally frame cls copies hn, List.countP_eq_zero.mpr, Nat.add_zero]
    intro c hc hcounts
    exact Fate.noConfusion ((hd c hc).symm.trans (of_decide_eq_true hcounts).1)
  · by_cases hport : port ∈ copies.map Copy.port
    · exact (hdropped hport).2 d
    · rw [s.storeFrame_port_other frame cls copies port hport]

/-- An origination that had copies to make and none of them enqueued counts "refused" and not "injected" (R68). -/
theorem State.origination_uncopied {s t : State} {p : BayPort} {f : RxFrame} {h : Nat} (ht : s.searchTakes p f h)
    (hh : (s.record h).held = false) (hexec : exec (.patternSearch p) s = .next t)
    (hcopies : (s.looking (.bay p)).searchCopies p h ≠ [])
    (hanswer : ∀ which, answeredEnqueued which ((s.looking (.bay p)).searchCopies p h)
      ((s.looking (.bay p)).originationRequest p f h).2 = 0) :
    (t.record h).counters.refused = bump (s.record h).counters.refused
      ∧ (t.record h).counters.injected = (s.record h).counters.injected := by
  obtain ⟨t', hexec', -, hrecord, -⟩ := State.searchTakes_spec ht hh
  obtain rfl : t = t' := Host.Outcome.next.inj (hexec.symm.trans hexec')
  obtain ⟨hrefused, hinjected⟩ := (s.looking (.bay p)).originatedRecord_counters p f h
  rw [hrecord, hrefused, hinjected]
  exact ⟨if_pos ⟨mt List.length_eq_zero_iff.mp hcopies, hanswer _⟩, if_neg (Nat.not_lt.mpr (Nat.le_of_eq (hanswer _)))⟩

/-- An origination whose frame the pool refuses: POOL and the arrival port's "pool refusals", no descriptor, tally or cell (R68, R148). -/
theorem State.origination_refused {s t : State} {p : BayPort} {f : RxFrame} {h : Nat} (ht : s.searchTakes p f h)
    (hh : (s.record h).held = false) (hexec : exec (.patternSearch p) s = .next t)
    (hcopies : (s.looking (.bay p)).searchCopies p h ≠ [])
    (hadm : admissible (s.record h).config.cls (cellsFor ((s.looking (.bay p)).originatedFrame h f).length) s.freeCells = false) :
    ((t.record h).counters.refused = bump (s.record h).counters.refused
        ∧ (t.record h).counters.injected = (s.record h).counters.injected)
      ∧ t.pool = s.pool ∧ t.tallies = s.tallies ∧ (∀ port, (t.port port).descriptors = (s.port port).descriptors)
      ∧ t.flag .pool = true ∧ (t.port (.bay p)).counters.poolRefusals = bump (s.port (.bay p)).counters.poolRefusals := by
  obtain ⟨t', hexec', ⟨hports, hpool, htallies⟩, -, hflags⟩ := State.searchTakes_spec ht hh
  obtain rfl : t = t' := Host.Outcome.next.inj (hexec.symm.trans hexec')
  have hrequest : (s.looking (.bay p)).originationRequest p f h = ((s.looking (.bay p)).refuseFrame [.bay p], []) :=
    State.requestAdmission_refused _ _ _ _ _ hcopies hadm
  have hcounts := State.origination_uncopied ht hh hexec hcopies (fun which => by rw [hrequest, answeredEnqueued_nil])
  rw [hrequest] at hports hpool htallies hflags
  obtain ⟨hpool', htallies', hflag, hcount, hdescriptors⟩ := (s.looking (.bay p)).refuseFrame_spec (.bay p)
  have hport (q : Port) : t.port q = ((s.looking (.bay p)).refuseFrame [.bay p]).port q := congrArg (PortMap.get · q) hports
  refine ⟨hcounts, hpool.trans hpool', htallies.trans htallies', fun q => ?_, (hflags _ Flag.noConfusion).trans hflag, ?_⟩
  · rw [hport, hdescriptors, s.looking_descriptors]
  · rw [hport, hcount, State.looking_port, if_pos rfl]; rfl

/-- An origination whose copies all meet full queues: "queue drops" on each of their ports, no descriptor, tally, cell or flag POOL
(R68, R149). -/
theorem State.origination_dropped {s t : State} {p : BayPort} {f : RxFrame} {h : Nat} (ht : s.searchTakes p f h)
    (hh : (s.record h).held = false) (hexec : exec (.patternSearch p) s = .next t)
    (hcopies : (s.looking (.bay p)).searchCopies p h ≠ [])
    (hadm : admissible (s.record h).config.cls (cellsFor ((s.looking (.bay p)).originatedFrame h f).length) s.freeCells = true)
    (hfull : ∀ port ∈ ((s.looking (.bay p)).searchCopies p h).map Copy.port, s.queueFull port (s.record h).config.cls = true) :
    ((t.record h).counters.refused = bump (s.record h).counters.refused
        ∧ (t.record h).counters.injected = (s.record h).counters.injected)
      ∧ t.pool = s.pool ∧ (∀ k, t.tally k = s.tally k)
      ∧ (∀ port d, d ∈ (t.port port).descriptors ↔ d ∈ (s.port port).descriptors)
      ∧ t.flag .pool = s.flag .pool
      ∧ ∀ port ∈ ((s.looking (.bay p)).searchCopies p h).map Copy.port,
          (t.port port).counters.queueDrops = bump (s.port port).counters.queueDrops := by
  obtain ⟨t', hexec', ⟨hports, hpool, htallies⟩, -, hflags⟩ := State.searchTakes_spec ht hh
  obtain rfl : t = t' := Host.Outcome.next.inj (hexec.symm.trans hexec')
  have hrequest : (s.looking (.bay p)).originationRequest p f h = (s.looking (.bay p)).storeFrame
      ((s.looking (.bay p)).originatedFrame h f) (s.record h).config.cls ((s.looking (.bay p)).searchCopies p h) :=
    State.requestAdmission_stored _ _ _ _ _ hcopies hadm
  obtain ⟨hanswer, hpool', htally', hflags', hdescriptors, hdrops⟩ := (s.looking (.bay p)).storeFrame_allDropped
    ((s.looking (.bay p)).originatedFrame h f) (s.record h).config.cls _ ((s.looking (.bay p)).searchCopies_nodup p h)
    (fun c hc => State.fateOf_dropped _ _ c (State.mem_searchCopies hc).1
      ((s.looking_queueFull _ _ _).trans (hfull _ (List.mem_map_of_mem hc))))
  have hcounts := State.origination_uncopied ht hh hexec hcopies (fun which => by rw [hrequest, hanswer])
  rw [← hrequest] at hpool' htally' hflags' hdescriptors hdrops
  have hport (q : Port) : t.port q = ((s.looking (.bay p)).originationRequest p f h).1.port q := congrArg (PortMap.get · q) hports
  refine ⟨hcounts, hpool.trans hpool', fun k => (congrArg (Sparse.get 0 · k) htallies).trans (htally' k), fun q d => ?_,
    (hflags _ Flag.noConfusion).trans (congrArg (BitVec.getLsbD · Flag.pool.bit) hflags'), fun q hq => ?_⟩
  · rw [hport, hdescriptors, s.looking_descriptors]
  · rw [hport, hdrops q hq, State.looking_port]
    split
    · rename_i h
      rw [h]; rfl
    · rfl

/-- Settles O30, from what the grant leaves of one copy that has room, and from a frame the pool refuses and one whose copies all meet full
queues. -/
theorem originatedFrameIsTaggedInjectedAndDelivered : Obligations.OriginatedFrameIsTaggedInjectedAndDelivered := by
  intro p f h s ht r tag frame hasRoom hh
  obtain ⟨t, hexec, ⟨hports, -, -⟩, -⟩ := State.searchTakes_spec ht hh
  have hroomFull {port : Port} (hq : ((s.port port).queue r.config.cls).length < s.settings.queueCap r.config.cls) :
      s.queueFull port r.config.cls = false := decide_eq_false (Nat.not_le.mpr hq)
  have injection {l : Lane} (hroom : hasRoom (.lane l)) :=
    State.origination_placed ht hh hexec
      (List.mem_append_left _ (State.injectionCopy_mem h .asStored ((s.looking_isUp (.bay p) (.lane l)).trans hroom.1)))
      hroom.2.1 (hroomFull hroom.2.2)
  have delivery {q : BayPort} (hown : q ≠ p) (hdel : r.config.delivery.getLsbD q.index = true) (hroom : hasRoom (.bay q)) :=
    State.origination_placed ht hh hexec
      (List.mem_append_right _ (State.deliveryCopy_mem h hdel (beq_eq_false_iff_ne.mpr hown)
        ((s.looking_isUp (.bay p) (.bay q)).trans hroom.1))) hroom.2.1 (hroomFull hroom.2.2)
  have copyPorts (port : Port) := (s.looking (.bay p)).searchCopies_ports p h port
  simp only [s.looking_isUp] at copyPorts
  refine ⟨t, hexec, fun l hroom => ?_, fun q hown hdel hroom => ?_, ?_, ?_, ?_⟩
  · obtain ⟨hdescriptor, -, -, hinjected⟩ := injection hroom
    exact ⟨hdescriptor, hinjected rfl⟩
  · obtain ⟨hdescriptor, -⟩ := delivery hown hdel hroom
    exact hdescriptor
  · rintro (⟨l, hroom⟩ | ⟨q, hown, hdel, hroom⟩)
    · obtain ⟨-, hframe, hrefused, -⟩ := injection hroom
      exact ⟨hframe, hrefused⟩
    · obtain ⟨-, hframe, hrefused, -⟩ := delivery hown hdel hroom
      exact ⟨hframe, hrefused⟩
  · have hport : t.port (.bay p) = ((s.looking (.bay p)).originationRequest p f h).1.port (.bay p) :=
      congrArg (PortMap.get · (.bay p)) hports
    rw [hport, ← s.looking_descriptors (.bay p) (.bay p)]
    refine State.requestAdmission_descriptors_other _ _ _ _ _ (fun hmem => ?_)
    obtain ⟨-, hown, -⟩ := (copyPorts (.bay p)).mp hmem
    exact hown rfl
  · rintro wanted ⟨port, hw⟩ hnone
    have hcopies : (s.looking (.bay p)).searchCopies p h ≠ [] := by
      intro hnil
      have hmem := (copyPorts port).mpr hw
      rw [hnil] at hmem
      exact List.not_mem_nil hmem
    cases hadm : admissible r.config.cls (cellsFor frame.length) s.freeCells with
    | false =>
      obtain ⟨⟨hrefused, hinjected⟩, hpool, htallies, hdescriptors, hflag, hcount⟩ :=
        State.origination_refused ht hh hexec hcopies hadm
      exact ⟨hrefused, hinjected, hpool, fun k => congrArg (Sparse.get 0 · k) htallies, fun q d => by rw [hdescriptors],
        fun _ => ⟨hflag, hcount⟩, fun h => absurd h Bool.false_ne_true⟩
    | true =>
      obtain ⟨⟨hrefused, hinjected⟩, hpool, htally, hdescriptors, hflag, hdrops⟩ :=
        State.origination_dropped ht hh hexec hcopies hadm (fun q hq => by
          have hwanted := (copyPorts q).mp hq
          exact decide_eq_true (Nat.not_lt.mp (fun hroom => hnone q hwanted ⟨hwanted.1, hadm, hroom⟩)))
      exact ⟨hrefused, hinjected, hpool, htally, hdescriptors, fun h => absurd h Bool.noConfusion,
        fun _ => ⟨hflag, fun q hq => hdrops q ((copyPorts q).mpr hq)⟩⟩

end Sys2Proof.Machine
end

section
namespace Sys2Proof.Machine

/-! ## Sweep period boundaries (R79 to R81, R91) -/

/-- A boundary is due when the image load has ended and the clock is at the period's end or past it by less than half its range (log 24). -/
theorem State.sweepDue_iff (s : State) :
    s.sweepDue = true ↔
      s.ready = true ∧ (s.bayClock - (s.sweep.periodStart + s.sweep.periodLength)).toNat ≤ 0x7FFFFFFF := by
  rw [State.sweepDue, Bool.and_eq_true_iff, hasReached_iff]
  rfl

theorem Sweep.running_iff (w : Sweep) : w.running = true ↔ w.position < 512 := decide_eq_true_iff

theorem exec_sweepPeriodBoundary {s : State} (hdue : s.sweepDue = true) :
    exec .sweepPeriodBoundary s = .next (if s.sweep.running then s.nextPeriod.overrun else s.nextPeriod.startPass) :=
  congrArg Host.Outcome.next (if_pos hdue)

/-- Settles O38: a pass running at the boundary makes it an overrun, and with none the new position is the first that `nextVisit` finds
from handle 0. -/
theorem sweepBoundaryStartsAPassOrOverruns : Obligations.SweepBoundaryStartsAPassOrOverruns := by
  intro s hready hreached start length
  have hexec := exec_sweepPeriodBoundary (s.sweepDue_iff.mpr ⟨hready, hreached⟩)
  refine ⟨fun hrunning => ?_, fun hstopped => ?_⟩
  · rw [hexec, if_pos (s.sweep.running_iff.mpr hrunning)]
    rfl
  · rw [if_neg (mt s.sweep.running_iff.mp (Nat.not_lt.mpr hstopped))] at hexec
    obtain ⟨-, -, hclaimed, hpassed⟩ := s.settings.nextVisit_spec (Nat.zero_le 512)
    exact ⟨s.nextPeriod.startPass, hexec, rfl, hclaimed, fun k hk _ => hpassed k (Nat.zero_le k) hk⟩

/-! ## Steps with no command waiting (R170; log 1) -/

theorem step_of_no_command {s : State} (h : s.pending = []) : step s = s.idle := by
  rw [step, h]

/-- Settles O2: each case goes down the order of the units to the first whose time has come. -/
theorem idleStepRunsADueUnitOrCountsAMicrosecond : Obligations.IdleStepRunsADueUnitOrCountsAMicrosecond := by
  intro s hempty
  rw [step_of_no_command hempty, State.idle]
  have notDue {b : Bool} (h : b = false) : ¬ b = true := Bool.eq_false_iff.mp h
  have noProbe (h : s.probeDue = none) : ¬ s.probeDue.isSome = true := Option.not_isSome_iff_eq_none.mpr h
  refine ⟨fun hsweep => ?_, fun hsweep hprobe => ?_, fun hsweep hprobe hlaneA => ?_, fun hsweep hprobe hlaneA hlaneB => ?_,
    fun hsweep hprobe hlaneA hlaneB => ?_⟩
  · rw [if_pos hsweep]
    rfl
  · rw [if_neg (notDue hsweep), if_pos hprobe]
    rfl
  · rw [if_neg (notDue hsweep), if_neg (noProbe hprobe), if_pos hlaneA]
    rfl
  · rw [if_neg (notDue hsweep), if_neg (noProbe hprobe), if_neg (notDue hlaneA), if_pos hlaneB]
    rfl
  · rw [if_neg (notDue hsweep), if_neg (noProbe hprobe), if_neg (notDue hlaneA), if_neg (notDue hlaneB)]
    rfl

end Sys2Proof.Machine
end

section
namespace Sys2Proof.Machine

/-! ## Timed commands at their claim (R95, R159, R161) -/

/-- The grant in hand at a claim is the one in hand still, else the low claim whose turn it is (log 35). -/
theorem or_lowTurn_eq (inHand lowTurn : Option LowClaim) : inHand.or lowTurn = if inHand = none then lowTurn else inHand := by
  cases inHand with
  | none => rfl
  | some claim => rfl

/-- A timed command on a ready part claims the table, or finds BUSY (R161). -/
theorem State.claimTimed_judged (s : State) (kind : TimedKind) (h : Word) (copy : List Byte) (hr : s.ready = true) :
    (s.inFlight = none → s.claimTimed kind (.whole h) copy = { s with
        spiOut := [s.statusByte], inFlight := some ⟨kind, h, copy⟩, inHand := if s.inHand = none then s.lowTurn else s.inHand })
      ∧ (s.inFlight ≠ none → s.claimTimed kind (.whole h) copy = { s with spiOut := [s.statusByte], lastResult := .busy }) := by
  rw [← or_lowTurn_eq]
  exact ⟨s.claimTimed_free kind h copy hr, s.claimTimed_busy kind h copy hr⟩

/-- Settles O45: each of the seven commands is the one claim, of its own kind and with its own copy. -/
theorem timedCommandClaimsOrIsBusy : Obligations.TimedCommandClaimsOrIsBusy := by
  intro h s hr claims
  have claimed (i : Instr) (kind : TimedKind) (copy : List Byte) (hi : exec i s = .next (s.claimTimed kind (.whole h) copy)) :
      claims i kind copy := by
    obtain ⟨hfree, hbusy⟩ := s.claimTimed_judged kind h copy hr
    exact ⟨fun hf => hi.trans (congrArg _ (hfree hf)), fun hf => hi.trans (congrArg _ (hbusy hf))⟩
  exact ⟨claimed _ _ _ rfl, claimed _ _ _ rfl, claimed _ _ _ rfl, claimed _ _ _ rfl, claimed _ _ _ rfl, claimed _ _ _ rfl,
    claimed _ _ _ rfl⟩

/-! ## Timed operations at their grants: the answer and the record written (R96) -/

theorem RecState.occupied_iff (st : RecState) : st.occupied = true ↔ st ≠ .free ∧ st ≠ .retiring := by
  cases st <;> decide

/-- At its turn an operation's own answer ends it. -/
theorem State.grantTimed_answer {s t : State} {kind : TimedKind} {h : Nat} {copy : List Byte} {r : Result}
    {op : State → Nat → List Byte → State × Result} (ht : s.timedTurn kind h copy) (ho : op s h copy = (t, r)) :
    s.grantTimed kind op = t.ended r := by
  rw [State.grantTimed_turn s kind h copy op ht, ho]

/-- An operation that writes its record has moved nothing else when it ends with DONE. -/
theorem State.ended_putRecord (s : State) (h : Nat) (r : Record) :
    (s.putRecord h r).ended .done = { s.ended .done with table := ((s.putRecord h r).ended .done).table }
      ∧ ((s.putRecord h r).ended .done).record h = r ∧ s.otherRecordsKept ((s.putRecord h r).ended .done) h :=
  ⟨rfl, s.record_putRecord_same h r, fun _ hk => s.record_putRecord_other r hk⟩

/-- The check that opens every operation on a standing record: the handle names one (R100, R102, R104). -/
theorem standing_record {h : Nat} {r : Record} (hh : h ≤ 511) (hs : r.state ≠ .free) : ¬ (511 < h ∨ r.state = .free) := by
  rintro (hhigh | hfree)
  · exact Nat.not_lt.mpr hh hhigh
  · exact hs hfree

theorem RecState.retiring_ne_free {st : RecState} (h : st = .retiring) : st ≠ .free := by
  rw [h]; decide

/-! ## INSTALL (R98, R99) -/

theorem Record.holds_iff (r : Record) (origin : BitVec 6) (stream : BitVec 14) :
    r.holds origin stream = true ↔ r.state.occupied = true ∧ r.config.origin = origin ∧ r.config.stream = stream := by
  rw [Record.holds, Bool.and_eq_true_iff, Bool.and_eq_true_iff, beq_iff_eq, beq_iff_eq, and_assoc]

/-- A key is held when a listed record in ARMED, LIVE, SINGLE or SILENT has it (R21). -/
theorem State.keyHeld_iff (s : State) (origin : BitVec 6) (stream : BitVec 14) :
    s.keyHeld origin stream = true ↔ ∃ k r, (k, r) ∈ s.table ∧ r.state.occupied = true
      ∧ r.config.origin = origin ∧ r.config.stream = stream := by
  rw [State.keyHeld, State.findKey, Option.isSome_map, List.find?_isSome, Prod.exists]
  simp only [Record.holds_iff]

/-- Settles O33: the checks of R98 are the branches of the operation, in their order. -/
theorem installGrantChecksInOrder : Obligations.InstallGrantChecksInOrder := by
  intro h copy s ht keyHeld
  have grant {t : State} {r : Result} (ho : s.installOp h copy = (t, r)) : exec .installGrant s = .next (t.ended r) :=
    congrArg _ (State.grantTimed_answer ht ho)
  refine ⟨fun hh => grant (if_pos hh), fun hh hf => grant ?_, fun hh hf hs => grant ?_, fun hh hf hs hp => grant ?_,
    fun c hh hf hs hp => ?_⟩
  · rw [State.installOp, if_neg (Nat.not_lt.mpr hh), if_pos hf]
  · rw [State.installOp, if_neg (Nat.not_lt.mpr hh), if_neg (Bool.eq_false_iff.mp hf), if_pos hs]
  · rw [State.installOp, if_neg (Nat.not_lt.mpr hh), if_neg (Bool.eq_false_iff.mp hf), if_neg (fun hn => hn hs), hp]
  · have judged : s.installOp h copy = if s.keyHeld c.origin c.stream then (s, .keyInUse) else (s.putRecord h (.installed c), .done) := by
      rw [State.installOp, if_neg (Nat.not_lt.mpr hh), if_neg (Bool.eq_false_iff.mp hf), if_neg (fun hn => hn hs), hp]
    have held_iff : s.keyHeld c.origin c.stream = true ↔ keyHeld c := s.keyHeld_iff _ _
    exact ⟨fun hk => grant (judged.trans (if_pos (held_iff.mpr hk))),
      fun hk => ⟨_, grant (judged.trans (if_neg (mt held_iff.mp hk))), s.ended_putRecord h (.installed c)⟩⟩

/-! ## AMEND (R100, R101) -/

theorem StreamConfig.sameStream_iff (c c' : StreamConfig) :
    c.sameStream c' = true ↔ c.kind = c'.kind ∧ c.legMode = c'.legMode ∧ c.origin = c'.origin ∧ c.stream = c'.stream := by
  simp [StreamConfig.sameStream, and_assoc]

/-- An AMEND of a record that stands in an unfrozen segment and is not RETIRING hangs on the configuration its copy presents. -/
theorem State.amendOp_judged (s : State) {h : Nat} (copy : List Byte) (hh : h ≤ 511) (ho : (s.record h).state.occupied = true)
    (hf : s.settings.frozen h = false) :
    (s.amendment (s.record h) copy = none → s.amendOp h copy = (s, .badValue))
      ∧ ∀ c, s.amendment (s.record h) copy = some c → s.amendOp h copy = (s.putRecord h { s.record h with config := c }, .done) := by
  obtain ⟨hfree, hretiring⟩ := (RecState.occupied_iff _).mp ho
  rw [State.amendOp, if_neg (standing_record hh hfree), if_neg (Bool.eq_false_iff.mp hf), if_neg hretiring]
  exact ⟨fun hnone => by rw [hnone], fun c hsome => by rw [hsome]⟩

/-- Settles O34: the checks of R100 are the branches of the operation, in their order. -/
theorem amendGrantKeepsTheRuntimeFields : Obligations.AmendGrantKeepsTheRuntimeFields := by
  intro h copy s ht r same
  have grant {t : State} {r : Result} (ho : s.amendOp h copy = (t, r)) : exec .amendGrant s = .next (t.ended r) :=
    congrArg _ (State.grantTimed_answer ht ho)
  refine ⟨fun hno => grant (if_pos hno), fun hh hs hf => grant ?_, fun hh hf hs => grant ?_, fun hh ho hf hc => ?_,
    fun c hh ho hf hp hc => ?_⟩
  · rw [State.amendOp, if_neg (standing_record hh hs), if_pos hf]
  · rw [State.amendOp, if_neg (standing_record hh (RecState.retiring_ne_free hs)), if_neg (Bool.eq_false_iff.mp hf), if_pos hs]
  · have none_presented : s.amendment r copy = none :=
      Option.filter_eq_none_iff.mpr fun c hp hsame => hc c hp ((StreamConfig.sameStream_iff c _).mp hsame)
    exact grant ((s.amendOp_judged copy hh ho hf).1 none_presented)
  · have presented_same : s.amendment r copy = some c :=
      Option.filter_eq_some_iff.mpr ⟨hp, (StreamConfig.sameStream_iff c _).mpr hc⟩
    exact ⟨_, grant ((s.amendOp_judged copy hh ho hf).2 c presented_same), s.ended_putRecord h _⟩

/-! ## RETIRE (R102) -/

/-- Settles O35: the checks of R102 are the branches of the operation, and the tally chooses between FREE and RETIRING. -/
theorem retireGrantFreesOrDrains : Obligations.RetireGrantFreesOrDrains := by
  intro h copy s ht r
  have grant {t : State} {r : Result} (ho : s.retireOp h copy = (t, r)) : exec .retireGrant s = .next (t.ended r) :=
    congrArg _ (State.grantTimed_answer ht ho)
  refine ⟨fun hno => grant (if_pos hno), fun hh hs hf => grant ?_, fun hh hf hs => grant ?_, fun hh ho hf => ?_⟩
  · rw [State.retireOp, if_neg (standing_record hh hs), if_pos hf]
  · rw [State.retireOp, if_neg (standing_record hh (RecState.retiring_ne_free hs)), if_neg (Bool.eq_false_iff.mp hf), if_pos hs]
  · obtain ⟨hfree, hretiring⟩ := (RecState.occupied_iff _).mp ho
    have retires : s.retireOp h copy = (s.putRecord h (r.retired (s.tally h)), .done) := by
      rw [State.retireOp, if_neg (standing_record hh hfree), if_neg (Bool.eq_false_iff.mp hf), if_neg hretiring]
    obtain ⟨hrest, hrecord, hothers⟩ := s.ended_putRecord h (r.retired (s.tally h))
    exact ⟨_, grant retires, hrest, hothers, hrecord⟩

/-! ## HOLD and RELEASE (R104) -/

/-- Both operations at their grants, by the flag they set. -/
theorem State.heldGrant_judged (s : State) {kind : TimedKind} {h : Nat} {copy : List Byte} (flag : Bool) (ht : s.timedTurn kind h copy) :
    let r := s.record h
    let granted := s.grantTimed kind (State.heldOp flag)
    (511 < h ∨ r.state = .free → granted = s.ended .noSuchRecord)
      ∧ (h ≤ 511 → r.state = .retiring → granted = s.ended .wrongState)
      ∧ (h ≤ 511 → r.state.occupied = true → granted = (s.putRecord h { r with held := flag }).ended .done) := by
  intro r granted
  refine ⟨fun hno => State.grantTimed_answer ht (if_pos hno), fun hh hs => State.grantTimed_answer ht ?_,
    fun hh ho => State.grantTimed_answer ht ?_⟩
  · rw [State.heldOp, if_neg (standing_record hh (RecState.retiring_ne_free hs)), if_pos hs]
  · obtain ⟨hfree, hretiring⟩ := (RecState.occupied_iff _).mp ho
    rw [State.heldOp, if_neg (standing_record hh hfree), if_neg hretiring]

/-- Settles O36: HOLD and RELEASE are one operation with the flag set or clear. -/
theorem holdAndReleaseMoveTheHeldFlagAlone : Obligations.HoldAndReleaseMoveTheHeldFlagAlone := by
  intro kind grant flag hkind h copy s ht r
  have granted : exec grant s = .next (s.grantTimed kind (State.heldOp flag)) := by
    obtain ⟨rfl, rfl, rfl⟩ | ⟨rfl, rfl, rfl⟩ := hkind
    · rfl
    · rfl
  obtain ⟨hnone, hretiring, hheld⟩ := s.heldGrant_judged flag ht
  rw [granted]
  exact ⟨fun hno => congrArg _ (hnone hno), fun hh hs => congrArg _ (hretiring hh hs),
    fun hh ho => ⟨_, congrArg _ (hheld hh ho), s.ended_putRecord h _⟩⟩

end Sys2Proof.Machine
end

section
namespace Sys2Proof.Machine

/-! ## FREEZE and PROBE MISS LIMIT (R111, R137) -/

theorem exec_freezeWrite (x : Word) (s : State) :
    exec (.freezeWrite x) s = .next (s.immediate (.whole x) 3 (fun y => silently (s.writeFreeze y))) := rfl

theorem exec_probeMissLimitWrite (x : Word) (s : State) :
    exec (.probeMissLimitWrite x) s = .next (s.immediate (.whole x) 3 (fun y => silently (s.writeMissLimit y))) := rfl

/-- A FREEZE write is judged by its range alone (R111). -/
theorem freezeWrite_judged (x : Word) (s : State) (hr : s.ready = true) :
    (x.toNat ≤ 0xFF → exec (.freezeWrite x) s = .next (s.replied (s.putSetting .freeze (s.settings.freeze ||| x)) 3 .done []))
      ∧ (0xFF < x.toNat → exec (.freezeWrite x) s = .next (s.replied s 3 .badValue [])) := by
  rw [exec_freezeWrite]
  exact ⟨fun h => congrArg _ (s.immediate_silently x _ hr (if_neg (Nat.not_lt.mpr h))),
    fun h => congrArg _ (s.immediate_silently x _ hr (if_pos h))⟩

theorem missLimit_inRange_iff (x : Word) : SettingId.probeMissLimit.inRange x = true ↔ 1 ≤ x.toNat ∧ x.toNat ≤ 15 := by
  rw [SettingId.inRange, Bool.and_eq_true_iff, decide_eq_true_iff, decide_eq_true_iff]

/-- A PROBE MISS LIMIT write is judged by its range alone, and sets the ring state anew (R137). -/
theorem probeMissLimitWrite_judged (x : Word) (s : State) (hr : s.ready = true) :
    (1 ≤ x.toNat → x.toNat ≤ 15 →
        exec (.probeMissLimitWrite x) s = .next (s.replied (s.putSetting .probeMissLimit x).judgeRing 3 .done []))
      ∧ (x = 0 ∨ 15 < x.toNat → exec (.probeMissLimitWrite x) s = .next (s.replied s 3 .badValue [])) := by
  rw [exec_probeMissLimitWrite]
  refine ⟨fun h1 h15 => congrArg _ (s.immediate_silently x _ hr (if_pos ?_)),
    fun hout => congrArg _ (s.immediate_silently x _ hr (if_neg ?_))⟩
  · exact (missLimit_inRange_iff x).mpr ⟨h1, h15⟩
  · rw [missLimit_inRange_iff]
    rw [← Word.toNat_eq_zero] at hout
    omega

/-- What the ring state set anew at a setting's write leaves: the setting, the ring state and its flag, and nothing else (R137). -/
theorem State.judgeRing_putSetting (s : State) (n : SettingId) (x : Word) :
    let t := (s.putSetting n x).judgeRing
    t.settings = s.settings.set n x ∧ s.ringFollows t false
      ∧ t = { s with settings := t.settings, flags := t.flags, probe := { s.probe with ring := t.probe.ring } } := by
  intro t
  have touched : t = { s with settings := s.settings.set n x, flags := t.flags, probe := { s.probe with ring := t.probe.ring } } :=
    (s.putSetting n x).judgeRing_eq
  have settings : t.settings = s.settings.set n x := congrArg State.settings touched
  refine ⟨settings, State.ringFollows_judgeRing rfl rfl rfl, ?_⟩
  rw [settings]
  exact touched

/-! ## The table of ring states (R137) -/

theorem State.lanesUp_iff (s : State) : s.lanesUp = true ↔ (s.port (.lane .a)).state = .up ∧ (s.port (.lane .b)).state = .up := by
  rw [State.lanesUp, Bool.and_eq_true_iff, State.isUp, State.isUp, beq_iff_eq, beq_iff_eq]

/-- With both lanes UP on a node with a number the miss counts choose the row. -/
theorem State.ringNow_lanesUp (s : State) (hn : s.settings.node ≠ 0) (hl : s.lanesUp = true) :
    s.ringNow =
      if s.settings.probeMissLimit.toNat ≤ s.probe.missA.toNat ∨ s.settings.probeMissLimit.toNat ≤ s.probe.missB.toNat then .isOpen
      else if s.probe.missA ≠ 0 ∨ s.probe.missB ≠ 0 then .suspect else .closed := by
  rw [State.ringNow, if_neg hn, hl]
  rfl

theorem missCount_ne_zero (n : BitVec 4) : n ≠ 0 ↔ 1 ≤ n.toNat := by bv_omega

/-- The ring state set anew is that of R137's table, row by row. -/
theorem State.ringNow_table (s : State) :
    let lanesUp := (s.port (.lane .a)).state = .up ∧ (s.port (.lane .b)).state = .up
    let limit := s.settings.probeMissLimit.toNat
    let a := s.probe.missA.toNat
    let b := s.probe.missB.toNat
    (s.settings.node = 0 → s.ringNow = .noRing)
      ∧ (s.settings.node ≠ 0 → ¬ lanesUp → s.ringNow = .isOpen)
      ∧ (s.settings.node ≠ 0 → lanesUp → limit ≤ a ∨ limit ≤ b → s.ringNow = .isOpen)
      ∧ (s.settings.node ≠ 0 → lanesUp → a < limit → b < limit → 1 ≤ a ∨ 1 ≤ b → s.ringNow = .suspect)
      ∧ (s.settings.node ≠ 0 → lanesUp → 0 < limit → a = 0 → b = 0 → s.ringNow = .closed) := by
  intro lanesUp limit a b
  rw [show lanesUp ↔ _ from s.lanesUp_iff.symm]
  have suspect_iff : (s.probe.missA ≠ 0 ∨ s.probe.missB ≠ 0) ↔ 1 ≤ a ∨ 1 ≤ b := by rw [missCount_ne_zero, missCount_ne_zero]
  refine ⟨fun hn => if_pos hn, fun hn hl => ?_, fun hn hl hopen => ?_, fun hn hl ha hb hmiss => ?_, fun hn hl hlimit ha hb => ?_⟩
  · rw [s.ringNow_lanesDown (Bool.eq_false_iff.mpr hl), if_neg hn]
  · rw [s.ringNow_lanesUp hn hl, if_pos hopen]
  · rw [s.ringNow_lanesUp hn hl, if_neg (by omega), if_pos (suspect_iff.mpr hmiss)]
  · rw [s.ringNow_lanesUp hn hl, if_neg (by omega), if_neg (mt suspect_iff.mp (by omega))]

/-- Settles O50, from the judgement of the two writes and the table of ring states. -/
theorem freezeAndMissLimitWritesAndTheRingStateTable : Obligations.FreezeAndMissLimitWritesAndTheRingStateTable := by
  refine ⟨fun x s hr => ?_, State.ringNow_table⟩
  obtain ⟨hfreeze, hfreezeOut⟩ := freezeWrite_judged x s hr
  obtain ⟨hlimit, hlimitOut⟩ := probeMissLimitWrite_judged x s hr
  exact ⟨hfreeze, hfreezeOut, fun h1 h15 => ⟨_, hlimit h1 h15, s.judgeRing_putSetting .probeMissLimit x⟩, hlimitOut⟩

/-! ## Bytes of a layout, by their place (R178) -/

theorem byteAt_eq (bytes : List Byte) (i : Nat) : byteAt bytes i = bytes[i]?.getD 0 := List.getD_eq_getElem?_getD

theorem byteAt_append_left {a : List Byte} (b : List Byte) {i : Nat} (h : i < a.length) : byteAt (a ++ b) i = byteAt a i := by
  rw [byteAt_eq, byteAt_eq, List.getElem?_append_left h]

theorem byteAt_append_right (a b : List Byte) {i : Nat} (h : a.length ≤ i) : byteAt (a ++ b) i = byteAt b (i - a.length) := by
  rw [byteAt_eq, byteAt_eq, List.getElem?_append_right h]

/-- Past its end a layout reads 0x00. -/
theorem byteAt_past {bytes : List Byte} {i : Nat} (h : bytes.length ≤ i) : byteAt bytes i = 0 := by
  rw [byteAt_eq, List.getElem?_eq_none h, Option.getD_none]

theorem byteAt_take (bytes : List Byte) {n i : Nat} (h : i < n) : byteAt (bytes.take n) i = byteAt bytes i := by
  rw [byteAt_eq, byteAt_eq, List.getElem?_take_of_lt h]

theorem byteAt_drop (bytes : List Byte) (n i : Nat) : byteAt (bytes.drop n) i = byteAt bytes (n + i) := by
  rw [byteAt_eq, byteAt_eq, List.getElem?_drop]

/-! ## Staging writes and view reads (R94, R105) -/

/-- A write over bytes puts its data from the offset on, as far as the old bytes reach, and leaves the rest (R94). -/
theorem byteAt_overlay (old : List Byte) (offset : Nat) (data : List Byte) {i : Nat} (hi : i < old.length) :
    byteAt (overlay old offset data) i =
      if offset ≤ i ∧ i < offset + data.length then byteAt data (i - offset) else byteAt old i := by
  have hbefore : (old.take offset).length = min offset old.length := List.length_take
  have hwritten : (data.take (old.length - offset)).length = min (old.length - offset) data.length := List.length_take
  rw [overlay, List.append_assoc]
  by_cases hlow : i < offset
  · rw [if_neg (by omega), byteAt_append_left _ (by omega), byteAt_take _ hlow]
  · rw [byteAt_append_right _ _ (by omega), show i - (old.take offset).length = i - offset by omega]
    by_cases hin : i < offset + data.length
    · rw [if_pos (by omega), byteAt_append_left _ (by omega), byteAt_take _ (by omega)]
    · rw [if_neg (by omega), byteAt_append_right _ _ (by omega), byteAt_drop]
      congr 1
      omega

/-- A read of a view gives its bytes from the offset on, and 0x00 past its end (R105). -/
theorem byteAt_viewBytes (view : List Byte) (offset : Nat) {length i : Nat} (hi : i < length) :
    byteAt (viewBytes view offset length) i = byteAt view (offset + i) := by
  rw [byteAt_eq, viewBytes, List.getElem?_map, List.getElem?_range hi]
  rfl

theorem viewBytes_length (view : List Byte) (offset length : Nat) : (viewBytes view offset length).length = length := by
  rw [viewBytes, List.length_map, List.length_range]

theorem exec_stageWrite_whole (s : State) (offset : Byte) (data : List Byte) (hr : s.ready = true) :
    exec (.stageWrite (.whole (offset, data))) s = .next (s.replied (s.writeStage offset data) 1 .done []) :=
  congrArg _ (s.immediate_whole _ _ _ hr)

theorem exec_stageRead (s : State) (hr : s.ready = true) : exec .stageRead s = .next (s.replied s 0 .done s.staging) :=
  congrArg _ (s.immediate_whole _ _ _ hr)

theorem exec_viewRead_whole (s : State) (offset length : Byte) (hr : s.ready = true) :
    exec (.viewRead (.whole (offset, length))) s =
      .next (s.replied s 2 .done (viewBytes s.frontView offset.toNat length.toNat)) :=
  congrArg _ (s.immediate_whole _ _ _ hr)

/-! ## Attention reads (R110) -/

theorem exec_attentionRead (s : State) (hr : s.ready = true) :
    exec .attentionRead s =
      .next (s.replied { s with cursor := cursorAfter s.cursor s.chosenHandles } 0 .done (handleBytes s.chosenHandles)) :=
  congrArg _ (s.immediate_whole _ _ _ hr)

theorem State.chosenHandles_of_empty {s : State} (h : s.attentionSet = []) : s.chosenHandles = [] := by
  rw [State.chosenHandles, h]
  rfl

/-- A read chooses handles of the attention set alone. -/
theorem State.mem_attentionSet_of_chosen {s : State} {h : Nat} (hc : h ∈ s.chosenHandles) : h ∈ s.attentionSet :=
  (List.mem_append.mp (List.mem_of_mem_take hc)).elim (fun hm => (List.mem_filter.mp hm).1) (fun hm => (List.mem_filter.mp hm).1)

/-- In a canonical table the handles of the attention set are those of records with their mark. -/
theorem State.inAttention_of_mem {s : State} {h : Nat} (hw : Sparse.wf Record.free s.table = true) (hm : h ∈ s.attentionSet) :
    (s.record h).inAttention = true := by
  obtain ⟨⟨k, r⟩, hlisted, rfl⟩ := List.mem_map.mp hm
  obtain ⟨htable, hmark⟩ := List.mem_filter.mp hlisted
  rw [State.record, Sparse.get_of_mem _ _ hw htable]
  exact hmark

/-- Settles O51, from what each of the four commands answers. -/
theorem stagingViewAndAttentionCommands : Obligations.StagingViewAndAttentionCommands := by
  refine ⟨fun offset length data s hr hstaging hview => ⟨?_, exec_stageRead s hr, ?_⟩, fun s hr => ?_⟩
  · exact ⟨_, exec_stageWrite_whole s offset data hr, rfl, (overlay_length _ _ _).trans hstaging,
      fun i hi => byteAt_overlay _ _ _ (hstaging ▸ hi)⟩
  · refine ⟨_, exec_viewRead_whole s offset length hr, viewBytes_length _ _ _, fun i hi => ?_⟩
    rw [byteAt_viewBytes _ _ hi]
    split
    · rfl
    · exact byteAt_past (by omega)
  · intro set chosen
    refine ⟨_, exec_attentionRead s hr, rfl, List.length_take_le _ _, fun hempty => ?_, fun h hlast => ?_, fun h hc => ?_⟩
    · rw [State.chosenHandles_of_empty hempty]
      rfl
    · show cursorAfter s.cursor chosen = _
      rw [cursorAfter, hlast]
    · cases hw : Sparse.wf Record.free s.table with
      | true => exact .inl (State.inAttention_of_mem hw (State.mem_attentionSet_of_chosen hc))
      | false => exact .inr rfl

end Sys2Proof.Machine
end

section
namespace Sys2Proof.Machine

/-! ## Fields of a layout, by their place (R178) -/

theorem wordAt_append_right (a b : List Byte) {i : Nat} (h : a.length ≤ i) : wordAt (a ++ b) i = wordAt b (i - a.length) := by
  rw [wordAt, byteAt_append_right a b h, byteAt_append_right a b (by omega), Nat.sub_add_comm h, wordAt]

theorem timeAt_append_right (a b : List Byte) {i : Nat} (h : a.length ≤ i) : timeAt (a ++ b) i = timeAt b (i - a.length) := by
  rw [timeAt, wordAt_append_right a b h, wordAt_append_right a b (by omega), Nat.sub_add_comm h, timeAt]

/-- The two words of a time's four bytes make the time. -/
theorem timeOf_bytes (t : Time) :
    wordOf (t.extractLsb' 24 8) (t.extractLsb' 16 8) ++ wordOf (t.extractLsb' 8 8) (t.extractLsb' 0 8) = t := by
  have join {hi lo a b : Nat} (h : hi = lo + b) : t.extractLsb' hi a ++ t.extractLsb' lo b = t.extractLsb' lo (a + b) :=
    BitVec.extractLsb'_append_extractLsb'_eq_extractLsb' h
  rw [wordOf, wordOf, join (by decide : 24 = 16 + 8), join (by decide : 8 = 0 + 8), join (by decide : 16 = 0 + (8 + 8))]
  exact BitVec.extractLsb'_eq_self

/-- The high four and the low two bytes of an address make the address. -/
theorem addressOf_parts (x : BitVec 48) : x.extractLsb' 16 32 ++ x.extractLsb' 0 16 = x :=
  (BitVec.extractLsb'_append_extractLsb'_eq_extractLsb' (by decide)).trans BitVec.extractLsb'_eq_self

/-- Of blocks of one length, put one after another, each byte is its block's. -/
theorem byteAt_flatMap {α : Type} (f : α → List Byte) {n : Nat} (hf : ∀ k, (f k).length = n) (ks : List α) {i j : Nat}
    (hi : i < ks.length) (hj : j < n) : byteAt (ks.flatMap f) (n * i + j) = byteAt (f ks[i]) j := by
  induction ks generalizing i with
  | nil => exact absurd hi (Nat.not_lt_zero i)
  | cons k ks ih =>
    rw [List.flatMap_cons]
    cases i with
    | zero => rw [Nat.mul_zero, Nat.zero_add, byteAt_append_left _ (by rw [hf]; exact hj)]; rfl
    | succ i =>
      have hplace : n * (i + 1) + j = n + (n * i + j) := by rw [Nat.mul_succ]; omega
      rw [hplace, byteAt_append_right _ _ (by rw [hf]; omega), hf, Nat.add_sub_cancel_left, ih (Nat.lt_of_succ_lt_succ hi)]
      rfl

/-- A byte of a part that stands between two others. -/
theorem byteAt_within (before part after : List Byte) {i : Nat} (hi : i < part.length) :
    byteAt (before ++ part ++ after) (before.length + i) = byteAt part i := by
  rw [List.append_assoc, byteAt_append_right _ _ (Nat.le_add_right _ _), Nat.add_sub_cancel_left, byteAt_append_left _ hi]

/-! ## The parts of a view (12.3) -/

/-- The first word of a view: the handle, the state and the four marks (12.3). -/
def viewHead (h : Nat) (r : Record) : Word :=
  BitVec.ofNat 9 h ++ r.state.code ++ BitVec.ofBool r.held ++ BitVec.ofBool r.inAttention ++ BitVec.ofBool r.echoNoted
    ++ BitVec.ofBool r.noHighest

/-- Bytes 0 to 5 of a view, up to its configuration. -/
def viewOpening (h : Nat) (r : Record) : List Byte :=
  wordBytes (viewHead h r)
    ++ [BitVec.ofBool r.running ++ r.epoch ++ 0#1 ++ r.wildCount, legByte r.legA, legByte r.legB,
      twinCode r.twins 0 ++ twinCode r.twins 1 ++ twinCode r.twins 2 ++ twinCode r.twins 3]

/-- Bytes 24 to 33 of a view: the sequence and the seen window. -/
def viewWindow (r : Record) : List Byte :=
  wordBytes (if r.config.kind = .originatedSingle then r.sendCounter else r.highest)
    ++ [0, 1, 2, 3, 4, 5, 6, 7].map (seenByte r.seen)

/-- Bytes 34 to 57 of a view, its twin list. -/
def viewTwins (r : Record) : List Byte := [0, 1, 2, 3].flatMap (twinBytes r.twins)

/-- Bytes 58 to 95 of a view, from its first leg's last arrival on. -/
def viewTrail (r : Record) : List Byte :=
  timeBytes r.legA.lastArrival ++ timeBytes r.legB.lastArrival ++ timeBytes r.deadline ++ counterBytes r.counters

theorem viewImage_parts (h : Nat) (r : Record) :
    viewImage h r = viewOpening h r ++ configBytes r.config ++ viewWindow r ++ viewTwins r ++ viewTrail r := by
  simp only [viewImage, viewOpening, viewHead, viewWindow, viewTwins, viewTrail, List.append_assoc]

theorem viewTwins_length (r : Record) : (viewTwins r).length = 24 := by
  simp only [List.length_append, viewTwins, List.flatMap_cons, List.flatMap_nil, twinBytes_length, List.length_nil]

theorem byteAt_viewImage_opening (h : Nat) (r : Record) {i : Nat} (hi : i < 6) :
    byteAt (viewImage h r) i = byteAt (viewOpening h r) i := by
  simp only [viewImage_parts, List.append_assoc]
  exact byteAt_append_left _ hi

/-- Bytes 6 to 23 of a view are the configuration's eighteen. -/
theorem byteAt_viewImage_config (h : Nat) (r : Record) {i : Nat} (hi : i < 18) :
    byteAt (viewImage h r) (6 + i) = byteAt (configBytes r.config) i := by
  rw [viewImage_parts, List.append_assoc, List.append_assoc]
  exact byteAt_within (viewOpening h r) _ _ hi

theorem wordAt_viewImage_config (h : Nat) (r : Record) {i : Nat} (hi : i < 17) :
    wordAt (viewImage h r) (6 + i) = wordAt (configBytes r.config) i := by
  rw [wordAt, Nat.add_assoc, byteAt_viewImage_config h r (by omega), byteAt_viewImage_config h r (by omega), wordAt]

theorem timeAt_viewImage_config (h : Nat) (r : Record) {i : Nat} (hi : i < 15) :
    timeAt (viewImage h r) (6 + i) = timeAt (configBytes r.config) i := by
  rw [timeAt, Nat.add_assoc, wordAt_viewImage_config h r (by omega), wordAt_viewImage_config h r (by omega), timeAt]

theorem byteAt_viewImage_window (h : Nat) (r : Record) {i : Nat} (hi : i < 10) :
    byteAt (viewImage h r) (24 + i) = byteAt (viewWindow r) i := by
  rw [viewImage_parts, List.append_assoc]
  exact byteAt_within (viewOpening h r ++ configBytes r.config) _ _ hi

theorem wordAt_viewImage_window (h : Nat) (r : Record) {i : Nat} (hi : i < 9) :
    wordAt (viewImage h r) (24 + i) = wordAt (viewWindow r) i := by
  rw [wordAt, Nat.add_assoc, byteAt_viewImage_window h r (by omega), byteAt_viewImage_window h r (by omega), wordAt]

/-- The last eight bytes of the window are the seen marks'. -/
theorem viewWindow_seen (r : Record) {j : Nat} (hj : j < 8) : byteAt (viewWindow r) (2 + j) = seenByte r.seen j := by
  have hlist : [0, 1, 2, 3, 4, 5, 6, 7] = List.range 8 := by decide
  have hplace : 2 + j - (wordBytes (if r.config.kind = .originatedSingle then r.sendCounter else r.highest)).length = j :=
    Nat.add_sub_cancel_left 2 j
  rw [viewWindow, byteAt_append_right _ _ (Nat.le_add_right 2 j), hplace, byteAt_eq, hlist, List.getElem?_map, List.getElem?_range hj]
  rfl

/-- Byte `j` of twin entry `i` in a view. -/
theorem byteAt_viewImage_twin (h : Nat) (r : Record) {i j : Nat} (hi : i < 4) (hj : j < 6) :
    byteAt (viewImage h r) (34 + 6 * i + j) = byteAt (twinBytes r.twins i) j := by
  have hentry : ∀ k, (hk : k < 4) → [0, 1, 2, 3][k] = k := by decide
  have hplace : 6 * i + j < (viewTwins r).length := by rw [viewTwins_length]; omega
  have hpart : byteAt (viewImage h r) (34 + (6 * i + j)) = byteAt (viewTwins r) (6 * i + j) := by
    rw [viewImage_parts]
    exact byteAt_within (viewOpening h r ++ configBytes r.config ++ viewWindow r) _ _ hplace
  rw [Nat.add_assoc, hpart, viewTwins, byteAt_flatMap _ (twinBytes_length r.twins) _ hi hj, hentry i hi]

theorem wordAt_viewImage_twin (h : Nat) (r : Record) {i j : Nat} (hi : i < 4) (hj : j < 5) :
    wordAt (viewImage h r) (34 + 6 * i + j) = wordAt (twinBytes r.twins i) j := by
  rw [wordAt, Nat.add_assoc (34 + 6 * i) j 1, byteAt_viewImage_twin h r hi (by omega), byteAt_viewImage_twin h r hi (by omega), wordAt]

theorem timeAt_viewImage_twin (h : Nat) (r : Record) {i j : Nat} (hi : i < 4) (hj : j < 3) :
    timeAt (viewImage h r) (34 + 6 * i + j) = timeAt (twinBytes r.twins i) j := by
  rw [timeAt, Nat.add_assoc (34 + 6 * i) j 2, wordAt_viewImage_twin h r hi (by omega), wordAt_viewImage_twin h r hi (by omega), timeAt]

theorem beforeTrail_length (h : Nat) (r : Record) :
    (viewOpening h r ++ configBytes r.config ++ viewWindow r ++ viewTwins r).length = 58 := by
  have hbefore : (viewOpening h r ++ configBytes r.config ++ viewWindow r).length = 34 := rfl
  rw [List.length_append, hbefore, viewTwins_length]

theorem wordAt_viewImage_trail (h : Nat) (r : Record) {i : Nat} (hi : 58 ≤ i) :
    wordAt (viewImage h r) i = wordAt (viewTrail r) (i - 58) := by
  rw [viewImage_parts, wordAt_append_right _ _ (by rw [beforeTrail_length]; exact hi), beforeTrail_length]

theorem timeAt_viewImage_trail (h : Nat) (r : Record) {i : Nat} (hi : 58 ≤ i) :
    timeAt (viewImage h r) i = timeAt (viewTrail r) (i - 58) := by
  rw [viewImage_parts, timeAt_append_right _ _ (by rw [beforeTrail_length]; exact hi), beforeTrail_length]

/-! ## Fields of bits put one after another -/

theorem getLsbD_append_past {v w : Nat} (x : BitVec v) (y : BitVec w) {i : Nat} (h : w ≤ i) :
    (x ++ y).getLsbD i = x.getLsbD (i - w) := by
  rw [BitVec.getLsbD_append, if_neg (Nat.not_lt.mpr h)]

theorem getLsbD_append_bit {v : Nat} (x : BitVec v) (b : Bool) : (x ++ BitVec.ofBool b).getLsbD 0 = b := by
  rw [BitVec.getLsbD_append, if_pos (by decide), BitVec.getLsbD_ofBool, decide_eq_true rfl, Bool.true_and]

theorem getLsbD_bit (b : Bool) : (BitVec.ofBool b).getLsbD 0 = b := by
  rw [BitVec.getLsbD_ofBool, decide_eq_true rfl, Bool.true_and]

theorem viewHead_fields (h : Nat) (r : Record) :
    (viewHead h r).extractLsb' 7 9 = BitVec.ofNat 9 h ∧ (viewHead h r).extractLsb' 4 3 = r.state.code
      ∧ (viewHead h r).getLsbD 3 = r.held ∧ (viewHead h r).getLsbD 2 = r.inAttention ∧ (viewHead h r).getLsbD 1 = r.echoNoted
      ∧ (viewHead h r).getLsbD 0 = r.noHighest := by
  unfold viewHead
  refine ⟨?_, ?_, ?_, ?_, ?_, getLsbD_append_bit _ _⟩
  · repeat rw [BitVec.extractLsb'_append_eq_of_le (by decide)]
    exact BitVec.extractLsb'_eq_self
  · repeat rw [BitVec.extractLsb'_append_eq_of_le (by decide)]
    exact BitVec.extractLsb'_append_eq_right
  all_goals
    repeat rw [getLsbD_append_past _ _ (by decide)]
    exact getLsbD_append_bit _ _

theorem runningByte_fields (running : Bool) (epoch : BitVec 4) (wildCount : BitVec 2) :
    let b : Byte := BitVec.ofBool running ++ epoch ++ 0#1 ++ wildCount
    b.getLsbD 7 = running ∧ b.extractLsb' 3 4 = epoch ∧ b.extractLsb' 0 2 = wildCount := by
  refine ⟨?_, ?_, BitVec.extractLsb'_append_eq_right⟩
  · repeat rw [getLsbD_append_past _ _ (by decide)]
    exact getLsbD_bit running
  · repeat rw [BitVec.extractLsb'_append_eq_of_le (by decide)]
    exact BitVec.extractLsb'_append_eq_right

theorem legByte_fields (l : Leg) : (legByte l).extractLsb' 6 2 = l.status.code ∧ (legByte l).extractLsb' 0 4 = l.misses := by
  refine ⟨?_, BitVec.extractLsb'_append_eq_right⟩
  unfold legByte
  repeat rw [BitVec.extractLsb'_append_eq_of_le (by decide)]
  exact BitVec.extractLsb'_eq_self

/-- The awaited legs of the four twin entries, the first in the top bits (12.3). -/
theorem twinCodes_field (code : Nat → BitVec 2) {i : Nat} (hi : i < 4) :
    (code 0 ++ code 1 ++ code 2 ++ code 3).extractLsb' (6 - 2 * i) 2 = code i := by
  obtain rfl | rfl | rfl | rfl : i = 0 ∨ i = 1 ∨ i = 2 ∨ i = 3 := by omega
  · repeat rw [BitVec.extractLsb'_append_eq_of_le (by decide)]
    exact BitVec.extractLsb'_eq_self
  all_goals
    repeat rw [BitVec.extractLsb'_append_eq_of_le (by decide)]
    exact BitVec.extractLsb'_append_eq_right

/-- The marks of one byte, the lowest in the top bit (12.3). -/
theorem seenByte_getLsbD (seen : BitVec 64) (j : Nat) {k : Nat} (hk : k < 8) :
    (seenByte seen j).getLsbD (7 - k) = seen.getLsbD (8 * j + k) := by
  unfold seenByte
  obtain rfl | rfl | rfl | rfl | rfl | rfl | rfl | rfl :
      k = 0 ∨ k = 1 ∨ k = 2 ∨ k = 3 ∨ k = 4 ∨ k = 5 ∨ k = 6 ∨ k = 7 := by omega
  · repeat rw [getLsbD_append_past _ _ (by decide)]
    exact getLsbD_bit _
  all_goals
    repeat rw [getLsbD_append_past _ _ (by decide)]
    exact getLsbD_append_bit _ _

/-! ## The fields of a view, byte by byte (R105, R179, 12.3) -/

theorem viewImage_head (h : Nat) (r : Record) : wordAt (viewImage h r) 0 = viewHead h r := by
  rw [wordAt, byteAt_viewImage_opening h r (by decide), byteAt_viewImage_opening h r (by decide)]
  exact wordOf_bytes _

/-- Bytes 2 to 5 of a view: the running mark, the epoch and the wild count, the two legs, and the legs the twin entries await. -/
theorem viewImage_bytes (h : Nat) (r : Record) :
    let v := viewImage h r
    byteAt v 2 = BitVec.ofBool r.running ++ r.epoch ++ 0#1 ++ r.wildCount ∧ byteAt v 3 = legByte r.legA ∧ byteAt v 4 = legByte r.legB
      ∧ byteAt v 5 = twinCode r.twins 0 ++ twinCode r.twins 1 ++ twinCode r.twins 2 ++ twinCode r.twins 3 :=
  have hbyte {i : Nat} (hi : i < 6) := byteAt_viewImage_opening h r hi
  ⟨hbyte (by decide), hbyte (by decide), hbyte (by decide), hbyte (by decide)⟩

/-- The word of the sequence: a one-leg record's send counter, else the highest number (12.3). -/
theorem viewImage_sequence (h : Nat) (r : Record) :
    wordAt (viewImage h r) 24 = if r.config.kind = .originatedSingle then r.sendCounter else r.highest :=
  (wordAt_viewImage_window h r (i := 0) (by decide)).trans (wordOf_bytes _)

theorem viewImage_seen (h : Nat) (r : Record) {i : Nat} (hi : i < 64) :
    (byteAt (viewImage h r) (26 + i / 8)).getLsbD (7 - i % 8) = r.seen.getLsbD i := by
  have hbyte : byteAt (viewImage h r) (24 + (2 + i / 8)) = seenByte r.seen (i / 8) := by
    rw [byteAt_viewImage_window h r (by omega), viewWindow_seen r (by omega)]
  rw [show 26 + i / 8 = 24 + (2 + i / 8) by omega, hbyte, seenByte_getLsbD _ _ (Nat.mod_lt i (by decide)), Nat.div_add_mod]

/-- An occupied place shows its entry's sequence and deadline, an empty one six bytes of 0. -/
theorem viewImage_twin (h : Nat) (r : Record) {i : Nat} (hi : i < 4) :
    match r.twins[i]? with
    | some e => wordAt (viewImage h r) (34 + 6 * i) = e.seq ∧ timeAt (viewImage h r) (36 + 6 * i) = e.deadline
    | none => ∀ j, j < 6 → byteAt (viewImage h r) (34 + 6 * i + j) = 0 := by
  cases htwin : r.twins[i]? with
  | some e =>
    have hbytes : twinBytes r.twins i = wordBytes e.seq ++ timeBytes e.deadline := by rw [twinBytes, htwin]
    have hseq := wordAt_viewImage_twin h r hi (j := 0) (by decide)
    have hdeadline := timeAt_viewImage_twin h r hi (j := 2) (by decide)
    rw [hbytes] at hseq hdeadline
    refine ⟨hseq.trans (wordOf_bytes _), ?_⟩
    rw [show 36 + 6 * i = 34 + 6 * i + 2 by omega]
    exact hdeadline.trans (timeOf_bytes _)
  | none =>
    intro j hj
    have hbytes : twinBytes r.twins i = List.replicate 6 0 := by rw [twinBytes, htwin]
    rw [byteAt_viewImage_twin h r hi hj, hbytes, byteAt_eq, List.getElem?_replicate_of_lt hj, Option.getD_some]

theorem viewImage_times (h : Nat) (r : Record) :
    timeAt (viewImage h r) 58 = r.legA.lastArrival ∧ timeAt (viewImage h r) 62 = r.legB.lastArrival
      ∧ timeAt (viewImage h r) 66 = r.deadline := by
  refine ⟨?_, ?_, ?_⟩
  all_goals
    rw [timeAt_viewImage_trail h r (by decide)]
    exact timeOf_bytes _

theorem viewImage_counters (h : Nat) (r : Record) :
    [70, 72, 74, 76, 78, 80, 82, 84, 86, 88, 90, 92, 94].map (wordAt (viewImage h r)) =
      [r.counters.accepted, r.counters.duplicates, r.counters.lateFirst, r.counters.missed, r.counters.wild, r.counters.resyncs,
        r.counters.echo, r.counters.unmatched, r.counters.twinMissA, r.counters.twinMissB, r.counters.silences,
        r.counters.refused, r.counters.injected] := by
  simp only [List.map_cons, List.map_nil, List.cons.injEq, and_true]
  refine ⟨?_, ?_, ?_, ?_, ?_, ?_, ?_, ?_, ?_, ?_, ?_, ?_, ?_⟩
  all_goals
    rw [wordAt_viewImage_trail h r (by decide)]
    exact wordOf_bytes _

theorem configBytes_codes (c : StreamConfig) :
    let b0 := byteAt (configBytes c) 0
    let b1 := byteAt (configBytes c) 1
    (b0.extractLsb' 6 2 = c.kind.code ∧ b0.extractLsb' 3 3 = c.legMode.code ∧ b0.getLsbD 2 = c.matchPresent
        ∧ b0.getLsbD 1 = c.ignoreLocal ∧ b0.getLsbD 0 = c.announcedPresent)
      ∧ b1.extractLsb' 6 2 = c.cls.code ∧ b1.extractLsb' 0 6 = c.origin := by
  have h0 : byteAt (configBytes c) 0 = c.kind.code ++ c.legMode.code ++ BitVec.ofBool c.matchPresent ++ BitVec.ofBool c.ignoreLocal
      ++ BitVec.ofBool c.announcedPresent := rfl
  have h1 : byteAt (configBytes c) 1 = c.cls.code ++ c.origin := rfl
  intro b0 b1
  rw [show b0 = _ from h0, show b1 = _ from h1]
  refine ⟨⟨?_, ?_, ?_, ?_, getLsbD_append_bit _ _⟩, ?_, BitVec.extractLsb'_append_eq_right⟩
  · repeat rw [BitVec.extractLsb'_append_eq_of_le (by decide)]
    exact BitVec.extractLsb'_eq_self
  · repeat rw [BitVec.extractLsb'_append_eq_of_le (by decide)]
    exact BitVec.extractLsb'_append_eq_right
  · repeat rw [getLsbD_append_past _ _ (by decide)]
    exact getLsbD_append_bit _ _
  · repeat rw [getLsbD_append_past _ _ (by decide)]
    exact getLsbD_append_bit _ _
  · repeat rw [BitVec.extractLsb'_append_eq_of_le (by decide)]
    exact BitVec.extractLsb'_eq_self

/-- The fields of a configuration that take bytes of their own. -/
theorem configBytes_numbers (c : StreamConfig) :
    let b := configBytes c
    wordAt b 2 = c.stream.setWidth 16 ∧ byteAt b 4 = c.delivery ++ c.missThreshold ∧ wordAt b 5 = c.renewalLimit
      ∧ byteAt b 7 = (if c.kind = .originatedSingle then c.announced else c.twinWindow)
      ∧ timeAt b 8 = c.dest.extractLsb' 16 32
      ∧ wordAt b 12 = c.dest.extractLsb' 0 16 ∧ wordAt b 14 = c.frameType ∧ wordAt b 16 = c.appTag :=
  ⟨wordOf_bytes _, rfl, wordOf_bytes _, rfl, timeOf_bytes _, wordOf_bytes _, wordOf_bytes _, wordOf_bytes _⟩

theorem viewImage_codes (h : Nat) (r : Record) :
    let v := viewImage h r
    let c := r.config
    (byteAt v 6).extractLsb' 6 2 = c.kind.code ∧ (byteAt v 6).extractLsb' 3 3 = c.legMode.code
      ∧ (byteAt v 6).getLsbD 2 = c.matchPresent ∧ (byteAt v 6).getLsbD 1 = c.ignoreLocal ∧ (byteAt v 6).getLsbD 0 = c.announcedPresent
      ∧ (byteAt v 7).extractLsb' 6 2 = c.cls.code ∧ (byteAt v 7).extractLsb' 0 6 = c.origin := by
  have h6 := byteAt_viewImage_config h r (i := 0) (by decide)
  have h7 := byteAt_viewImage_config h r (i := 1) (by decide)
  obtain ⟨⟨hkind, hleg, hmatch, hignore, hannounced⟩, hcls, horigin⟩ := configBytes_codes r.config
  intro v c
  rw [show byteAt v 6 = _ from h6, show byteAt v 7 = _ from h7]
  exact ⟨hkind, hleg, hmatch, hignore, hannounced, hcls, horigin⟩

theorem viewImage_numbers (h : Nat) (r : Record) :
    let v := viewImage h r
    let c := r.config
    wordAt v 8 = c.stream.setWidth 16 ∧ (byteAt v 10).extractLsb' 4 4 = c.delivery ∧ (byteAt v 10).extractLsb' 0 4 = c.missThreshold
      ∧ wordAt v 11 = c.renewalLimit ∧ byteAt v 13 = (if c.kind = .originatedSingle then c.announced else c.twinWindow)
      ∧ addressAt v 14 = c.dest ∧ wordAt v 20 = c.frameType ∧ wordAt v 22 = c.appTag := by
  have hbyte {i : Nat} (hi : i < 18) := byteAt_viewImage_config h r hi
  have hword {i : Nat} (hi : i < 17) := wordAt_viewImage_config h r hi
  obtain ⟨hstream, hdelivery, hrenewal, hwindow, hhigh, hlow, htype, htag⟩ := configBytes_numbers r.config
  have hdelivery : byteAt (viewImage h r) 10 = _ := (hbyte (i := 4) (by decide)).trans hdelivery
  intro v c
  refine ⟨(hword (i := 2) (by decide)).trans hstream, ?_, ?_, (hword (i := 5) (by decide)).trans hrenewal,
    (hbyte (i := 7) (by decide)).trans hwindow, ?_, (hword (i := 14) (by decide)).trans htype, (hword (i := 16) (by decide)).trans htag⟩
  · rw [show byteAt v 10 = _ from hdelivery, BitVec.extractLsb'_append_eq_of_le (by decide)]
    exact BitVec.extractLsb'_eq_self
  · rw [show byteAt v 10 = _ from hdelivery]
    exact BitVec.extractLsb'_append_eq_right
  · have hhigh : timeAt v 14 = c.dest.extractLsb' 16 32 := (timeAt_viewImage_config h r (i := 8) (by decide)).trans hhigh
    have hlow : wordAt v 18 = c.dest.extractLsb' 0 16 := (hword (i := 12) (by decide)).trans hlow
    rw [addressAt, hhigh, hlow, addressOf_parts]

/-! ## Snapshots (R106 to R108) -/

/-- A snapshot at its grant, by the change it makes to an installed record. -/
theorem State.snapshotGrant_judged (s : State) {kind : TimedKind} {h : Nat} {copy : List Byte} (change : Record → Record)
    (ht : s.timedTurn kind h copy) :
    let r := s.record h
    let granted := s.grantTimed kind (State.snapshotOp change)
    (511 < h → granted = s.ended .noSuchRecord)
      ∧ (h ≤ 511 →
        granted = { s.ended .done with table := granted.table, frontView := viewImage h r, backView := s.frontView }
          ∧ s.otherRecordsKept granted h ∧ granted.record h = if r.state.occupied then change r else r) := by
  intro r granted
  refine ⟨fun hh => State.grantTimed_answer ht (if_pos hh), fun hh => ?_⟩
  by_cases ho : r.state.occupied = true
  · have hgranted : granted = ((s.takeView h).putRecord h (change r)).ended .done :=
      State.grantTimed_answer ht (by rw [State.snapshotOp, if_neg (Nat.not_lt.mpr hh), if_pos ho])
    rw [hgranted, if_pos ho]
    exact ⟨rfl, fun k hk => (s.takeView h).record_putRecord_other _ hk, (s.takeView h).record_putRecord_same h _⟩
  · have hgranted : granted = (s.takeView h).ended .done :=
      State.grantTimed_answer ht (by rw [State.snapshotOp, if_neg (Nat.not_lt.mpr hh), if_neg ho])
    rw [hgranted, if_neg ho]
    exact ⟨rfl, fun _ _ => rfl, rfl⟩

/-- What a snapshot of either kind leaves of an installed record (R106, R107). -/
def Record.snapped (r : Record) (kind : TimedKind) : Record :=
  { r with
    inAttention := false, echoNoted := false
    counters := if kind = .snapshotClear then RecCounters.zero else r.counters }

/-- SNAPSHOT and SNAPSHOT CLEAR are one operation but for the counters. -/
theorem exec_snapshotGrants (s : State) {kind : TimedKind} {grant : Instr}
    (hkind : (kind = .snapshot ∧ grant = .snapshotGrant) ∨ (kind = .snapshotClear ∧ grant = .snapshotClearGrant)) :
    exec grant s = .next (s.grantTimed kind (State.snapshotOp (Record.snapped · kind))) := by
  obtain ⟨rfl, rfl⟩ | ⟨rfl, rfl⟩ := hkind
  · rfl
  · rfl

/-- Settles O37, from the snapshot at its grant and the fields of the view's image, part by part. -/
theorem snapshotTakesTheViewAndClearsAttention : Obligations.SnapshotTakesTheViewAndClearsAttention := by
  refine ⟨fun kind grant hkind h copy s ht => ?_, fun h r => ?_⟩
  · intro r
    rw [exec_snapshotGrants s hkind]
    obtain ⟨hnone, htaken⟩ := s.snapshotGrant_judged (Record.snapped · kind) ht
    exact ⟨fun hh => congrArg _ (hnone hh), fun hh => ⟨_, rfl, htaken hh⟩⟩
  · intro v c statusCode
    obtain ⟨hhandle, hstate, hmarks⟩ := viewHead_fields h r
    obtain ⟨hkind, hleg, hmatch, hignore, hannounced, hcls, horigin⟩ := viewImage_codes h r
    obtain ⟨hrunning, hlegA, hlegB, htwins⟩ := viewImage_bytes h r
    obtain ⟨hclockA, hclockB, hdeadline⟩ := viewImage_times h r
    have status_code (x : LegStatus) : x.code = statusCode x := by cases x <;> rfl
    have leg_code (l : LegId) : l.code = if l = .a then 1 else 2 := by cases l <;> rfl
    refine ⟨viewImage_length h r, ?_, ?_, ?_, fun i hi => ?_, ?_, viewImage_sequence h r, fun i hi => viewImage_seen h r hi,
      fun i hi => viewImage_twin h r hi, hclockA, hclockB, hdeadline, viewImage_counters h r⟩
    · rw [show wordAt v 0 = _ from viewImage_head h r]
      exact ⟨hhandle, hstate, hmarks⟩
    · rw [show byteAt v 2 = _ from hrunning]
      exact runningByte_fields _ _ _
    · rw [show byteAt v 3 = _ from hlegA, show byteAt v 4 = _ from hlegB, ← status_code, ← status_code, ← and_assoc]
      exact ⟨legByte_fields r.legA, legByte_fields r.legB⟩
    · rw [show byteAt v 5 = _ from htwins, twinCodes_field _ hi]
      cases hentry : r.twins[i]? with
      | none => rw [twinCode, hentry]
      | some e =>
        rw [twinCode, hentry]
        exact leg_code e.awaits
    · exact ⟨hkind, hleg, hmatch, hignore, hannounced, hcls, horigin, viewImage_numbers h r⟩

end Sys2Proof.Machine
end

section
namespace Sys2Proof.Machine

/-! ## RING READ (R143) -/

/-- The ring block, its serials' words written out. -/
theorem State.ringBlock_eq (s : State) :
    s.ringBlock =
      [s.probe.ring.code.setWidth 8, s.probe.missA.setWidth 8, s.probe.missB.setWidth 8, BitVec.ofNat 8 s.probe.serials.length]
        ++ wordBytes (s.probe.serials.getD 0 0) ++ wordBytes (s.probe.serials.getD 1 0) ++ wordBytes (s.probe.serials.getD 2 0)
        ++ wordBytes (s.probe.serials.getD 3 0) ++ wordBytes s.probe.clashes := rfl

theorem exec_ringRead (s : State) (hr : s.ready = true) : exec .ringRead s = .next (s.replied s 0 .done s.ringBlock) :=
  congrArg Host.Outcome.next (s.immediate_whole () 0 _ hr)

/-- Settles O53, from an immediate command's answer and the ring block written out. -/
theorem ringReadReturnsTheRingBlock : Obligations.RingReadReturnsTheRingBlock := by
  intro s hr u
  rw [exec_ringRead s hr, s.ringBlock_eq]

/-! ## Sparse tables changed entry by entry -/

/-- A sparse table with each entry changed, those that become the default dropped. -/
def Sparse.mapped {α : Type} [DecidableEq α] (d : α) (f : α → α) (m : List (Nat × α)) : List (Nat × α) :=
  (m.map (fun e => (e.1, f e.2))).filter (fun e => e.2 != d)

theorem Sparse.mem_mapped {α : Type} [DecidableEq α] (d : α) (f : α → α) (m : List (Nat × α)) (k : Nat) (y : α) :
    (k, y) ∈ Sparse.mapped d f m ↔ y ≠ d ∧ ∃ x, (k, x) ∈ m ∧ f x = y := by
  rw [Sparse.mapped, List.mem_filter, bne_iff_ne, List.mem_map, and_comm]
  refine and_congr_right (fun _ => ⟨?_, ?_⟩)
  · rintro ⟨⟨j, x⟩, hx, hpair⟩
    obtain ⟨rfl, rfl⟩ := Prod.mk.inj hpair
    exact ⟨x, hx, rfl⟩
  · rintro ⟨x, hx, rfl⟩
    exact ⟨(k, x), hx, rfl⟩

theorem Sparse.wf_mapped {α : Type} [DecidableEq α] (d : α) (f : α → α) {m : List (Nat × α)} (hm : Sparse.wf d m = true) :
    Sparse.wf d (Sparse.mapped d f m) = true := by
  obtain ⟨hrising, -⟩ := (Sparse.wf_iff d m).mp hm
  refine (Sparse.wf_iff d _).mpr ⟨?_, fun e he => bne_iff_ne.mp (List.mem_filter.mp he).2⟩
  exact List.Pairwise.sublist List.filter_sublist (List.Pairwise.map _ (fun _ _ h => h) hrising)

/-- A canonical table changed by a function that keeps the default reads at each number what the function makes of the old entry. -/
theorem Sparse.get_mapped {α : Type} [DecidableEq α] {d : α} {f : α → α} (hf : f d = d) {m : List (Nat × α)}
    (hm : Sparse.wf d m = true) (k : Nat) : Sparse.get d (Sparse.mapped d f m) k = f (Sparse.get d m k) := by
  by_cases hnew : f (Sparse.get d m k) = d
  · refine Classical.byContradiction fun hne => ?_
    rw [hnew] at hne
    obtain ⟨-, x, hx, hfx⟩ := (Sparse.mem_mapped d f m k _).mp (Sparse.mem_of_get d _ k hne)
    rw [Sparse.get_of_mem d m hm hx] at hnew
    exact hne (hfx.symm.trans hnew)
  · have hold : Sparse.get d m k ≠ d := fun h => hnew (by rw [h, hf])
    exact Sparse.get_of_mem d _ (Sparse.wf_mapped d f hm)
      ((Sparse.mem_mapped d f m k _).mpr ⟨hnew, _, Sparse.mem_of_get d m k hold, rfl⟩)

/-! ## Ageing of one entry (R141) -/

theorem freshEvidence_eq_filter (now : Time) (limit : Nat) (v : Option Evidence) :
    freshEvidence now limit v = v.filter (fun e => decide ((now - e.lastHeard).toNat ≤ limit)) := by
  cases v with
  | none => rfl
  | some e =>
    by_cases hold : limit < (now - e.lastHeard).toNat
    · rw [freshEvidence, if_pos hold, Option.filter_some, if_neg (by simpa using hold)]
    · rw [freshEvidence, if_neg hold, Option.filter_some, if_pos (by simpa using hold)]

theorem RosterEntry.age_absent (now : Time) (limit : Nat) : RosterEntry.absent.age now limit = RosterEntry.absent := rfl

/-- An aged entry is ABSENT, its fields all 0, when no evidence is fresh, and has the fresh evidence alone when some is. -/
theorem RosterEntry.age_cases (e : RosterEntry) (now : Time) (limit : Nat) :
    (freshEvidence now limit e.heardA = none ∧ freshEvidence now limit e.heardB = none ∧ e.age now limit = RosterEntry.absent)
      ∨ (¬ (freshEvidence now limit e.heardA = none ∧ freshEvidence now limit e.heardB = none)
        ∧ e.age now limit = { e with heardA := freshEvidence now limit e.heardA, heardB := freshEvidence now limit e.heardB }) := by
  have hnone : ((freshEvidence now limit e.heardA).isNone && (freshEvidence now limit e.heardB).isNone) = true
      ↔ freshEvidence now limit e.heardA = none ∧ freshEvidence now limit e.heardB = none := by
    rw [Bool.and_eq_true_iff, Option.isNone_iff_eq_none, Option.isNone_iff_eq_none]
  by_cases h : freshEvidence now limit e.heardA = none ∧ freshEvidence now limit e.heardB = none
  · exact .inl ⟨h.1, h.2, if_pos (hnone.mpr h)⟩
  · exact .inr ⟨h, if_neg (mt hnone.mp h)⟩

theorem RosterEntry.age_heard (e : RosterEntry) (now : Time) (limit : Nat) :
    (e.age now limit).heardA = freshEvidence now limit e.heardA ∧ (e.age now limit).heardB = freshEvidence now limit e.heardB := by
  obtain ⟨ha, hb, haged⟩ | ⟨-, haged⟩ := e.age_cases now limit
  · rw [haged, ha, hb]
    exact ⟨rfl, rfl⟩
  · rw [haged]
    exact ⟨rfl, rfl⟩

theorem RosterEntry.age_unheard (e : RosterEntry) (now : Time) (limit : Nat) (ha : (e.age now limit).heardA = none)
    (hb : (e.age now limit).heardB = none) : e.age now limit = RosterEntry.absent := by
  obtain ⟨hfreshA, hfreshB⟩ := e.age_heard now limit
  obtain ⟨-, -, haged⟩ | ⟨hsome, -⟩ := e.age_cases now limit
  · exact haged
  · exact absurd ⟨hfreshA.symm.trans ha, hfreshB.symm.trans hb⟩ hsome

/-! ## Ageing of the roster (R141) -/

/-- Four intervals in microseconds: evidence older than that is cleared (R141). -/
def State.ageLimit (s : State) : Nat := 4 * (1000 * s.settings.probeInterval)

/-- The roster with every entry aged (R141). -/
def State.agedRoster (s : State) (now : Time) : List (Nat × RosterEntry) :=
  Sparse.mapped RosterEntry.absent (RosterEntry.age now s.ageLimit) s.probe.roster

/-- The status of some listed entry changes with age (R141). -/
def State.statusAges (s : State) (now : Time) : Bool :=
  s.probe.roster.any (fun e => (e.2.age now s.ageLimit).status != e.2.status)

theorem State.ageRoster_eq (s : State) (now : Time) :
    s.ageRoster now = (s.modProbe (fun u => { u with roster := s.agedRoster now })).raiseIf (s.statusAges now) .roster := rfl

/-- Ageing touches the roster and the flags alone. -/
theorem State.ageRoster_touches (s : State) (now : Time) :
    s.ageRoster now = { s with
      probe := { s.probe with roster := (s.ageRoster now).probe.roster }, flags := (s.ageRoster now).flags } := by
  rw [State.ageRoster_eq, State.raiseIf_eq]
  rfl

theorem State.ageRoster_flag (s : State) (now : Time) (f : Flag) :
    (s.ageRoster now).flag f = (s.flag f || (s.statusAges now && decide (Flag.roster = f))) := by
  rw [State.ageRoster_eq, State.flag_raiseIf]
  rfl

theorem State.rosterEntry_ageRoster (s : State) (now : Time) (hwf : Sparse.wf RosterEntry.absent s.probe.roster = true) (k : Nat) :
    (s.ageRoster now).rosterEntry k = (s.rosterEntry k).age now s.ageLimit := by
  rw [State.ageRoster_eq, State.rosterEntry, State.raiseIf_probe]
  exact Sparse.get_mapped (RosterEntry.age_absent now s.ageLimit) hwf k

theorem State.statusAges_iff (s : State) (now : Time) (hwf : Sparse.wf RosterEntry.absent s.probe.roster = true) :
    s.statusAges now = true ↔ ∃ k, ((s.rosterEntry k).age now s.ageLimit).status ≠ (s.rosterEntry k).status := by
  rw [State.statusAges, List.any_eq_true]
  constructor
  · rintro ⟨⟨k, e⟩, hmem, hne⟩
    have hentry : s.rosterEntry k = e := Sparse.get_of_mem _ _ hwf hmem
    exact ⟨k, by rw [hentry]; exact bne_iff_ne.mp hne⟩
  · rintro ⟨k, hne⟩
    have hlisted : s.rosterEntry k ≠ RosterEntry.absent := fun h => hne (by rw [h, RosterEntry.age_absent])
    exact ⟨_, Sparse.mem_of_get _ _ k hlisted, bne_iff_ne.mpr hne⟩

/-- The roster of `t` is that of `s` aged at the clock of `s`: what a boundary says of it (R141). -/
def State.rosterAged (s t : State) (limit : Nat) : Prop :=
  (∀ k, (t.rosterEntry k).heardA
        = (s.rosterEntry k).heardA.filter (fun e => decide ((s.bayClock - e.lastHeard).toNat ≤ limit))
      ∧ (t.rosterEntry k).heardB
        = (s.rosterEntry k).heardB.filter (fun e => decide ((s.bayClock - e.lastHeard).toNat ≤ limit)))
    ∧ (∀ k, (t.rosterEntry k).heardA = none → (t.rosterEntry k).heardB = none → t.rosterEntry k = RosterEntry.absent)
    ∧ (t.flag .roster = true ↔ s.flag .roster = true ∨ ∃ k, (t.rosterEntry k).status ≠ (s.rosterEntry k).status)

theorem State.rosterAged_ageRoster (s : State) (hwf : Sparse.wf RosterEntry.absent s.probe.roster = true) :
    s.rosterAged (s.ageRoster s.bayClock) s.ageLimit := by
  have hentry := s.rosterEntry_ageRoster s.bayClock hwf
  refine ⟨fun k => ?_, fun k => ?_, ?_⟩
  · rw [hentry, ← freshEvidence_eq_filter, ← freshEvidence_eq_filter]
    exact (s.rosterEntry k).age_heard _ _
  · rw [hentry]
    exact (s.rosterEntry k).age_unheard _ _
  · rw [State.ageRoster_flag, decide_eq_true rfl, Bool.and_true, Bool.or_eq_true_iff, s.statusAges_iff _ hwf]
    simp only [hentry]

/-- Only the roster and the flag ROSTER count. -/
theorem State.rosterAged_congr {s t u : State} {limit : Nat} (h : s.rosterAged t limit) (hroster : u.probe.roster = t.probe.roster)
    (hflag : u.flag .roster = t.flag .roster) : s.rosterAged u limit := by
  have hentry (k : Nat) : u.rosterEntry k = t.rosterEntry k := by rw [State.rosterEntry, hroster, State.rosterEntry]
  simpa only [State.rosterAged, hentry, hflag] using h

/-! ## A refusal's blame (R148) -/

/-- One more refusal counted on a port. -/
def State.countRefusal (s : State) (p : Port) : State := s.count p (fun k => { k with poolRefusals := bump k.poolRefusals })

theorem State.refuseFrame_counts (s : State) (blame : List Port) : s.refuseFrame blame = blame.foldl State.countRefusal (s.raise .pool) :=
  rfl

theorem State.countRefusal_port (s : State) (p q : Port) :
    (s.countRefusal p).port q =
      if q = p then
        { s.port p with counters := { (s.port p).counters with poolRefusals := bump (s.port p).counters.poolRefusals } }
      else s.port q :=
  State.port_modPort s p q _

/-- Refusals counted on different ports: each of them has one more, and the others are as they were. -/
theorem State.countRefusals_port {blame : List Port} (hd : blame.Nodup) (s : State) (q : Port) :
    (blame.foldl State.countRefusal s).port q =
      if q ∈ blame then
        { s.port q with counters := { (s.port q).counters with poolRefusals := bump (s.port q).counters.poolRefusals } }
      else s.port q := by
  induction blame generalizing s with
  | nil => rfl
  | cons p ps ih =>
    obtain ⟨hp, hps⟩ := List.nodup_cons.mp hd
    rw [List.foldl_cons, ih hps, State.countRefusal_port]
    by_cases hq : q = p
    · subst hq
      rw [if_pos rfl, if_neg hp, if_pos List.mem_cons_self]
    · have hmem : q ∈ p :: ps ↔ q ∈ ps := List.mem_cons.trans (or_iff_right hq)
      rw [if_neg hq]
      simp only [hmem]

/-- A refusal adds one to "pool refusals" on each port it blames, and leaves the others (R148). -/
theorem State.refuseFrame_port (s : State) {blame : List Port} (hd : blame.Nodup) (q : Port) :
    (s.refuseFrame blame).port q =
      if q ∈ blame then
        { s.port q with counters := { (s.port q).counters with poolRefusals := bump (s.port q).counters.poolRefusals } }
      else s.port q := by
  rw [State.refuseFrame_counts, State.countRefusals_port hd]
  rfl

/-! ## The probe sent (R133, R134) -/

/-- The part once the boundary's serial is listed and the next one set (R133). -/
def State.withSerial (s : State) (now : Time) : State :=
  s.modProbe (fun u =>
    { u with serials := appendSerial u.serials (s.boundarySerial now), nextSerial := some (s.boundarySerial now + 1) })

theorem State.sendProbe_eq (s : State) (now : Time) :
    s.sendProbe now =
      ((s.withSerial now).requestAdmission (s.probeFrame (s.boundarySerial now)) .trip s.probeCopies s.upLanes).1 := rfl

theorem State.probeFrame_cells (s : State) (serial : Word) : cellsFor (s.probeFrame serial).length = 1 := by
  have hlength : (s.probeFrame serial).length = 64 :=
    makeFrame_length _ _ _ _ _ s.settings.probeGroup_length (by decide : (6 : Nat) ≤ 38)
  rw [hlength]
  rfl

/-- A probe is admitted when a cell is free (R148). -/
theorem State.probeFrame_admissible (s : State) (serial : Word) (free : Nat) :
    admissible .trip (cellsFor (s.probeFrame serial).length) free = decide (0 < free) := by
  rw [s.probeFrame_cells]
  rfl

/-- The copy of a probe on a lane (R134). -/
def probeCopy (l : Lane) : Copy := { port := .lane l, form := .asStored, handle := none, role := .probe }

theorem State.probeCopies_ports (s : State) : s.probeCopies.map Copy.port = s.upLanes := by
  rw [State.probeCopies, List.map_map]
  exact List.map_id _

theorem State.upLanes_nodup (s : State) : s.upLanes.Nodup :=
  (by decide : [Port.lane .a, .lane .b].Nodup).sublist List.filter_sublist

theorem State.mem_upLanes_lane (s : State) (l : Lane) : .lane l ∈ s.upLanes ↔ s.isUp (.lane l) = true := by
  rw [State.mem_upLanes, and_iff_left ⟨l, rfl⟩]

/-- Sending a probe reaches what an admission reaches, and the two serial fields of the unit. -/
theorem State.sendProbe_traffic (s : State) (now : Time) : (s.withSerial now).onlyTrafficMoves (s.sendProbe now) :=
  State.requestAdmission_traffic _ _ _ _ _

theorem State.sendProbe_probe (s : State) (now : Time) : (s.sendProbe now).probe = (s.withSerial now).probe :=
  State.onlyTrafficMoves_probe (s.sendProbe_traffic now)

theorem State.flag_modProbe (s : State) (g : ProbeUnit → ProbeUnit) (f : Flag) : (s.modProbe g).flag f = s.flag f := rfl

theorem State.sendProbe_flag (s : State) (now : Time) {f : Flag} (hf : f ≠ .pool) : (s.sendProbe now).flag f = s.flag f := by
  rw [s.sendProbe_eq, State.requestAdmission_flag _ _ _ _ _ hf]
  exact s.flag_modProbe _ f

/-- No request moves a port's state (R149). -/
theorem State.requestAdmission_state (s : State) (frame : List Byte) (cls : DataClass) (copies : List Copy) (blame : List Port)
    (q : Port) : ((s.requestAdmission frame cls copies blame).1.port q).state = (s.port q).state := by
  have hqueue (u : PortUnit) (c : DataClass) (x : List Descriptor) : (u.setQueue c x).state = u.state := by cases c <;> rfl
  refine State.requestAdmission_field PortUnit.state PortUnit.choose_state (fun u fate n c x => ?_) (fun _ => rfl)
    s frame cls copies blame q
  cases fate with
  | flushed | dropped => rfl
  | enqueued => exact hqueue _ _ _

/-- A probe sent leaves the ring state's table as it was (R137). -/
theorem State.sendProbe_ringNow (s : State) (now : Time) : (s.sendProbe now).ringNow = s.ringNow := by
  have hup (p : Port) : (s.sendProbe now).isUp p = s.isUp p :=
    congrArg (· == PortState.up) ((s.withSerial now).requestAdmission_state _ _ _ _ p)
  have hprobe := s.sendProbe_probe now
  have hsettings := State.onlyTrafficMoves_settings (s.sendProbe_traffic now)
  refine State.ringNow_congr hsettings ?_ ?_ ?_
  · rw [State.lanesUp, hup, hup, State.lanesUp]
  · rw [hprobe]; rfl
  · rw [hprobe]; rfl

/-- With a free cell and room in an UP lane's TRIP queue, the probe's copy stands there and its frame in the pool (R134, R149). -/
theorem State.sendProbe_placed (s : State) (now : Time) {l : Lane} (hup : s.isUp (.lane l) = true) (hcells : 0 < s.freeCells)
    (hroom : (s.port (.lane l)).trip.length < s.settings.queueCapTrip.toNat) :
    (⟨s.nextName, .asStored, none⟩ : Descriptor) ∈ ((s.sendProbe now).port (.lane l)).descriptors
      ∧ ∃ g ∈ (s.sendProbe now).pool, g.name = s.nextName ∧ g.bytes = s.probeFrame (s.boundarySerial now) ∧ g.cls = .trip := by
  have hc : probeCopy l ∈ s.probeCopies := List.mem_map.mpr ⟨_, (s.mem_upLanes_lane l).mpr hup, rfl⟩
  have hstate : (s.port (.lane l)).state = .up := eq_of_beq hup
  have hflush : flushedAtOnce (s.port (.lane l)).state .probe = false := by rw [hstate]; rfl
  have hports : (s.probeCopies.map Copy.port).Nodup := s.probeCopies_ports ▸ s.upLanes_nodup
  have hadmissible := (s.probeFrame_admissible (s.boundarySerial now) s.freeCells).trans (decide_eq_true hcells)
  exact (s.withSerial now).requestAdmission_placed _ .trip s.probeCopies s.upLanes hports (probeCopy l) hc hadmissible
    (State.fateOf_enqueued _ _ (probeCopy l) hflush hroom)

/-- With no cell free the probe is refused: POOL is set, and each UP lane counts it (R148). -/
theorem State.sendProbe_refused (s : State) (now : Time) {l : Lane} (hup : s.isUp (.lane l) = true) (hcells : s.freeCells = 0) :
    (s.sendProbe now).pool = s.pool ∧ (s.sendProbe now).flag .pool = true
      ∧ (s.sendProbe now).port (.lane l) = { s.port (.lane l) with counters := { (s.port (.lane l)).counters with
          poolRefusals := bump (s.port (.lane l)).counters.poolRefusals } } := by
  have hlane := (s.mem_upLanes_lane l).mpr hup
  have hcopies : s.probeCopies ≠ [] := by
    rw [State.probeCopies, Ne, List.map_eq_nil_iff]
    exact List.ne_nil_of_mem hlane
  have hfree : (s.withSerial now).freeCells = 0 := hcells
  have hrefused : s.sendProbe now = (s.withSerial now).refuseFrame s.upLanes := by
    rw [s.sendProbe_eq, State.requestAdmission_refused _ _ _ _ _ hcopies]
    rw [s.probeFrame_admissible, hfree]
    rfl
  rw [hrefused]
  refine ⟨by rw [State.refuseFrame_eq]; rfl, ?_, ?_⟩
  · rw [State.flag, State.refuseFrame_flags]
    exact (s.withSerial now).flag_raise_same .pool
  · rw [State.refuseFrame_port _ s.upLanes_nodup, if_pos hlane]
    rfl

/-- A port that is no UP lane has nothing of the probe (R134). -/
theorem State.sendProbe_port_other (s : State) (now : Time) {p : Port} (hp : p ∉ s.upLanes) : (s.sendProbe now).port p = s.port p := by
  have hcopies : p ∉ s.probeCopies.map Copy.port := s.probeCopies_ports ▸ hp
  exact (s.withSerial now).requestAdmission_port_other _ _ _ _ _ hcopies hp

/-- With no lane UP the probe is not offered (R134, R147). -/
theorem State.sendProbe_noLane (s : State) (now : Time) (hdown : ∀ l : Lane, s.isUp (.lane l) = false) :
    (s.sendProbe now).pool = s.pool := by
  have hlanes : s.upLanes = [] := by simp [State.upLanes, hdown]
  rw [s.sendProbe_eq, State.probeCopies, hlanes]
  rfl

/-! ## A boundary before its probe (R133, R137, R141) -/

/-- The probe unit once the period is judged (R133). -/
def ProbeUnit.judged (u : ProbeUnit) (lanesUp : Bool) : ProbeUnit :=
  { u with
    missA := judgedMiss lanesUp u.answeredA u.missA, missB := judgedMiss lanesUp u.answeredB u.missB
    answeredA := false, answeredB := false }

/-- The part at a boundary of a node with a number, before the probe: the period judged, the roster aged, the ring state set anew. -/
def State.beforeProbe (s : State) : State := (s.judgePeriod.ageRoster s.bayClock).judgeRing

/-- The part with the period judged, and with this ring state, roster and flags: all that a boundary moves before its probe. -/
def State.judgedTo (s : State) (ring : RingState) (roster : List (Nat × RosterEntry)) (flags : BitVec 9) : State :=
  { s with probe := { s.probe.judged s.lanesUp with ring := ring, roster := roster }, flags := flags }

theorem State.beforeProbe_eq (s : State) :
    s.beforeProbe = s.judgedTo s.beforeProbe.probe.ring s.beforeProbe.probe.roster s.beforeProbe.flags := by
  rw [State.beforeProbe, State.judgeRing_eq, State.ageRoster_eq, State.raiseIf_eq]
  rfl

/-- On a started unit the ring state is that of its table, and RING is set on its change (R137). -/
theorem State.beforeProbe_ring (s : State) (hb : s.probe.boundary.isSome = true) :
    s.beforeProbe.probe.ring = s.beforeProbe.ringNow
      ∧ s.beforeProbe.flag .ring = (s.flag .ring || s.beforeProbe.probe.ring != s.probe.ring) := by
  have haged := s.judgePeriod.ageRoster_touches s.bayClock
  have hstarted : (s.judgePeriod.ageRoster s.bayClock).probe.boundary.isSome = true := by rw [haged]; exact hb
  have hold : (s.judgePeriod.ageRoster s.bayClock).probe.ring = s.probe.ring := by rw [haged]; rfl
  have hflag : (s.judgePeriod.ageRoster s.bayClock).flag .ring = s.flag .ring := by
    rw [State.ageRoster_flag, decide_eq_false Flag.noConfusion, Bool.and_false, Bool.or_false]
    rfl
  refine ⟨?_, ?_⟩
  · rw [State.beforeProbe, State.judgeRing_ring _ hstarted, State.judgeRing_ringNow]
  · rw [State.beforeProbe, State.judgeRing_flag, hflag, hold, decide_eq_true rfl, Bool.true_and]

theorem State.beforeProbe_aged (s : State) (hwf : Sparse.wf RosterEntry.absent s.probe.roster = true) :
    s.rosterAged s.beforeProbe s.ageLimit := by
  have haged : s.rosterAged (s.judgePeriod.ageRoster s.bayClock) s.ageLimit := s.judgePeriod.rosterAged_ageRoster hwf
  refine State.rosterAged_congr haged ?_ ?_
  · rw [State.beforeProbe, State.judgeRing_eq]
  · rw [State.beforeProbe, State.judgeRing_flag, decide_eq_false Flag.noConfusion, Bool.false_and, Bool.or_false]

/-! ## A boundary (R132, R133, R138) -/

theorem exec_probeBoundary {s : State} {due : Time} (hb : s.probe.boundary = some due)
    (hreached : (s.bayClock - due).toNat ≤ 0x7FFFFFFF) : exec .probeBoundary s = .next (s.probeBoundary due) := by
  have hdue : s.probeDue = some due := by
    rw [State.probeDue, hb]
    exact if_pos ((hasReached_iff _ _).mpr hreached)
  show execProbeBoundary s = _
  rw [execProbeBoundary, hdue]

theorem State.probeBoundary_numbered {s : State} (hn : s.settings.node ≠ 0) (due : Time) :
    s.probeBoundary due = (s.beforeProbe.sendProbe s.bayClock).modProbe
      (fun u => { u with boundary := some (due + BitVec.ofNat 32 (1000 * s.settings.probePeriod.toNat)) }) := by
  rw [State.probeBoundary, State.boundaryWork, if_neg hn, Settings.probeInterval, if_neg hn]
  rfl

theorem State.probeBoundary_transitOnly {s : State} (hn : s.settings.node = 0) (due : Time) :
    s.probeBoundary due = (s.ageRoster s.bayClock).modProbe (fun u => { u with boundary := some (due + 10000) }) := by
  rw [State.probeBoundary, State.boundaryWork, if_pos hn, Settings.probeInterval, if_pos hn]
  rfl

theorem State.ageLimit_numbered {s : State} (hn : s.settings.node ≠ 0) : s.ageLimit = 4000 * s.settings.probePeriod.toNat := by
  rw [State.ageLimit, Settings.probeInterval, if_neg hn]
  omega

theorem State.ageLimit_transitOnly {s : State} (hn : s.settings.node = 0) : s.ageLimit = 40000 := by
  rw [State.ageLimit, Settings.probeInterval, if_pos hn]

/-- A boundary of a node with a number, as the sending of a probe by a judged part. -/
theorem State.probeBoundary_sends {s : State} (hn : s.settings.node ≠ 0) (due : Time) :
    s.probeBoundary due =
      ((s.judgedTo s.beforeProbe.probe.ring s.beforeProbe.probe.roster s.beforeProbe.flags).sendProbe s.bayClock).modProbe
        (fun u => { u with boundary := some (due + BitVec.ofNat 32 (1000 * s.settings.probePeriod.toNat)) }) := by
  rw [State.probeBoundary_numbered hn, ← State.beforeProbe_eq]

/-- The probe unit after a boundary of a node with a number (R132, R133). -/
theorem State.probeBoundary_unit {s : State} (hn : s.settings.node ≠ 0) (due : Time) :
    (s.probeBoundary due).probe = { s.probe.judged s.lanesUp with
      ring := s.beforeProbe.probe.ring, roster := s.beforeProbe.probe.roster
      serials := appendSerial s.probe.serials (s.boundarySerial s.bayClock), nextSerial := some (s.boundarySerial s.bayClock + 1)
      boundary := some (due + BitVec.ofNat 32 (1000 * s.settings.probePeriod.toNat)) } := by
  rw [State.probeBoundary_sends hn, State.modProbe_probe, State.sendProbe_probe]
  rfl

/-- Of the flags a probe's sending can set POOL alone. -/
theorem State.probeBoundary_flag {s : State} (hn : s.settings.node ≠ 0) (due : Time) {f : Flag} (hf : f ≠ .pool) :
    (s.probeBoundary due).flag f = s.beforeProbe.flag f := by
  rw [State.probeBoundary_numbered hn, State.flag_modProbe, State.sendProbe_flag _ _ hf]

theorem State.probeBoundary_ringNow {s : State} (hn : s.settings.node ≠ 0) (due : Time) :
    (s.probeBoundary due).ringNow = s.beforeProbe.ringNow := by
  rw [State.probeBoundary_numbered hn, ← s.beforeProbe.sendProbe_ringNow s.bayClock]
  generalize s.beforeProbe.sendProbe s.bayClock = sent
  exact State.ringNow_congr rfl rfl rfl rfl

/-- What a boundary of a node with a number leaves as it was: all but the traffic, the flags and the probe unit. -/
theorem State.probeBoundary_touches {s : State} (hn : s.settings.node ≠ 0) (due : Time) :
    let t := s.probeBoundary due
    t = { s with ports := t.ports, pool := t.pool, nextName := t.nextName, tallies := t.tallies, flags := t.flags, probe := t.probe } := by
  intro t
  have hmoves := State.sendProbe_traffic (s.judgedTo s.beforeProbe.probe.ring s.beforeProbe.probe.roster s.beforeProbe.flags) s.bayClock
  rw [show t = _ from State.probeBoundary_sends hn due]
  generalize State.sendProbe _ _ = sent at hmoves ⊢
  rw [show sent = _ from hmoves]
  rfl

/-- Settles O40: on a node with a number from what stands before the probe and what sending it does, on a transit-only node from the
ageing alone. -/
theorem probeBoundaryWork : Obligations.ProbeBoundaryWork := by
  unfold Obligations.ProbeBoundaryWork
  intro fresh aged
  refine ⟨fun due s hb hreached hn => ?_, fun due s hb hreached hn hwf => ?_⟩
  · intro serial judged
    have hserial : serial = s.boundarySerial s.bayClock := by
      simp only [serial, State.boundarySerial]
      cases s.probe.nextSerial <;> rfl
    have hunit := State.probeBoundary_unit hn due
    have hsent := State.probeBoundary_sends hn due
    obtain ⟨hjudgedRing, hringFlag⟩ := s.beforeProbe_ring (by rw [hb]; rfl)
    have hring : (s.probeBoundary due).probe.ring = s.beforeProbe.probe.ring := by rw [hunit]
    rw [hserial]
    refine ⟨s.probeBoundary due, exec_probeBoundary hb hreached, congrArg ProbeUnit.boundary hunit, congrArg ProbeUnit.missA hunit,
      congrArg ProbeUnit.missB hunit, congrArg ProbeUnit.answeredA hunit, congrArg ProbeUnit.answeredB hunit, ?_, ?_,
      congrArg ProbeUnit.serials hunit, congrArg ProbeUnit.nextSerial hunit, (congrArg ProbeUnit.clashes hunit :), fun hwf => ?_,
      fun l hup hcells hroom => ?_, fun l hup hcells => ?_, fun l hdown => ?_, fun q => ?_, fun hdown => ?_,
      State.probeBoundary_touches hn due⟩
    · rw [hring, hjudgedRing, State.probeBoundary_ringNow hn]
    · rw [State.probeBoundary_flag hn due Flag.noConfusion, hring, hringFlag]
    · rw [← State.ageLimit_numbered hn]
      exact State.rosterAged_congr (s.beforeProbe_aged hwf) (by rw [hunit])
        (State.probeBoundary_flag hn due Flag.noConfusion)
    · rw [hring, hsent, State.port_modProbe, State.modProbe_pool]
      obtain ⟨hcopy, g, hg, hname, hbytes, hclass⟩ := State.sendProbe_placed (s.judgedTo _ _ _) s.bayClock hup hcells hroom
      exact ⟨hcopy, g, hg, hname, hclass, hbytes⟩
    · rw [hsent, State.port_modProbe, State.modProbe_pool, State.flag_modProbe]
      exact State.sendProbe_refused (s.judgedTo _ _ _) s.bayClock hup hcells
    · rw [hsent, State.port_modProbe, State.sendProbe_port_other]
      · rfl
      · exact mt (s.mem_upLanes_lane l).mp (Bool.eq_false_iff.mp hdown)
    · rw [hsent, State.port_modProbe, State.sendProbe_port_other]
      · rfl
      · intro hq
        obtain ⟨-, l, hl⟩ := (s.mem_upLanes _).mp hq
        cases hl
    · rw [hsent, State.modProbe_pool, State.sendProbe_noLane]
      · rfl
      · exact hdown
  · refine ⟨_, exec_probeBoundary hb hreached, ?_⟩
    have haged := s.rosterAged_ageRoster hwf
    rw [State.ageLimit_transitOnly hn] at haged
    rw [State.probeBoundary_transitOnly hn]
    exact ⟨congrArg (State.modProbe · _) (s.ageRoster_touches s.bayClock), haged⟩

end Sys2Proof.Machine
end

section
namespace Sys2Proof.Machine

/-! ## What the balance of copies, cells and tallies reads (R145, R148, R154) -/

/-- The laws of pool, cells and tallies, for the descriptors of the state's own ports. -/
abbrev State.balanced (s : State) : Prop := Balanced s s.descriptors

/-- All that the balance reads of a state. -/
def State.traffic (s : State) : List StoredFrame × Nat × List (Nat × Nat) × PortMap PortUnit := (s.pool, s.nextName, s.tallies, s.ports)

/-- What leaves pool, names, tallies and ports alone keeps the balance. -/
theorem Balanced.quiet {s t : State} (h : s.balanced) (ht : t.traffic = s.traffic) : t.balanced := by
  obtain ⟨hpool, hname, htallies, hports⟩ :
      t.pool = s.pool ∧ t.nextName = s.nextName ∧ t.tallies = s.tallies ∧ t.ports = s.ports := by
    simpa only [State.traffic, Prod.mk.injEq] using ht
  have hd : t.descriptors = s.descriptors := by simp only [State.descriptors, State.port, hports]
  rw [State.balanced, hd]
  exact h.congr hpool hname htallies

theorem State.traffic_raiseIf (s : State) (c : Bool) (f : Flag) : (s.raiseIf c f).traffic = s.traffic := by cases c <;> rfl

theorem Balanced.count {s : State} (p : Port) (g : PortCounters → PortCounters) (h : s.balanced) : (s.count p g).balanced :=
  h.modPort p _ (fun _ => List.Perm.refl _)

/-! ## Ports (R115 to R121, R125, R126) -/

theorem Balanced.linkPresent {s : State} (p : Port) (h : s.balanced) : (s.linkPresent p).balanced := by
  have hsignal : (s.modPort p (fun u => { u with signal := true })).balanced := h.modPort p _ (fun _ => List.Perm.refl _)
  unfold State.linkPresent
  dsimp only
  split
  · exact hsignal.movePort p .up
  · exact hsignal

theorem Balanced.withFlaps {s : State} (p : Port) (flaps : List Time) (h : s.balanced) :
    (s.modPort p (fun u => { u with flaps := flaps })).balanced :=
  h.modPort p _ (fun _ => List.Perm.refl _)

theorem Balanced.flap {s : State} (p : Port) (h : s.balanced) : (s.flap p).balanced :=
  (h.movePort p _).withFlaps p _

theorem Balanced.linkLost {s : State} (p : Port) (h : s.balanced) : (s.linkLost p).balanced := by
  have hsignal : (s.modPort p (fun u => { u with signal := false })).balanced := h.modPort p _ (fun _ => List.Perm.refl _)
  unfold State.linkLost
  dsimp only
  split
  · exact hsignal.flap p
  · exact hsignal.movePort p .down
  all_goals exact hsignal

theorem Balanced.commandOn {s : State} (p : Port) (h : s.balanced) : (s.commandOn p).1.balanced := by
  rw [State.commandOn_state]
  split
  · exact h.enterState p _
  · exact h

theorem Balanced.commandOff {s : State} (p : Port) (h : s.balanced) : (s.commandOff p).1.balanced := by
  unfold State.commandOff
  split
  · exact h
  all_goals exact (h.movePort p .off).withFlaps p []

theorem Balanced.commandReinstate {s : State} (p : Port) (h : s.balanced) : (s.commandReinstate p).1.balanced := by
  unfold State.commandReinstate
  split
  case h_5 => exact (h.movePort p _).withFlaps p []
  all_goals exact h

theorem Balanced.commandEndProve {s : State} (p : Port) (h : s.balanced) : (s.commandEndProve p).1.balanced := by
  unfold State.commandEndProve
  split
  · exact h
  split
  · exact h.movePort _ .up
  · exact h

theorem Balanced.modProving {s : State} (l : Lane) (g : ProvingRecord → ProvingRecord) (h : s.balanced) : (s.modProving l g).balanced :=
  h.quiet rfl

/-- A proving frame is a request, with the sequence and the count in the lane's record (R126). -/
theorem Balanced.sendProving {s : State} (l : Lane) (h : s.balanced) : (s.sendProving l).balanced := by
  unfold State.sendProving
  exact (h.requestAdmission _ _ _ _).modProving l _

theorem Balanced.commandProve {s : State} (p : Port) (h : s.balanced) : (s.commandProve p).1.balanced := by
  unfold State.commandProve
  split
  · exact h
  · rename_i l
    split
    · exact ((h.movePort (.lane l) .proving).modProving l _).sendProving l
    · exact h

theorem Balanced.portCommand {s : State} (n : Byte) {action : State → Port → State × Result} (h : s.balanced)
    (ha : ∀ p, (action s p).1.balanced) : (s.portCommand n action).1.balanced := by
  unfold State.portCommand
  split
  · exact ha _
  · exact h

/-! ## The probe unit (R133, R136, R139 to R142) -/

theorem State.traffic_judgeRing (s : State) : s.judgeRing.traffic = s.traffic := by rw [State.judgeRing_eq]; rfl

theorem State.traffic_hearProbe (s : State) (l : Lane) (arrival : Time) (frame : List Byte) :
    (s.hearProbe l arrival frame).traffic = s.traffic := by rw [State.hearProbe_eq]; rfl

theorem State.traffic_probeReturn (s : State) (l : Lane) (frame : List Byte) : (s.probeReturn l frame).traffic = s.traffic := by
  unfold State.probeReturn
  split
  · split
    · exact State.traffic_judgeRing _
    · rfl
  · rfl

theorem Balanced.sendProbe {s : State} (now : Time) (h : s.balanced) : (s.sendProbe now).balanced := by
  have hserial : (s.withSerial now).balanced := h.quiet rfl
  rw [State.sendProbe_eq]
  exact hserial.requestAdmission _ _ _ _

/-- Of a boundary's work, the probe sent alone reaches the pool (R133, R134). -/
theorem Balanced.probeBoundary {s : State} (due : Time) (h : s.balanced) : (s.probeBoundary due).balanced := by
  by_cases hn : s.settings.node = 0
  · rw [State.probeBoundary_transitOnly hn]
    exact h.quiet (by rw [State.ageRoster_touches]; rfl)
  · rw [State.probeBoundary_numbered hn]
    have hjudged : s.beforeProbe.balanced := h.quiet (by rw [State.beforeProbe_eq]; rfl)
    exact (hjudged.sendProbe s.bayClock).quiet rfl

/-! ## Intakes and the grants of their claims (R9 to R17, R34 to R36, R62 to R71) -/

theorem Balanced.settleFrame {s : State} (p : Port) (h : s.balanced) : (s.settleFrame p).balanced :=
  h.modPort p _ (fun _ => List.Perm.refl _)

theorem Balanced.discard {s : State} (p : Port) (g : PortCounters → PortCounters) (h : s.balanced) : (s.discard p g).balanced :=
  (h.settleFrame p).count p g

theorem Balanced.claimTable {s : State} (p : Port) (c : IntakeClaim) (h : s.balanced) : (s.claimTable p c).balanced :=
  h.modPort p _ (fun _ => List.Perm.refl _)

theorem Balanced.looking {s : State} (p : Port) (h : s.balanced) : (s.looking p).balanced := (h.settleFrame p).quiet rfl

theorem Balanced.sendTransit {s : State} (l : Lane) (frame : List Byte) (h : s.balanced) : (s.sendTransit l frame).balanced :=
  h.requestAdmission _ _ _ _

theorem Balanced.reflect {s : State} (l : Lane) (frame : List Byte) (h : s.balanced) : (s.reflect l frame).balanced := by
  unfold State.reflect
  split
  · exact h.requestAdmission _ _ _ _
  · exact h

theorem Balanced.provingArrival {s : State} (l : Lane) (f : RxFrame) (h : s.balanced) : (s.provingArrival l f).balanced := by
  unfold State.provingArrival
  dsimp only
  split
  · exact h
  split
  · split
    · exact h.quiet rfl
    · exact h
  split
  · exact h
  · exact h.reflect l _

theorem Balanced.removeFrame {s : State} (l : Lane) (f : RxFrame) (h : s.balanced) : (s.removeFrame l f).balanced := by
  unfold State.removeFrame
  dsimp only
  split
  · exact h.quiet (s.traffic_probeReturn l _)
  · exact h.count _ _

theorem Balanced.laneStep6 {s : State} (l : Lane) (f : RxFrame) (h : s.balanced) : (s.laneStep6 l f).balanced := by
  unfold State.laneStep6
  dsimp only
  generalize hstep : (if (tagOf f.bytes).hops = 0 then s.count (.lane l) PortCounters.expired else s) = t
  have ht : t.balanced := by
    rw [← hstep]
    split
    · exact h.count _ _
    · exact h
  split
  · exact ((ht.settleFrame _).quiet (State.traffic_hearProbe _ _ _ _)).sendTransit l _
  split
  · exact (ht.settleFrame _).sendTransit l _
  · exact ht.claimTable _ _

theorem Balanced.laneSteps {s : State} (l : Lane) (f : RxFrame) (h : s.balanced) : (s.laneSteps l f).balanced := by
  unfold State.laneSteps
  dsimp only
  split
  · exact h.discard _ _
  split
  · exact h.discard _ _
  split
  · exact h.discard _ _
  split
  · exact (h.settleFrame _).provingArrival l f
  split
  · exact h.settleFrame _
  split
  · exact (h.settleFrame _).removeFrame l f
  · exact h.laneStep6 l f

/-- A bay intake discards its frame or claims the table for it, and reaches no copy. -/
theorem Balanced.unpairedSteps {s : State} (p : BayPort) (f : RxFrame) (h : s.balanced) : (s.unpairedSteps p f).balanced := by
  unfold State.unpairedSteps
  iterate 3 (split; · exact h.discard _ _)
  exact h.claimTable _ _

theorem Balanced.pairedSteps {s : State} (p : BayPort) (f : RxFrame) (h : s.balanced) : (s.pairedSteps p f).balanced := by
  unfold State.pairedSteps
  dsimp only
  iterate 6 (split; · exact h.discard _ _)
  exact h.claimTable _ _

theorem Balanced.lookupOn {s : State} (p : Port) (f : RxFrame) (h : s.balanced) : (s.lookupOn p f).balanced := by
  cases p with
  | lane l =>
    unfold State.lookupOn State.laneLookup
    dsimp only
    split
    · split
      · exact h.handleArrival _ _ f _ _
      · exact h.sendTransit l _
    · exact h.sendTransit l _
  | bay q =>
    unfold State.lookupOn State.pairLookup
    dsimp only
    split
    · split
      · exact h.handleArrival _ _ f _ _
      · exact h.count _ _
    · exact h.count _ _

theorem Balanced.originate {s : State} (k : Nat) (p : BayPort) (f : RxFrame) (h : s.balanced) : (s.originate k p f).balanced := by
  unfold State.originate
  dsimp only
  split
  · exact h.quiet (State.traffic_raiseIf _ _ _)
  · exact (h.requestAdmission _ _ _ _).quiet (State.traffic_raiseIf _ _ _)

theorem Balanced.searchOn {s : State} (p : BayPort) (f : RxFrame) (h : s.balanced) : (s.searchOn p f).balanced := by
  unfold State.searchOn
  split
  · exact h.originate _ p f
  · exact h.count _ _

/-! ## The load and the three starts (R167, R170, R173 to R176) -/

theorem Balanced.turnOnAll (ps : List Port) {s : State} (h : s.balanced) : (s.turnOnAll ps).balanced := by
  induction ps generalizing s with
  | nil => exact h
  | cons p ps ih => exact ih (h.commandOn p)

theorem Balanced.endLoad {s : State} (outcome : LoadState) (h : s.balanced) : (s.endLoad outcome).balanced := by
  obtain ⟨hmoves, -⟩ := s.endLoad_eq outcome
  exact h.quiet (by rw [hmoves]; rfl)

theorem Balanced.failLoad {s : State} (h : s.balanced) : s.failLoad.balanced := (h.turnOnAll _).endLoad _

/-- Applying an image reaches the ports by their ONs alone. -/
theorem Balanced.applyImage {s : State} (store : List Byte) (h : s.balanced) : (s.applyImage store).balanced := by
  have hinstalled : ((s.applying store).installAll store).balanced := h.quiet (by rw [State.installAll_moves]; rfl)
  have hfrozen : (((s.applying store).installAll store).addFreeze (blockSettings store).freeze).balanced := hinstalled.quiet rfl
  rw [State.applyImage_eq]
  exact (hfrozen.turnOnAll _).endLoad _

theorem Balanced.judgePart {s : State} (size : Nat) (h : s.balanced) : (s.judgePart size).balanced := by
  unfold State.judgePart
  dsimp only
  split
  · split
    · exact h
    · exact h.failLoad
  split
  · split
    · exact h.applyImage _
    · exact h.failLoad
  · exact h

theorem Balanced.transferOutcome {s : State} (outcome : TryOutcome) (h : s.balanced) : (s.transferOutcome outcome).balanced := by
  have hloader (g : Loader → Loader) : (s.modLoader g).balanced := h.quiet rfl
  cases outcome with
  | notAcknowledged which =>
    unfold State.transferOutcome State.failedTry
    dsimp only
    split
    · exact (hloader _).failLoad
    · exact hloader _
  | acknowledged bytes =>
    unfold State.transferOutcome State.goodTry
    dsimp only
    split
    · exact (hloader _).judgePart _
    · exact h

/-- A part started afresh holds no frame and no copy, whatever was before (R154, R170). -/
theorem State.freshStart_balanced (s : State) (signal : PortMap Bool) (held : Bool) : (s.freshStart signal held).balanced where
  cells := ⟨Nat.zero_le _, Nat.zero_le _, Nat.zero_le _⟩
  names := List.nodup_nil
  older := fun _ hf => absurd hf List.not_mem_nil
  copies := fun _ hf => absurd hf List.not_mem_nil
  stored := fun _ hd => absurd hd List.not_mem_nil
  canonical := rfl
  tallied := fun _ => rfl

end Sys2Proof.Machine
end

section
namespace Sys2Proof.Machine

/-! ## Commands and grants that reach no copy (R30, R82, R95 to R108, R156 to R168) -/

theorem Balanced.immediate {α : Type} {s : State} (arg : FrameArg α) (n : Nat) (act : α → State × Result × List Byte) (h : s.balanced)
    (ha : ∀ x, (act x).1.balanced) : (s.immediate arg n act).balanced := by
  unfold State.immediate
  split
  · cases arg with
    | whole x => exact (ha x).quiet rfl
    | cut => exact h.quiet rfl
  · exact h.quiet rfl

theorem Balanced.readPort {s : State} (n : Byte) {after : State → Port → State} (h : s.balanced) (ha : ∀ p, (after s p).balanced) :
    (s.readPort n after).1.balanced := by
  unfold State.readPort
  split
  · exact ha _
  · exact h

theorem State.traffic_claimTimed (s : State) (kind : TimedKind) (arg : FrameArg Word) (copy : List Byte) :
    (s.claimTimed kind arg copy).traffic = s.traffic := by
  unfold State.claimTimed
  split
  · cases arg with
    | whole h =>
      dsimp only
      split <;> rfl
    | cut => rfl
  · rfl

/-- A grant reaches what its operation reaches: the posted result is no part of the traffic (R96). -/
theorem State.traffic_grantTimed (s : State) (kind : TimedKind) {op : State → Nat → List Byte → State × Result}
    (h : ∀ handle copy, (op s handle copy).1.traffic = s.traffic) : (s.grantTimed kind op).traffic = s.traffic := by
  unfold State.grantTimed
  split
  · dsimp only
    split
    · exact h _ _
    · rfl
  · rfl

theorem State.traffic_installOp (s : State) (h : Nat) (copy : List Byte) : (s.installOp h copy).1.traffic = s.traffic := by
  unfold State.installOp
  iterate 3 (split; · rfl)
  split
  · rfl
  · split <;> rfl

theorem State.traffic_amendOp (s : State) (h : Nat) (copy : List Byte) : (s.amendOp h copy).1.traffic = s.traffic := by
  unfold State.amendOp
  dsimp only
  iterate 3 (split; · rfl)
  split <;> rfl

theorem State.traffic_retireOp (s : State) (h : Nat) (copy : List Byte) : (s.retireOp h copy).1.traffic = s.traffic := by
  unfold State.retireOp
  dsimp only
  iterate 3 (split; · rfl)
  rfl

theorem State.traffic_heldOp (s : State) (held : Bool) (h : Nat) (copy : List Byte) :
    (State.heldOp held s h copy).1.traffic = s.traffic := by
  unfold State.heldOp
  dsimp only
  iterate 2 (split; · rfl)
  rfl

theorem State.traffic_snapshotOp (s : State) (change : Record → Record) (h : Nat) (copy : List Byte) :
    (State.snapshotOp change s h copy).1.traffic = s.traffic := by
  unfold State.snapshotOp
  dsimp only
  split
  · rfl
  · split <;> rfl

/-! ## Writes of settings (R5, R6, R111, R122, R137, R163) -/

theorem State.traffic_writeNode (s : State) (x : Word) : (s.writeNode x).1.traffic = s.traffic := by
  unfold State.writeNode
  iterate 3 (split; · rfl)
  obtain ⟨hmoves, -⟩ := (s.putSetting .node x).restartProbes_eq
  rw [hmoves]
  rfl

theorem State.traffic_writeAttached (s : State) (k : Pair) (x : Word) : (s.writeAttached k x).1.traffic = s.traffic := by
  unfold State.writeAttached
  iterate 4 (split; · rfl)
  rfl

theorem State.traffic_writePairEnable (s : State) (x : Word) : (s.writePairEnable x).1.traffic = s.traffic := by
  unfold State.writePairEnable
  iterate 4 (split; · rfl)
  rfl

theorem State.traffic_writeFreeze (s : State) (x : Word) : (s.writeFreeze x).1.traffic = s.traffic := by
  unfold State.writeFreeze
  split <;> rfl

theorem State.traffic_writeMissLimit (s : State) (x : Word) : (s.writeMissLimit x).1.traffic = s.traffic := by
  unfold State.writeMissLimit
  split
  · exact State.traffic_judgeRing _
  · rfl

theorem State.traffic_writePlain (s : State) (n : SettingId) (x : Word) : (s.writePlain n x).1.traffic = s.traffic := by
  unfold State.writePlain
  split <;> rfl

/-- Each setting's write goes by the rule that owns it. -/
theorem State.traffic_writeById (s : State) (n : SettingId) (x : Word) : (s.writeById n x).1.traffic = s.traffic := by
  cases n
  case node => exact s.traffic_writeNode x
  case attachedNode0 => exact s.traffic_writeAttached .pair0 x
  case attachedNode1 => exact s.traffic_writeAttached .pair1 x
  case pairEnable => exact s.traffic_writePairEnable x
  case freeze => exact s.traffic_writeFreeze x
  case probeMissLimit => exact s.traffic_writeMissLimit x
  all_goals exact s.traffic_writePlain _ x

theorem State.traffic_writeSetting (s : State) (n : Byte) (x : Word) : (s.writeSetting n x).1.traffic = s.traffic := by
  unfold State.writeSetting
  split
  · exact s.traffic_writeById _ x
  · rfl

/-! ## The sweep and the notices (R30, R79 to R82, R91) -/

theorem State.traffic_sweepBoundary (s : State) : s.sweepBoundary.traffic = s.traffic := by
  unfold State.sweepBoundary
  split <;> rfl

theorem State.traffic_visitPassed (s : State) (h : Nat) : ((s.visit h).passOn h).traffic = s.traffic := by
  rw [State.passOn_eq, State.visit_eq]
  rfl

theorem State.traffic_freeIfDrained (s : State) (h : Nat) : (s.freeIfDrained h).traffic = s.traffic := by
  unfold State.freeIfDrained
  split <;> rfl

/-! ## One step (R145, R148, R154) -/

/-- The state an outcome goes on in, if it goes on, has the laws of pool, cells and tallies. -/
def endsBalanced (o : Host.Outcome State Fault Refusal) : Prop := ∀ t, o = .next t → t.balanced

theorem endsBalanced_next {t : State} (h : t.balanced) : endsBalanced (.next t) := fun _ ht => by
  cases ht
  exact h

/-- An event that has an occasion only under a condition, and no effect without it (log 2). -/
theorem endsBalanced_ite {s t : State} (c : Prop) [Decidable c] (hs : s.balanced) (ht : t.balanced) :
    endsBalanced (.next (if c then t else s)) := by
  refine endsBalanced_next ?_
  split
  · exact ht
  · exact hs

theorem laneIntake_balanced (l : Lane) {s : State} (h : s.balanced) : endsBalanced (execLaneIntake l s) := by
  unfold execLaneIntake
  split
  · exact endsBalanced_next (h.laneSteps l _)
  · exact endsBalanced_next h

theorem bayIntake_balanced (p : BayPort) {s : State} (h : s.balanced) : endsBalanced (execBayIntake p s) := by
  unfold execBayIntake
  split
  · refine endsBalanced_next ?_
    split
    · exact h.pairedSteps p _
    · exact h.unpairedSteps p _
  · exact endsBalanced_next h

theorem lookupByKey_balanced (p : Port) {s : State} (h : s.balanced) : endsBalanced (execLookupByKey p s) := by
  unfold execLookupByKey
  split
  · exact endsBalanced_ite _ h ((h.looking p).lookupOn p _)
  · exact endsBalanced_next h

theorem patternSearch_balanced (p : BayPort) {s : State} (h : s.balanced) : endsBalanced (execPatternSearch p s) := by
  unfold execPatternSearch
  split
  · exact endsBalanced_ite _ h ((h.looking (.bay p)).searchOn p _)
  · exact endsBalanced_next h

theorem noticeGrant_balanced {s : State} (h : s.balanced) : endsBalanced (execNoticeGrant s) := by
  unfold execNoticeGrant
  split
  · exact endsBalanced_next (h.quiet (State.traffic_freeIfDrained _ _))
  · exact endsBalanced_next h

theorem sweepPeriodBoundary_balanced {s : State} (h : s.balanced) : endsBalanced (execSweepPeriodBoundary s) :=
  endsBalanced_ite _ h (h.quiet s.traffic_sweepBoundary)

theorem probeBoundary_balanced {s : State} (h : s.balanced) : endsBalanced (execProbeBoundary s) := by
  unfold execProbeBoundary
  split
  · exact endsBalanced_next (h.probeBoundary _)
  · exact endsBalanced_next h

theorem provingFrame_balanced (l : Lane) {s : State} (h : s.balanced) : endsBalanced (execProvingFrame l s) := by
  unfold execProvingFrame
  split
  · exact endsBalanced_next ((h.sendProving l).modProving l _)
  · exact endsBalanced_next h

theorem transmissionEnd_balanced (p : Port) {s : State} (h : s.balanced) : endsBalanced (execTransmissionEnd p s) := by
  unfold execTransmissionEnd
  split
  · rename_i d hsending
    exact endsBalanced_next (h.endTransmission p d hsending)
  · exact endsBalanced_next h

theorem unknownCommand_balanced (frame : StrayFrame) {s : State} (h : s.balanced) : endsBalanced (execUnknownCommand frame s) := by
  refine endsBalanced_next ?_
  split
  · split <;> exact h.quiet rfl
  · exact h

/-- With no command waiting, a unit that is due acts, or the clock moves (log 1). -/
theorem idle_balanced {s : State} (h : s.balanced) : endsBalanced s.idle := by
  unfold State.idle
  split
  · exact sweepPeriodBoundary_balanced h
  split
  · exact probeBoundary_balanced h
  split
  · exact provingFrame_balanced .a h
  split
  · exact provingFrame_balanced .b h
  · refine endsBalanced_next (h.quiet ?_)
    unfold State.tick
    split <;> rfl

/-- Every command and event keeps the balance. -/
theorem exec_balanced (c : Instr) {s : State} (h : s.balanced) : endsBalanced (exec c s) := by
  have hquiet {t : State} (ht : t.traffic = s.traffic) : endsBalanced (.next t) := endsBalanced_next (h.quiet ht)
  have hact {α : Type} (arg : FrameArg α) (n : Nat) (act : α → State × Result × List Byte) (ha : ∀ x, (act x).1.balanced) :
      endsBalanced (.next (s.immediate arg n act)) := endsBalanced_next (h.immediate arg n act ha)
  have hread {α : Type} (arg : FrameArg α) (n : Nat) (act : α → State × Result × List Byte)
      (ha : ∀ x, (act x).1.traffic = s.traffic) :
      endsBalanced (.next (s.immediate arg n act)) := hact arg n act (fun x => h.quiet (ha x))
  have hclaim (kind : TimedKind) (arg : FrameArg Word) (copy : List Byte) : endsBalanced (.next (s.claimTimed kind arg copy)) :=
    hquiet (s.traffic_claimTimed kind arg copy)
  cases c with
  | powerOn signal => exact endsBalanced_next (s.freshStart_balanced _ _)
  | resetNLow => exact endsBalanced_next (s.freshStart_balanced _ _)
  | resetNHigh => exact endsBalanced_ite _ h (h.quiet rfl)
  | fullReset => exact endsBalanced_next ((s.freshStart_balanced s.signals s.resetHeld).quiet rfl)
  | controlReset => exact hread _ _ _ (fun _ => rfl)
  | transfer outcome => exact endsBalanced_ite _ h (h.transferOutcome outcome)
  | linkSignalPresent p => exact endsBalanced_next (h.linkPresent p)
  | linkSignalLost p => exact endsBalanced_next (h.linkLost p)
  | frameReception p frame => exact endsBalanced_ite _ h (h.modPort p _ (fun _ => List.Perm.refl _))
  | frameReceptionStart p => exact endsBalanced_ite _ h (h.modPort p _ (fun _ => List.Perm.refl _))
  | laneIntake l => exact laneIntake_balanced l h
  | bayIntake p => exact bayIntake_balanced p h
  | lookupByKey p => exact lookupByKey_balanced p h
  | patternSearch p => exact patternSearch_balanced p h
  | noticeGrant => exact noticeGrant_balanced h
  | sweepPeriodBoundary => exact sweepPeriodBoundary_balanced h
  | sweepVisit => exact endsBalanced_ite _ h (h.quiet (State.traffic_visitPassed s.endInHand _))
  | probeBoundary => exact probeBoundary_balanced h
  | provingFrame l => exact provingFrame_balanced l h
  | transmissionEnd p => exact transmissionEnd_balanced p h
  | statusRead => exact hquiet rfl
  | flagsRead => exact hquiet rfl
  | flagsClear word => exact hread _ _ _ (fun _ => rfl)
  | settingRead number => exact hread _ _ _ (fun n => congrArg State.traffic (s.readSetting_same n))
  | settingWrite arg => exact hread _ _ _ (fun x => s.traffic_writeSetting x.1 x.2)
  | nodeWrite value => exact hread _ _ _ s.traffic_writeNode
  | attachedNodeWrite k value => exact hread _ _ _ (s.traffic_writeAttached k)
  | pairEnableWrite value => exact hread _ _ _ s.traffic_writePairEnable
  | freezeWrite value => exact hread _ _ _ s.traffic_writeFreeze
  | probeMissLimitWrite value => exact hread _ _ _ s.traffic_writeMissLimit
  | attnMaskWrite value => exact hread _ _ _ (s.traffic_writePlain .attnMask)
  | stageWrite arg => exact hread _ _ _ (fun _ => rfl)
  | stageRead => exact hread _ _ _ (fun _ => rfl)
  | install handle => exact hclaim _ _ _
  | amend handle => exact hclaim _ _ _
  | retire handle => exact hclaim _ _ _
  | hold handle => exact hclaim _ _ _
  | release handle => exact hclaim _ _ _
  | snapshot handle => exact hclaim _ _ _
  | snapshotClear handle => exact hclaim _ _ _
  | installGrant => exact hquiet (s.traffic_grantTimed _ s.traffic_installOp)
  | amendGrant => exact hquiet (s.traffic_grantTimed _ s.traffic_amendOp)
  | retireGrant => exact hquiet (s.traffic_grantTimed _ s.traffic_retireOp)
  | holdGrant => exact hquiet (s.traffic_grantTimed _ (s.traffic_heldOp true))
  | releaseGrant => exact hquiet (s.traffic_grantTimed _ (s.traffic_heldOp false))
  | snapshotGrant => exact hquiet (s.traffic_grantTimed _ (s.traffic_snapshotOp _))
  | snapshotClearGrant => exact hquiet (s.traffic_grantTimed _ (s.traffic_snapshotOp _))
  | viewRead arg => exact hread _ _ _ (fun _ => rfl)
  | attentionRead => exact hread _ _ _ (fun _ => rfl)
  | portRead port => exact hact _ _ _ (fun n => h.readPort n (fun _ => h))
  | portReadClear port => exact hact _ _ _ (fun n => h.readPort n (fun p => h.count p _))
  | portOn port => exact hact _ _ _ (fun n => h.portCommand n h.commandOn)
  | portOff port => exact hact _ _ _ (fun n => h.portCommand n h.commandOff)
  | prove port => exact hact _ _ _ (fun n => h.portCommand n h.commandProve)
  | endProve port => exact hact _ _ _ (fun n => h.portCommand n h.commandEndProve)
  | reinstate port => exact hact _ _ _ (fun n => h.portCommand n h.commandReinstate)
  | ringRead => exact hread _ _ _ (fun _ => rfl)
  | rosterRead arg => exact hread _ _ _ (fun x => congrArg State.traffic (s.readRoster_same x.1.toNat x.2.toNat))
  | unknownCommand frame => exact unknownCommand_balanced frame h

/-- Settles O56: the three laws are the balance of the part's own descriptors, which the front command keeps, as does the idle part's
work; the command's leaving the queue reaches none of it. -/
theorem everyStepKeepsThePoolLaws : Obligations.EveryStepKeepsThePoolLaws := by
  intro s t hcells hpool htallies hstep
  have h : s.balanced := (balanced_iff s).mpr ⟨hcells, hpool, htallies⟩
  refine (balanced_iff t).mp ?_
  unfold step at hstep
  split at hstep
  · exact idle_balanced h t hstep
  · rename_i c rest _
    exact exec_balanced c (h.quiet (t := { s with pending := rest }) rfl) t hstep

end Sys2Proof.Machine
end

section
namespace Sys2Proof.Machine

/-! ## The end of a transmission (R145, R147, R152 to R154) -/

/-- The port as its transmission ends whole: the copy is on the wire and counted, and the transmitter is idle (R152). -/
def PortUnit.sent (u : PortUnit) (wire : List Byte) : PortUnit :=
  { u with sending := none, lastOut := wire, counters := { u.counters with framesOut := bump u.counters.framesOut } }

theorem exec_transmissionEnd {p : Port} {d : Descriptor} {s : State} (hs : (s.port p).sending = some d) :
    exec (.transmissionEnd p) s = .next (s.endTransmission p d) := by
  show execTransmissionEnd p s = _
  rw [execTransmissionEnd, hs]

/-- The port whose transmission ends is the one with its copy sent, after its choice; every other port is as it was (R152). -/
theorem State.endTransmission_port (s : State) (p : Port) (d : Descriptor) (q : Port) :
    (s.endTransmission p d).port q =
      if q = p then ((s.port p).sent (s.wireBytes d)).choose s.settings.statusQuota.toNat else s.port q := by
  have hsettings (u : State) : (u.releaseCopy d).settings = u.settings := by rw [State.releaseCopy_eq]
  unfold State.endTransmission
  dsimp only
  rw [State.serve_port, State.releaseCopy_port, State.releaseCopy_port, State.port_modPort_same, hsettings]
  split
  · rfl
  · rename_i hq
    exact s.port_modPort_other _ hq

/-- A choice reads neither the counters nor the wire output, and leaves both. -/
theorem PortUnit.choose_out (u : PortUnit) (c : PortCounters) (out : List Byte) (quota : Nat) :
    ({ u with counters := c, lastOut := out } : PortUnit).choose quota = { u.choose quota with counters := c, lastOut := out } := by
  have hclass : chosenClass { u with counters := c, lastOut := out } quota = chosenClass u quota := rfl
  have hqueue (k : DataClass) : ({ u with counters := c, lastOut := out } : PortUnit).queue k = u.queue k := by cases k <;> rfl
  have hset (k : DataClass) (q : List Descriptor) : ({ u with counters := c, lastOut := out } : PortUnit).setQueue k q =
      { u.setQueue k q with counters := c, lastOut := out } := by cases k <;> rfl
  simp only [PortUnit.choose, hclass, hqueue, hset]
  split
  · split <;> rfl
  · rfl

theorem State.wireBytes_stored {s : State} {d : Descriptor} {g : StoredFrame} (hg : s.pool.find? (fun f => f.name = d.frame) = some g) :
    s.wireBytes d = d.form.build g.bytes := by
  rw [State.wireBytes, hg]

/-- A transmission's end takes its copy from the handle's tally, and sends the notice on the fall from 1 to 0 (R154). -/
theorem State.endTransmission_tally (s : State) (p : Port) (d : Descriptor) (h : Nat) :
    ((s.endTransmission p d).tally h = if d.handle = some h then s.tally h - 1 else s.tally h)
      ∧ (h ∈ (s.endTransmission p d).notices ↔ h ∈ s.notices ∨ (d.handle = some h ∧ s.tally h = 1)) :=
  ⟨State.releaseCopy_tally (s.modPort p _) d h, State.releaseCopy_notices (s.modPort p _) d h⟩

/-! ## The frame of a copy that leaves (R145) -/

theorem releaseFrame_other {pool : List StoredFrame} {name : Nat} {g : StoredFrame} (hg : g ∈ pool) (hn : g.name ≠ name)
    (h0 : 0 < g.outstanding) : g ∈ releaseFrame pool name :=
  (mem_releaseFrame pool name g).mpr ⟨Nat.ne_of_gt h0, g, hg, if_neg hn⟩

/-- A frame with two copies or more stays, with one copy fewer. -/
theorem releaseFrame_shared {pool : List StoredFrame} {name : Nat} {g : StoredFrame} (hg : g ∈ pool) (hn : g.name = name)
    (h2 : 2 ≤ g.outstanding) : { g with outstanding := g.outstanding - 1 } ∈ releaseFrame pool name :=
  (mem_releaseFrame pool name _).mpr ⟨Nat.sub_ne_zero_of_lt h2, g, hg, if_pos hn⟩

/-- With the last copy of its one frame a name leaves the pool; every other frame has a copy outstanding and stays. -/
theorem releaseFrame_last {pool : List StoredFrame} {name : Nat} (hpos : ∀ f ∈ pool, 0 < f.outstanding)
    (hlast : ∀ f ∈ pool, f.name = name → f.outstanding = 1) : releaseFrame pool name = pool.filter (fun f => f.name != name) := by
  induction pool with
  | nil => rfl
  | cons f fs ih =>
    have ih := ih (fun g hg => hpos g (List.mem_cons_of_mem _ hg)) (fun g hg => hlast g (List.mem_cons_of_mem _ hg))
    have hf := hpos f List.mem_cons_self
    simp only [releaseFrame, List.map_cons, List.filter_cons] at ih ⊢
    rw [ih]
    by_cases hn : f.name = name
    · simp [hn, hlast f List.mem_cons_self hn]
    · simp [hn, Nat.ne_of_gt hf]

/-- A name stands for one frame of the pool at most. -/
theorem frame_of_name {pool : List StoredFrame} (hnames : (pool.map StoredFrame.name).Nodup) {f g : StoredFrame} (hf : f ∈ pool)
    (hg : g ∈ pool) (h : f.name = g.name) : f = g := by
  induction pool with
  | nil => cases hf
  | cons k ks ih =>
    obtain ⟨hnew, hnames⟩ := List.nodup_cons.mp hnames
    rcases List.mem_cons.mp hf with rfl | hfs
    · rcases List.mem_cons.mp hg with rfl | hgs
      · rfl
      · exact absurd (List.mem_map.mpr ⟨g, hgs, h.symm⟩) hnew
    · rcases List.mem_cons.mp hg with rfl | hgs
      · exact absurd (List.mem_map.mpr ⟨f, hfs, h⟩) hnew
      · exact ih hnames hfs hgs

/-- The cells of the frame a name stands for are those its leaving frees. -/
theorem heldCells_without {pool : List StoredFrame} (hnames : (pool.map StoredFrame.name).Nodup) {g : StoredFrame} (hg : g ∈ pool) :
    heldCells (pool.filter (fun f => f.name != g.name)) + g.cells = heldCells pool := by
  induction pool with
  | nil => cases hg
  | cons f fs ih =>
    obtain ⟨hnew, hnames⟩ := List.nodup_cons.mp hnames
    rcases List.mem_cons.mp hg with rfl | hg
    · have hothers : fs.filter (fun f => f.name != g.name) = fs :=
        List.filter_eq_self.mpr fun f hf => bne_iff_ne.mpr fun h => hnew (List.mem_map.mpr ⟨f, hf, h⟩)
      rw [List.filter_cons_of_neg (by simp), hothers, Nat.add_comm]
      rfl
    · have hne : f.name ≠ g.name := fun h => hnew (List.mem_map.mpr ⟨g, hg, h.symm⟩)
      have ih := ih hnames hg
      rw [List.filter_cons, if_pos (bne_iff_ne.mpr hne)]
      simp only [heldCells, List.map_cons, List.sum_cons] at ih ⊢
      omega

/-- With its frame's last copy the frame has left the pool, and its cells are free (R145, R147). -/
theorem State.endTransmission_last {s : State} (p : Port) {d : Descriptor} {g : StoredFrame} (hg : g ∈ s.pool) (hn : g.name = d.frame)
    (h1 : g.outstanding = 1) (hpool : PoolLaw s) (hcells : CellLaw s) :
    (∀ f ∈ (s.endTransmission p d).pool, f.name ≠ d.frame)
      ∧ (s.endTransmission p d).freeCells = s.freeCells + cellsFor g.bytes.length := by
  obtain ⟨hnames, -, hcopies, -⟩ := hpool
  obtain ⟨hheld, -, -⟩ := hcells
  have hleft : (s.endTransmission p d).pool = s.pool.filter (fun f => f.name != g.name) := by
    rw [State.endTransmission_eq, hn]
    refine releaseFrame_last (fun f hf => (hcopies f hf).1) (fun f hf hfn => ?_)
    rw [frame_of_name hnames hf hg (hfn.trans hn.symm), h1]
  constructor
  · intro f hf
    rw [hleft] at hf
    rw [← hn]
    exact bne_iff_ne.mp (List.mem_filter.mp hf).2
  · have hsum : heldCells (s.pool.filter (fun f => f.name != g.name)) + cellsFor g.bytes.length = heldCells s.pool :=
      heldCells_without hnames hg
    rw [State.freeCells, State.freeCells, hleft, Config.cells]
    omega

/-- Settles O42, from what a transmission's end makes of its port, of the copy's frame and of its handle's tally. -/
theorem transmissionEndReleasesTheCopy : Obligations.TransmissionEndReleasesTheCopy := by
  intro p d s hs
  have hport := s.endTransmission_port p d p
  rw [if_pos rfl] at hport
  have hpool : (s.endTransmission p d).pool = releaseFrame s.pool d.frame := by rw [State.endTransmission_eq]
  have hmoves := s.endTransmission_eq p d
  rw [← hpool] at hmoves
  have hout : ((s.endTransmission p d).port p).lastOut = s.wireBytes d := by rw [hport, PortUnit.choose_lastOut]; rfl
  refine ⟨s.endTransmission p d, exec_transmissionEnd hs, fun q hq => ?_, ?_, fun g hg => ?_, ?_, fun g hg hn h0 => ?_,
    fun g hg hn h2 => ?_, fun g hg hn h1 => State.endTransmission_last p hg hn h1, fun h => (s.endTransmission_tally p d h).1,
    fun h => (s.endTransmission_tally p d h).2, hmoves⟩
  · rw [State.endTransmission_port, if_neg hq]
  · rw [hport, PortUnit.choose_counters]
    rfl
  · rw [hout, State.wireBytes_stored hg]
  · rw [hport, PortUnit.choose_counters, PortUnit.choose_lastOut]
    exact PortUnit.choose_out { s.port p with sending := none } _ _ _
  · rw [hpool]
    exact releaseFrame_other hg hn h0
  · rw [hpool]
    exact releaseFrame_shared hg hn h2

end Sys2Proof.Machine
end

section
namespace Sys2Proof.Machine

/-! ## The transmitter's choice, queue by queue (R152, R153) -/

/-- An idle transmitter in service takes the head of the queue its class names, if that queue holds one. -/
theorem PortUnit.choose_idle {u : PortUnit} (hu : u.state = .up ∨ u.state = .proving) (hs : u.sending = none) (quota : Nat) :
    (∀ d rest, u.queue (chosenClass u quota) = d :: rest → u.choose quota =
        { u.setQueue (chosenClass u quota) rest with sending := some d, quota := quotaAfter u (chosenClass u quota) })
      ∧ (u.queue (chosenClass u quota) = [] → u.choose quota = u) := by
  have hidle : (u.state.inService && u.sending.isNone) = true := by
    rw [(PortState.inService_iff _).mpr hu, hs]
    rfl
  constructor
  · intro d rest hq
    simp only [PortUnit.choose, if_pos hidle, hq]
  · intro hq
    simp only [PortUnit.choose, if_pos hidle, hq]

theorem chosenClass_trip {u : PortUnit} (ht : u.trip ≠ []) (quota : Nat) : chosenClass u quota = .trip := by
  simp [chosenClass, ht]

/-- With TRIP empty, STATUS is chosen when SAMPLE is empty or the quota count has come to STATUS QUOTA (R153). -/
theorem chosenClass_status {u : PortUnit} (ht : u.trip = []) (hs : u.status ≠ []) {quota : Nat}
    (hq : u.sample = [] ∨ quota ≤ u.quota.toNat) : chosenClass u quota = .status := by
  simp [chosenClass, ht, hs, hq]

theorem chosenClass_sample {u : PortUnit} (ht : u.trip = []) {quota : Nat}
    (hq : u.status = [] ∨ (u.sample ≠ [] ∧ u.quota.toNat < quota)) : chosenClass u quota = .sample := by
  rcases hq with hs | ⟨hs, hq⟩
  · simp [chosenClass, ht, hs]
  · simp [chosenClass, ht, hs, hq]

/-- The choice, case by case as the table of R153 gives it. -/
theorem PortUnit.choose_table (u : PortUnit) (quota : Nat) (hu : u.state = .up ∨ u.state = .proving) (hidle : u.sending = none) :
    (∀ d rest, u.trip = d :: rest → u.choose quota = { u with trip := rest, sending := some d })
      ∧ (∀ d rest, u.trip = [] → u.status = d :: rest → (u.sample = [] ∨ quota ≤ u.quota.toNat) →
          u.choose quota = { u with status := rest, sending := some d, quota := 0 })
      ∧ (∀ d rest, u.trip = [] → u.sample = d :: rest → u.status = [] →
          u.choose quota = { u with sample := rest, sending := some d, quota := 0 })
      ∧ (∀ d rest, u.trip = [] → u.sample = d :: rest → u.status ≠ [] → u.quota.toNat < quota →
          u.choose quota = { u with sample := rest, sending := some d, quota := bump u.quota })
      ∧ (u.trip = [] → u.sample = [] → u.status = [] → u.choose quota = u) := by
  obtain ⟨htakes, hnone⟩ := PortUnit.choose_idle hu hidle quota
  refine ⟨fun d rest ht => ?_, fun d rest ht hs hq => ?_, fun d rest ht ha hs => ?_, fun d rest ht ha hs hq => ?_, fun ht ha hs => ?_⟩
  · rw [chosenClass_trip (by rw [ht]; exact List.cons_ne_nil d rest)] at htakes
    exact htakes d rest ht
  · rw [chosenClass_status ht (by rw [hs]; exact List.cons_ne_nil d rest) hq] at htakes
    exact htakes d rest hs
  · rw [chosenClass_sample ht (.inl hs)] at htakes
    have hzero : quotaAfter u .sample = 0 := if_pos (List.isEmpty_iff.mpr hs)
    rw [htakes d rest ha, hzero]
    rfl
  · rw [chosenClass_sample ht (.inr ⟨by rw [ha]; exact List.cons_ne_nil d rest, hq⟩)] at htakes
    have hmore : quotaAfter u .sample = bump u.quota := if_neg (mt List.isEmpty_iff.mp hs)
    rw [htakes d rest ha, hmore]
    rfl
  · rw [chosenClass_sample ht (.inl hs)] at hnone
    exact hnone ha

/-! ## Admission by class (R148) -/

/-- What a class leaves free, once its frame is stored, is at least its reserve. -/
theorem admissible_leaves (cls : DataClass) (need free : Nat) :
    admissible cls need free = true ↔ need ≤ free ∧ reserveOf cls ≤ free - need := by
  rw [admissible_iff]
  omega

theorem State.requestAdmission_blames (s : State) (frame : List Byte) (cls : DataClass) {copies : List Copy} (p : Port)
    (hc : copies ≠ []) (ha : admissible cls (cellsFor frame.length) s.freeCells = false) :
    s.requestAdmission frame cls copies [p] =
      ({ s with
        flags := s.flags ||| Flag.pool.mask
        ports := s.ports.set p { s.port p with counters := { (s.port p).counters with
          poolRefusals := bump (s.port p).counters.poolRefusals } } }, []) := by
  rw [s.requestAdmission_refused frame cls copies [p] hc ha, State.refuseFrame_one]
  rfl

/-! ## The fates of an admitted frame's copies (R149, R154) -/

/-- A copy is flushed at once when its port's state does not take its role (R117, R149). -/
theorem State.flushesAtOnce_eq (s : State) (c : Copy) : s.flushesAtOnce c = flushedAtOnce (s.port c.port).state c.role := by
  rw [State.flushesAtOnce, State.isUp]
  cases (s.port c.port).state <;> cases c.role <;> rfl

/-- The three fates of a copy (R149). -/
theorem State.fateOf_eq (s : State) (cls : DataClass) (c : Copy) :
    s.fateOf cls c = if s.flushesAtOnce c then .flushed else if s.queueFull c.port cls then .dropped else .enqueued := by
  rw [State.flushesAtOnce_eq, State.queueFull]
  simp only [State.fateOf, decide_eq_true_eq]

/-- A copy enters its queue when its port takes it and the queue has room (R149). -/
def State.enters (s : State) (cls : DataClass) (c : Copy) : Bool := !s.flushesAtOnce c && !s.queueFull c.port cls

theorem State.fateOf_enqueued_iff (s : State) (cls : DataClass) (c : Copy) : s.fateOf cls c = .enqueued ↔ s.enters cls c = true := by
  rw [State.fateOf_eq, State.enters]
  cases s.flushesAtOnce c <;> cases s.queueFull c.port cls <;> decide

theorem State.enqueuedCount_eq (s : State) (cls : DataClass) (copies : List Copy) :
    enqueuedCount (copies.map (s.fateOf cls)) = copies.countP (s.enters cls) := by
  rw [enqueuedCount, List.count_eq_countP, List.countP_map]
  refine List.countP_congr fun c _ => ?_
  rw [← s.fateOf_enqueued_iff cls c]
  exact beq_iff_eq

/-- One copy flushed is one more, as any other event's count (R123). -/
theorem bumpBy_one {w : Nat} (x : BitVec w) : bumpBy x 1 = bump x := by
  have htop : 2 ^ w ≤ x.toNat + 1 ↔ x = BitVec.allOnes w := by
    have hx := x.isLt
    rw [← BitVec.toNat_inj, BitVec.toNat_allOnes]
    omega
  simp only [bumpBy, bump, htop]
  split
  · rename_i hx
    exact hx.symm
  · rfl

/-- The port of a copy after the request, by the copy's fate (R149, R152). -/
theorem State.storeFrame_offered (s : State) (frame : List Byte) (cls : DataClass) {copies : List Copy}
    (hd : (copies.map Copy.port).Nodup) {c : Copy} (hc : c ∈ copies) :
    let u := s.port c.port
    let quota := s.settings.statusQuota.toNat
    (s.storeFrame frame cls copies).1.port c.port =
      if s.flushesAtOnce c then
        ({ u with counters := { u.counters with flushed := bump u.counters.flushed } } : PortUnit).choose quota
      else if s.queueFull c.port cls then
        ({ u with counters := { u.counters with queueDrops := bump u.counters.queueDrops } } : PortUnit).choose quota
      else (u.setQueue cls (u.queue cls ++ [⟨s.nextName, c.form, c.handle⟩])).choose quota := by
  intro u quota
  rw [s.storeFrame_port frame cls copies hd c hc, State.fateOf_eq]
  split
  · rw [PortUnit.offered, PortCounters.addFlushed, bumpBy_one]
  split
  · rfl
  · rfl

/-- Settles O43: the choice by its table, admission by what each class leaves free, and a request that is no frame, one refused, or one
whose copies have the fates of the state before it. -/
theorem transmitterChoiceAndAdmission : Obligations.TransmitterChoiceAndAdmission := by
  refine ⟨PortUnit.choose_table, admissible_iff .trip, admissible_leaves .sample, admissible_leaves .status, ?_⟩
  intro s frame cls copies p
  refine ⟨fun hc => ?_, s.requestAdmission_blames frame cls p, fun hd hc ha => ?_⟩
  · rw [hc, State.requestAdmission_none]
  intro enters n
  have henters : enters = s.enters cls := rfl
  have hcount : enqueuedCount (copies.map (s.fateOf cls)) = n := s.enqueuedCount_eq cls copies
  refine ⟨(s.storeFrame frame cls copies).1, ?_, s.storeFrame_traffic frame cls copies, s.storeFrame_flags frame cls copies, ?_,
    fun h => ?_, s.storeFrame_port_other frame cls copies, fun c => s.storeFrame_offered frame cls hd⟩
  · rw [s.requestAdmission_stored frame cls copies [p] hc ha]
    refine Prod.ext rfl ((s.storeFrame_fates frame cls copies hd).trans ?_)
    exact List.map_congr_left fun c _ => s.fateOf_eq cls c
  · rw [s.storeFrame_pool frame cls copies hd, hcount]
  · rw [s.storeFrame_tally frame cls copies hd, henters]
    refine congrArg _ (List.countP_congr fun c _ => ?_)
    rw [decide_eq_true_iff, s.fateOf_enqueued_iff, Bool.and_eq_true_iff, beq_iff_eq]

end Sys2Proof.Machine
end

section
namespace Sys2Proof.Machine

/-! ## The flags word, bit by bit (R165, 12.4) -/

/-- Each of the nine bits is a flag's. -/
theorem Flag.exists_of_bit : ∀ {i : Nat}, i < 9 → ∃ f : Flag, f.bit = i
  | 0, _ => ⟨.attention, rfl⟩
  | 1, _ => ⟨.ring, rfl⟩
  | 2, _ => ⟨.port, rfl⟩
  | 3, _ => ⟨.roster, rfl⟩
  | 4, _ => ⟨.clash, rfl⟩
  | 5, _ => ⟨.done, rfl⟩
  | 6, _ => ⟨.loaded, rfl⟩
  | 7, _ => ⟨.overrun, rfl⟩
  | 8, _ => ⟨.pool, rfl⟩

theorem flagBits_ne_zero_iff (x : BitVec 9) : x ≠ 0 ↔ ∃ f : Flag, x.getLsbD f.bit = true := by
  constructor
  · refine fun hx => Classical.byContradiction fun hnone => hx (BitVec.eq_of_getLsbD_eq fun i hi => ?_)
    obtain ⟨f, rfl⟩ := Flag.exists_of_bit hi
    have hclear : x.getLsbD f.bit = false := Bool.eq_false_iff.mpr fun hf => hnone ⟨f, hf⟩
    exact hclear.trans BitVec.getLsbD_zero.symm
  · rintro ⟨f, hf⟩ rfl
    exact absurd (BitVec.getLsbD_zero.symm.trans hf) Bool.false_ne_true

/-- A word of flags given on the command port says of each flag what its bit says. -/
theorem flagBits_getLsbD (w : Word) (f : Flag) : (w.extractLsb' 0 9).getLsbD f.bit = w.getLsbD f.bit := by
  rw [BitVec.getLsbD_extractLsb', decide_eq_true f.bit_lt, Bool.true_and, Nat.zero_add]

/-- Clearing by a word clears the flags it names and leaves the others. -/
theorem State.flag_clearFlags (s : State) (w : Word) (f : Flag) : (s.clearFlags w).flag f = (s.flag f && !w.getLsbD f.bit) := by
  simp only [State.flag, State.clearFlags, BitVec.getLsbD_and, BitVec.getLsbD_not, f.bit_lt, decide_true, Bool.true_and,
    flagBits_getLsbD]

/-! ## The ATTN line and the status byte (R158, R166) -/

theorem State.attnAsserted_iff (s : State) :
    s.attnAsserted = true ↔ s.ready = true ∧ ∃ f : Flag, s.flag f = true ∧ s.settings.attnMask.getLsbD f.bit = true := by
  rw [State.attnAsserted, Bool.and_eq_true_iff, bne_iff_ne, flagBits_ne_zero_iff]
  simp only [BitVec.getLsbD_and, flagBits_getLsbD, Bool.and_eq_true_iff, State.flag]

theorem State.statusByte_fields (s : State) :
    s.statusByte.getLsbD 7 = s.ready ∧ s.statusByte.getLsbD 6 = s.isBusy ∧ s.statusByte.getLsbD 5 = s.loadFailed
      ∧ s.statusByte.getLsbD 4 = s.attnAsserted ∧ s.statusByte.extractLsb' 0 4 = s.lastResult.code := by
  unfold State.statusByte
  refine ⟨?_, ?_, ?_, ?_, BitVec.extractLsb'_append_eq_right⟩
  · repeat rw [getLsbD_append_past _ _ (by decide)]
    exact getLsbD_bit _
  all_goals
    repeat rw [getLsbD_append_past _ _ (by decide)]
    exact getLsbD_append_bit _ _

/-! ## STATUS READ, FLAGS READ and FLAGS CLEAR (R162, R165) -/

theorem exec_statusRead (s : State) : exec .statusRead s = .next { s with spiOut := s.statusByte :: s.statusData } := rfl

theorem exec_flagsRead (s : State) (hr : s.ready = true) :
    exec .flagsRead s = .next { s with spiOut := s.statusByte :: wordBytes s.flagsWord } := by
  have hexec : exec .flagsRead s =
      .next { s with spiOut := s.statusByte :: (if s.ready then wordBytes s.flagsWord else []) } := rfl
  rw [hexec, if_pos hr]

theorem exec_flagsClear_whole (s : State) (w : Word) (hr : s.ready = true) :
    exec (.flagsClear (.whole w)) s = .next (s.replied (s.clearFlags w) 2 .done []) :=
  congrArg Host.Outcome.next (s.immediate_whole w 2 _ hr)

/-- Settles O46, from what the three commands answer and from the bits of the flags word and of the status byte. -/
theorem statusFlagsAndAttn : Obligations.StatusFlagsAndAttn :=
  ⟨fun w s => ⟨exec_statusRead s, exec_flagsRead s, fun hr =>
      ⟨s.clearFlags w, exec_flagsClear_whole s w hr, rfl, s.flag_clearFlags w⟩⟩,
    fun s => ⟨s.attnAsserted_iff, s.statusByte_fields⟩⟩

/-! ## CONTROL RESET (R168) -/

theorem exec_controlReset (s : State) (hr : s.ready = true) :
    exec .controlReset s = .next (s.replied s.resetPort 0 .done []) :=
  congrArg Host.Outcome.next (s.immediate_whole () 0 _ hr)

theorem exec_controlReset_notReady (s : State) (hr : s.ready = false) :
    exec .controlReset s = .next { s with spiOut := [s.statusByte], lastResult := .notReady } :=
  congrArg Host.Outcome.next (s.immediate_notReady _ 0 _ hr)

/-- Of the flags CONTROL RESET clears DONE alone. -/
theorem State.flag_resetPort (s : State) (f : Flag) : s.resetPort.flag f = (s.flag f && !decide (Flag.done = f)) :=
  s.flag_lower .done f

/-- Settles O54: what CONTROL RESET leaves is answered with DONE, or NOT_READY is posted while the load runs. -/
theorem controlResetClearsTheCommandPortAlone : Obligations.ControlResetClearsTheCommandPortAlone := by
  intro s
  refine ⟨fun hr => ⟨_, exec_controlReset s hr, rfl, ?_, fun f hf => ?_, rfl, hr, rfl, ?_⟩, exec_controlReset_notReady s⟩
  · exact (s.flag_resetPort .done).trans (Bool.and_false _)
  · refine (s.flag_resetPort f).trans ?_
    rw [decide_eq_false hf.symm, Bool.not_false, Bool.and_true]
  · obtain ⟨-, -, -, -, hresult⟩ := (s.replied s.resetPort 0 .done []).statusByte_fields
    exact hresult

/-! ## SETTING READ (R163) -/

/-- A number above 0x15 names no setting. -/
theorem settingOfNumber_above {n : Byte} (hn : 0x15 < n.toNat) : settingOfNumber n = none := List.getElem?_eq_none hn

/-- The values in number order, read by a number. -/
theorem Settings.getElem?_values (v : Settings) (n : Byte) : (allSettings.map v.get)[n.toNat]? = (settingOfNumber n).map v.get :=
  List.getElem?_map

theorem exec_settingRead_whole (s : State) (n : Byte) (hr : s.ready = true) :
    exec (.settingRead (.whole n)) s = .next (match settingOfNumber n with
      | some id => s.replied s 1 .done (wordBytes (s.settings.get id))
      | none => s.replied s 1 .badValue []) := by
  refine congrArg Host.Outcome.next ((s.immediate_whole n 1 s.readSetting hr).trans ?_)
  rw [State.readSetting]
  cases settingOfNumber n with
  | some id => rfl
  | none => rfl

/-! ## SETTING WRITE of a setting with no rule beyond its range (R163, R166) -/

theorem exec_settingWrite_whole (s : State) (n : Byte) (x : Word) (hr : s.ready = true) :
    exec (.settingWrite (.whole (n, x))) s = .next (s.replied (s.writeSetting n x).1 3 (s.writeSetting n x).2 []) :=
  congrArg Host.Outcome.next (s.immediate_whole (n, x) 3 _ hr)

theorem exec_attnMaskWrite (s : State) (x : Word) (hr : s.ready = true) :
    exec (.attnMaskWrite x) s = .next (s.replied (s.writePlain .attnMask x).1 3 (s.writePlain .attnMask x).2 []) :=
  congrArg Host.Outcome.next (s.immediate_whole x 3 _ hr)

theorem State.writeSetting_unnamed (s : State) {n : Byte} (x : Word) (hn : settingOfNumber n = none) :
    s.writeSetting n x = (s, .badValue) := by
  rw [State.writeSetting, hn]

theorem State.writeSetting_named (s : State) {n : Byte} {id : SettingId} (x : Word) (hn : settingOfNumber n = some id) :
    s.writeSetting n x = s.writeById id x := by
  rw [State.writeSetting, hn]

/-- A plain write is judged by the setting's range alone. -/
theorem State.replied_writePlain (s : State) (id : SettingId) (x : Word) :
    s.replied (s.writePlain id x).1 3 (s.writePlain id x).2 [] =
      if id.inRange x then s.replied (s.putSetting id x) 3 .done [] else s.replied s 3 .badValue [] := by
  rw [State.writePlain]
  split <;> rfl

/-- SETTING WRITE of the number of a setting with no rule beyond its range. -/
theorem settingWrite_plain (s : State) {n : Byte} {id : SettingId} (x : Word) (hr : s.ready = true) (hn : settingOfNumber n = some id)
    (hplain : s.writeById id x = s.writePlain id x) :
    exec (.settingWrite (.whole (n, x))) s =
      .next (if id.inRange x then s.replied (s.putSetting id x) 3 .done [] else s.replied s 3 .badValue []) := by
  rw [exec_settingWrite_whole s n x hr, s.writeSetting_named x hn, hplain, s.replied_writePlain]

/-- A range with both its ends, as one condition. -/
theorem decide_between (low high : Nat) (x : Word) :
    (decide (low ≤ x.toNat) && decide (x.toNat ≤ high)) = decide (low ≤ x.toNat ∧ x.toNat ≤ high) :=
  (Bool.decide_and _ _).symm

theorem maxFrame_inRange (x : Word) : SettingId.maxFrame.inRange x = decide (x = 1536 ∨ x = 2048) :=
  (Bool.decide_or _ _).symm

/-- Settles O47: a read gives the value of the setting its number names, and each plain write is the one judgement, of its own setting by
its own range. -/
theorem settingReadsAndPlainWrites : Obligations.SettingReadsAndPlainWrites := by
  refine ⟨fun n s hr => ?_, fun n x s hr => ?_⟩
  · intro values
    have hvalues : values[n.toNat]? = (settingOfNumber n).map s.settings.get := s.settings.getElem?_values n
    rw [exec_settingRead_whole s n hr, hvalues]
    cases settingOfNumber n with
    | some id => rfl
    | none => rfl
  intro written
  have above (hn : 0x15 < n.toNat) : exec (.settingWrite (.whole (n, x))) s = .next (s.replied s 3 .badValue []) := by
    rw [exec_settingWrite_whole s n x hr, s.writeSetting_unnamed x (settingOfNumber_above hn)]
  have plain (n : Byte) (id : SettingId) {ok : Bool} (hn : settingOfNumber n = some id)
      (hplain : s.writeById id x = s.writePlain id x) (hok : id.inRange x = ok) :
      written (.settingWrite (.whole (n, x))) ok (s.settings.set id x) := by
    subst hok
    exact settingWrite_plain s x hr hn hplain
  have attnMask : written (.attnMaskWrite x) (SettingId.attnMask.inRange x) (s.settings.set .attnMask x) :=
    (exec_attnMaskWrite s x hr).trans (congrArg _ (s.replied_writePlain .attnMask x))
  exact ⟨above,
    plain 0x01 .epoch rfl rfl rfl,
    plain 0x02 .hopLimit rfl rfl (decide_between 1 63 x),
    plain 0x03 .tagType rfl rfl rfl,
    plain 0x04 .probeGroup0 rfl rfl rfl,
    plain 0x05 .probeGroup1 rfl rfl rfl,
    plain 0x06 .probeGroup2 rfl rfl rfl,
    plain 0x07 .probePeriod rfl rfl (decide_between 1 100 x),
    plain 0x09 .sweepPeriod rfl rfl rfl,
    plain 0x0A .sweepMask rfl rfl rfl,
    plain 0x0F .maxFrame rfl rfl (maxFrame_inRange x),
    plain 0x10 .queueCapTrip rfl rfl (decide_between 1 128 x),
    plain 0x11 .queueCapSample rfl rfl (decide_between 1 128 x),
    plain 0x12 .queueCapStatus rfl rfl (decide_between 1 128 x),
    plain 0x13 .statusQuota rfl rfl (decide_between 1 255 x),
    plain 0x14 .flapLimit rfl rfl rfl,
    attnMask⟩

end Sys2Proof.Machine
end

section
namespace Sys2Proof.Machine

/-! ## A try of a transfer (R171) -/

/-- While the loader reads and RESET_N is not held, a TRANSFER is the end of a try. -/
theorem exec_transfer_reading {s : State} (hl : s.loader.state = .reading) (hr : s.resetHeld = false) (outcome : TryOutcome) :
    exec (.transfer outcome) s = .next (s.transferOutcome outcome) := by
  have hreading : s.reading = true := by rw [State.reading, hl, hr]; rfl
  exact congrArg Host.Outcome.next (if_pos hreading)

/-- The state in which a try has ended at an address byte that was not acknowledged, before the tries are judged (R171). -/
def State.withFailedTry (s : State) (which : AddressByte) : State :=
  s.modLoader (fun l => { l with tries := l.tried, retrying := true, busOut := failedItems (partAddress l.store) which })

theorem exec_transfer_notAcknowledged {s : State} (hl : s.loader.state = .reading) (hr : s.resetHeld = false)
    (which : AddressByte) :
    exec (.transfer (.notAcknowledged which)) s =
      .next (if 3 ≤ s.loader.tried then (s.withFailedTry which).failLoad else s.withFailedTry which) :=
  exec_transfer_reading hl hr _

theorem exec_transfer_part {s : State} {bytes : List Byte} (hl : s.loader.state = .reading) (hr : s.resetHeld = false)
    (hsize : bytes.length = partSize s.loader.store) :
    exec (.transfer (.acknowledged bytes)) s = .next ((s.withPart bytes).judgePart bytes.length) := by
  rw [exec_transfer_reading hl hr, State.transferOutcome, if_pos hsize, hsize]
  rfl

/-! ## What is judged of a part as it comes (R172) -/

theorem State.judgePart_header (s : State) : s.judgePart 8 = if headerPasses s.loader.store then s else s.failLoad := rfl

/-- The settings block and the standing records are not judged as they come. -/
theorem State.judgePart_unjudged (s : State) {size : Nat} (hheader : size ≠ 8) (hchecksum : size ≠ 2) : s.judgePart size = s := by
  rw [State.judgePart, if_neg hheader, if_neg hchecksum]

theorem headerPasses_iff (store : List Byte) : headerPasses store = true ↔
    store.take 4 = [0x42, 0x57, 0x36, 0x32] ∧ wordAt store 6 = 1 ∧ (wordAt store 4).toNat ≤ 64 := by
  rw [headerPasses, Bool.and_eq_true, Bool.and_eq_true, beq_iff_eq, beq_iff_eq, decide_eq_true_iff, recordCount, and_assoc]

/-! ## The flag PORT at a load's end (R115, R176) -/

/-- An ON that moves a port sets PORT. -/
theorem State.commandOn_flag_port (s : State) {p : Port} (ho : (s.port p).state = .off) :
    (s.commandOn p).1.flag .port = true := by
  rw [State.commandOn_state, if_pos ho, State.enterState_flag_port]

/-- No ON clears PORT. -/
theorem State.commandOn_keeps_flag_port (s : State) (p : Port) (h : s.flag .port = true) : (s.commandOn p).1.flag .port = true := by
  by_cases ho : (s.port p).state = .off
  · exact s.commandOn_flag_port ho
  · rw [State.commandOn_state, if_neg ho]
    exact h

theorem State.turnOnAll_keeps_flag_port (ps : List Port) : ∀ s : State, s.flag .port = true → (s.turnOnAll ps).flag .port = true := by
  induction ps with
  | nil => exact fun _ h => h
  | cons p ps ih => exact fun s h => ih _ (s.commandOn_keeps_flag_port p h)

/-- One OFF port among those given an ON is enough to set PORT. -/
theorem State.turnOnAll_flag_port {q : Port} (ps : List Port) (hq : q ∈ ps) :
    ∀ s : State, (s.port q).state = .off → (s.turnOnAll ps).flag .port = true := by
  induction ps with
  | nil => cases hq
  | cons p ps ih =>
    intro s ho
    by_cases hqp : q = p
    · subst hqp
      exact State.turnOnAll_keeps_flag_port ps _ (s.commandOn_flag_port ho)
    · have hlater : q ∈ ps := (List.mem_cons.mp hq).resolve_left hqp
      exact ih hlater _ ((congrArg PortUnit.state (s.commandOn_port_other hqp)).trans ho)

/-- The end of a load clears no flag. -/
theorem State.endLoad_flag (s : State) (outcome : LoadState) {f : Flag} (h : s.flag f = true) :
    (s.endLoad outcome).flag f = true := by
  refine State.startProbes_flag _ f ?_
  have hraised : ((s.modLoader (fun l => { l with state := outcome })).raise .loaded).flag f = true := by
    rw [State.flag_raise, Bool.or_eq_true]
    exact .inl h
  exact hraised

/-! ## What a failed load leaves (R176) -/

/-- A failed load ends READY and LOAD_FAILED with LOADED set; of the loader it moves the load state alone. -/
theorem State.failLoad_ended (s : State) :
    s.failLoad.ready = true ∧ s.failLoad.loadFailed = true ∧ s.failLoad.flag .loaded = true
      ∧ s.failLoad.loader = { s.loader with state := .failed } := by
  obtain ⟨hready, hloaded, hloader, -⟩ := (s.turnOnAll [.lane .a, .lane .b]).endLoad_started .failed (.inr rfl)
  have hfailed : s.failLoad.loader = { s.loader with state := .failed } := by
    rw [s.failLoad_eq, hloader, State.onlyPortsMove_loader (State.turnOnAll_moves _ s)]
  refine ⟨hready, ?_, hloaded, hfailed⟩
  rw [State.loadFailed, hfailed]
  rfl

/-- The ports of a failed load are those its two ONs leave. -/
theorem State.failLoad_port (s : State) (p : Port) : s.failLoad.port p = (s.turnOnAll [.lane .a, .lane .b]).port p := by
  obtain ⟨-, -, -, -, -, hports, -⟩ := (s.turnOnAll [.lane .a, .lane .b]).endLoad_started .failed (.inr rfl)
  rw [s.failLoad_eq, State.port, hports, State.port]

/-- Each OFF lane goes UP or DOWN by its mark, and PORT is set. -/
theorem State.failLoad_lane (s : State) (l : Lane) (ho : (s.port (.lane l)).state = .off) :
    (s.failLoad.port (.lane l)).state = (if (s.port (.lane l)).signal then .up else .down) ∧ s.failLoad.flag .port = true := by
  have hmem : Port.lane l ∈ [Port.lane .a, Port.lane .b] := by cases l <;> decide
  constructor
  · rw [s.failLoad_port, State.turnOnAll_state _ (by decide) hmem s ho]
    rfl
  · rw [s.failLoad_eq]
    exact State.endLoad_flag _ _ (State.turnOnAll_flag_port _ hmem s ho)

theorem State.failLoad_bay (s : State) (p : BayPort) : s.failLoad.port (.bay p) = s.port (.bay p) := by
  rw [s.failLoad_port, State.turnOnAll_port_other _ (by cases p <;> decide)]

/-- The sweep and the probe unit start at the bay-clock time at which the load fails. -/
theorem State.failLoad_starts (s : State) :
    s.failLoad.sweep.periodStart = s.bayClock
      ∧ s.failLoad.probe.boundary = some (s.bayClock + milliseconds s.settings.probeInterval) := by
  have hclock := State.onlyPortsMove_bayClock (State.turnOnAll_moves [.lane .a, .lane .b] s)
  obtain ⟨⟨hperiod, -⟩, hboundary, -⟩ := State.load_started s _ .failed (.inr rfl) hclock (State.turnOnAll_returns _ s)
  obtain ⟨-, hsettings, -⟩ := s.failLoad_failed
  rw [← s.failLoad_eq] at hperiod hboundary
  rw [hsettings] at hboundary
  exact ⟨hperiod, hboundary⟩

/-! ## The transfers (R171, R172) -/

/-- Settles O7: a failed try is followed by another or, as the third, fails the load, and of the parts before the checksum the header
alone is judged as it comes. -/
theorem transferTriesAndPartsOfTheImage : Obligations.TransferTriesAndPartsOfTheImage := by
  constructor
  · intro s hl hr tries address sent which
    have hexec := exec_transfer_notAcknowledged hl hr which
    have hsent : failedItems (partAddress s.loader.store) which = sent which := by cases which <;> rfl
    constructor
    · intro hagain
      have hunder : ¬ 3 ≤ s.loader.tried := Nat.not_le.mpr hagain
      rw [hexec, if_neg hunder, State.withFailedTry, State.modLoader, hsent]
      rfl
    · intro hthird
      obtain ⟨hready, hfailed, hloaded, hloader⟩ := (s.withFailedTry which).failLoad_ended
      obtain ⟨-, hsettings, htable⟩ := (s.withFailedTry which).failLoad_failed
      obtain ⟨hperiod, hboundary⟩ := (s.withFailedTry which).failLoad_starts
      refine ⟨(s.withFailedTry which).failLoad, hexec.trans (congrArg _ (if_pos hthird)), ?_, hready, hfailed, hloaded, ?_,
        hsettings, htable, (s.withFailedTry which).failLoad_lane, (s.withFailedTry which).failLoad_bay, hperiod, hboundary⟩
      · rw [hloader]
        exact hsent
      · rw [hloader]
        rfl
  · intro s bytes hl hr hsize address sent loader
    have hexec := exec_transfer_part hl hr hsize
    have hpart : s.withPart bytes = { s with loader := loader } := rfl
    constructor
    · intro hunjudged
      rw [hexec, State.judgePart_unjudged _ (by omega) (by omega), hpart]
    · intro hheader hfirst
      have hstore : (s.withPart bytes).loader.store = bytes := congrArg (· ++ bytes) hfirst
      rw [hheader, State.judgePart_header, hstore] at hexec
      constructor
      · intro hsignature hformat hcount
        rw [hexec, if_pos ((headerPasses_iff bytes).mpr ⟨hsignature, hformat, hcount⟩), hpart]
      · intro hbad
        obtain ⟨-, hfailed, -, hloader⟩ := (s.withPart bytes).failLoad_ended
        obtain ⟨-, hsettings, htable⟩ := (s.withPart bytes).failLoad_failed
        refine ⟨(s.withPart bytes).failLoad, hexec.trans (congrArg _ (if_neg (mt (headerPasses_iff bytes).mp hbad))), hfailed, ?_, ?_,
          hsettings, htable⟩
        · rw [hloader]
          exact hstore
        · rw [hloader]
          rfl

end Sys2Proof.Machine
end

section
namespace Sys2Proof.Machine

/-! ## Command frames and the commands they spell (12.4, R157) -/

theorem handleArg_handleArgBytes (arg : FrameArg Word) : handleArg (handleArgBytes arg) = arg := by
  cases arg with
  | whole w => exact congrArg FrameArg.whole (wordOf_bytes w)
  | cut => rfl

theorem twoBytesArg_twoBytesArgBytes (arg : FrameArg (Byte × Byte)) : twoBytesArg (twoBytesArgBytes arg) = arg := by
  cases arg <;> rfl

theorem oneByteArg_oneByteArgBytes (arg : FrameArg Byte) : oneByteArg (oneByteArgBytes arg) = arg := by
  cases arg <;> rfl

/-- A whole SETTING WRITE spells the row its setting number stands for (R163). -/
theorem commandOfFrame_settingWrite (number : Byte) (value : Word) :
    commandOfFrame (0x05 :: number :: wordBytes value) = settingWriteRow number value :=
  congrArg (settingWriteRow number) (wordOf_bytes value)

theorem settingWriteRow_plain {number : Byte} (h : settingsWithOwnRow.contains number = false) (value : Word) :
    settingWriteRow number value = .settingWrite (.whole (number, value)) := by
  have other {k : Byte} (hk : settingsWithOwnRow.contains k = true) : number ≠ k := by
    rintro rfl
    exact Bool.eq_false_iff.mp h hk
  rw [settingWriteRow, if_neg (other rfl), if_neg (other rfl), if_neg (other rfl), if_neg (other rfl), if_neg (other rfl),
    if_neg (other rfl), if_neg (other rfl)]

/-- The five actions are 0 to 4 (R116). -/
theorem portCommandRow_stray {action : Byte} (h : 4 < action.toNat) (port : Byte) :
    portCommandRow port action = .unknownCommand (.portAction port action) := by
  have other {k : Byte} (hk : k.toNat ≤ 4) : action ≠ k := by
    rintro rfl
    exact Nat.not_lt.mpr hk h
  rw [portCommandRow, if_neg (other (by decide)), if_neg (other (by decide)), if_neg (other (by decide)),
    if_neg (other (by decide)), if_neg (other (by decide))]

/-- A byte that names no command is an unknown command, whatever follows it (R160). -/
theorem commandOf_unknown {code : Byte} (h : commandCodes.contains code = false) (args : List Byte) :
    commandOf code args = .unknownCommand (.commandByte code) := by
  simp only [commandCodes, List.cons_append, List.nil_append, List.contains_eq_mem, List.mem_cons, List.not_mem_nil, or_false,
    decide_eq_false_iff_not, not_or] at h
  simp only [commandOf, h, if_false]

/-- The frame, where there is one, is read as the command. -/
def readsAs (i : Instr) : Option (List Byte) → Prop
  | some frame => commandOfFrame frame = i
  | none => True

/-- By the kinds of rows: those with no arguments are told by the command byte, the others have their arguments read back, and the
rows that are no command frame spell none. -/
theorem frameOfCommand_readsAs {i : Instr} (hwf : i.wellFormed = true) : readsAs i (frameOfCommand i) := by
  cases i with
  | statusRead | flagsRead | stageRead | attentionRead | ringRead | controlReset | fullReset => exact rfl
  | flagsClear word => exact congrArg Instr.flagsClear (handleArg_handleArgBytes word)
  | settingRead number => exact congrArg Instr.settingRead (oneByteArg_oneByteArgBytes number)
  | settingWrite arg =>
    cases arg with
    | whole x =>
      have hplain : settingsWithOwnRow.contains x.1 = false := (Bool.not_eq_true' _).mp hwf
      exact (commandOfFrame_settingWrite x.1 x.2).trans (settingWriteRow_plain hplain x.2)
    | cut => exact rfl
  | nodeWrite value => exact commandOfFrame_settingWrite 0x00 value
  | probeMissLimitWrite value => exact commandOfFrame_settingWrite 0x08 value
  | freezeWrite value => exact commandOfFrame_settingWrite 0x0B value
  | pairEnableWrite value => exact commandOfFrame_settingWrite 0x0C value
  | attachedNodeWrite pair value =>
    cases pair with
    | pair0 => exact commandOfFrame_settingWrite 0x0D value
    | pair1 => exact commandOfFrame_settingWrite 0x0E value
  | attnMaskWrite value => exact commandOfFrame_settingWrite 0x15 value
  | stageWrite arg => cases arg <;> exact rfl
  | install handle => exact congrArg Instr.install (handleArg_handleArgBytes handle)
  | amend handle => exact congrArg Instr.amend (handleArg_handleArgBytes handle)
  | retire handle => exact congrArg Instr.retire (handleArg_handleArgBytes handle)
  | hold handle => exact congrArg Instr.hold (handleArg_handleArgBytes handle)
  | release handle => exact congrArg Instr.release (handleArg_handleArgBytes handle)
  | snapshot handle => exact congrArg Instr.snapshot (handleArg_handleArgBytes handle)
  | snapshotClear handle => exact congrArg Instr.snapshotClear (handleArg_handleArgBytes handle)
  | viewRead arg => exact congrArg Instr.viewRead (twoBytesArg_twoBytesArgBytes arg)
  | rosterRead arg => exact congrArg Instr.rosterRead (twoBytesArg_twoBytesArgBytes arg)
  | portRead arg => cases arg <;> exact rfl
  | portOn arg => cases arg <;> exact rfl
  | portReadClear port | portOff port | prove port | endProve port | reinstate port => exact rfl
  | unknownCommand stray =>
    cases stray with
    | commandByte code => exact commandOf_unknown ((Bool.not_eq_true' _).mp hwf) []
    | portAction port action => exact portCommandRow_stray (of_decide_eq_true hwf) port
    | noByte => exact rfl
  | _ => exact True.intro

/-- Settles O4: the one frame `frameOfCommand` gives a command is the frame in hand. -/
theorem commandFrameReadsBackAsItsCommand : Obligations.CommandFrameReadsBackAsItsCommand := by
  intro i frame hwf hframe
  have hreads := frameOfCommand_readsAs hwf
  rw [hframe] at hreads
  exact hreads

end Sys2Proof.Machine
end

section
namespace Sys2Proof.Machine

/-! ## Steps with a command waiting -/

theorem step_of_command {c : Instr} {rest : List Instr} {s : State} (h : s.pending = c :: rest) :
    step s = exec c { s with pending := rest } := by
  rw [step, h]

/-- Settles O1: the queue's front decides the branch of the step. -/
theorem stepRunsFrontCommand : Obligations.StepRunsFrontCommand := fun _ _ _ h => step_of_command h

/-! ## Events and their occasions (log 2)

What each event that asks for an occasion does, with and without it: the state it leaves is always given. -/

theorem exec_laneIntake_elim (l : Lane) (s : State) :
    exec (.laneIntake l) s = .next ((s.nextFrame (.lane l)).elim s (s.laneSteps l)) := by
  show execLaneIntake l s = _
  rw [execLaneIntake]
  cases s.nextFrame (.lane l) <;> rfl

theorem exec_bayIntake_elim (p : BayPort) (s : State) :
    exec (.bayIntake p) s =
      .next ((s.nextFrame (.bay p)).elim s (fun f => if s.settings.paired p then s.pairedSteps p f else s.unpairedSteps p f)) := by
  show execBayIntake p s = _
  rw [execBayIntake]
  cases s.nextFrame (.bay p) <;> rfl

theorem exec_lookupByKey_elim (p : Port) (s : State) :
    exec (.lookupByKey p) s =
      .next ((s.port p).store.head?.elim s (fun f => if s.granted p .lookup then ((s.settleFrame p).rotate p).lookupOn p f else s)) := by
  show execLookupByKey p s = _
  rw [execLookupByKey]
  cases (s.port p).store.head? <;> rfl

theorem exec_patternSearch_elim (p : BayPort) (s : State) :
    exec (.patternSearch p) s =
      .next ((s.port (.bay p)).store.head?.elim s (fun f =>
        if s.granted (.bay p) .search then ((s.settleFrame (.bay p)).rotate (.bay p)).searchOn p f else s)) := by
  show execPatternSearch p s = _
  rw [execPatternSearch]
  cases (s.port (.bay p)).store.head? <;> rfl

theorem exec_noticeGrant_elim (s : State) :
    exec .noticeGrant s =
      .next (s.noticeTurn.elim s (fun h => ({ s.endInHand with notices := s.notices.drop 1 } : State).freeIfDrained h)) := by
  show execNoticeGrant s = _
  rw [execNoticeGrant]
  cases s.noticeTurn <;> rfl

theorem exec_probeBoundary_elim (s : State) : exec .probeBoundary s = .next (s.probeDue.elim s s.probeBoundary) := by
  show execProbeBoundary s = _
  rw [execProbeBoundary]
  cases s.probeDue <;> rfl

theorem exec_provingFrame_ite (l : Lane) (s : State) :
    exec (.provingFrame l) s =
      .next (if s.provingDue l then (s.sendProving l).modProving l (fun r => { r with nextAt := r.nextAt + 1000 }) else s) := by
  show execProvingFrame l s = _
  rw [execProvingFrame]
  cases s.provingDue l <;> rfl

theorem exec_transmissionEnd_elim (p : Port) (s : State) :
    exec (.transmissionEnd p) s = .next ((s.port p).sending.elim s (s.endTransmission p)) := by
  show execTransmissionEnd p s = _
  rw [execTransmissionEnd]
  cases (s.port p).sending <;> rfl

/-- What acts on a frame only when granted does nothing without the grant, whether or not there is a frame. -/
theorem elim_of_not_granted {α : Type} {granted : Bool} (h : granted = false) (o : Option α) (s : State) (f : α → State) :
    o.elim s (fun x => if granted then f x else s) = s := by
  subst h
  cases o <;> rfl

/-- A part at which it is not the timed operation's turn is left as it is by the grant of each of the seven. -/
theorem exec_timedGrant_idle {s : State} (hturn : s.turn ≠ .timed) :
    ∀ i ∈ [Instr.installGrant, .amendGrant, .retireGrant, .holdGrant, .releaseGrant, .snapshotGrant, .snapshotClearGrant],
      exec i s = .next s := by
  have idle (kind : TimedKind) (op : State → Nat → List Byte → State × Result) :
      Host.Outcome.next (s.grantTimed kind op) = (.next s : Host.Outcome State Fault Refusal) :=
    congrArg _ (s.grantTimed_idle kind op hturn)
  simp only [List.forall_mem_cons]
  exact ⟨idle _ _, idle _ _, idle _ _, idle _ _, idle _ _, idle _ _, idle _ _, List.forall_mem_nil _⟩

/-! ## Every step gives a next state (spec/95) -/

/-- The arms that ask for an occasion answer in both cases; every other arm is one next state as it stands. -/
theorem exec_next (c : Instr) (s : State) : ∃ t, exec c s = .next t := by
  cases c with
  | laneIntake l => exact ⟨_, exec_laneIntake_elim l s⟩
  | bayIntake p => exact ⟨_, exec_bayIntake_elim p s⟩
  | lookupByKey p => exact ⟨_, exec_lookupByKey_elim p s⟩
  | patternSearch p => exact ⟨_, exec_patternSearch_elim p s⟩
  | noticeGrant => exact ⟨_, exec_noticeGrant_elim s⟩
  | probeBoundary => exact ⟨_, exec_probeBoundary_elim s⟩
  | provingFrame l => exact ⟨_, exec_provingFrame_ite l s⟩
  | transmissionEnd p => exact ⟨_, exec_transmissionEnd_elim p s⟩
  | _ => exact ⟨_, rfl⟩

/-- With no command waiting, one of the units acts as its own event does, or the clock ticks (log 1). -/
theorem State.idle_next (s : State) : ∃ t, s.idle = .next t := by
  unfold State.idle
  split
  · exact exec_next .sweepPeriodBoundary s
  split
  · exact exec_next .probeBoundary s
  split
  · exact exec_next (.provingFrame .a) s
  split
  · exact exec_next (.provingFrame .b) s
  · exact ⟨_, rfl⟩

theorem step_next (s : State) : ∃ t, step s = .next t := by
  cases hqueue : s.pending with
  | nil => exact (step_of_no_command hqueue).symm ▸ s.idle_next
  | cons c rest => exact (step_of_command hqueue).symm ▸ exec_next c _

/-- Settles O3: a step is the front command or an idle one, and each event's equation at its missing occasion leaves the state. -/
theorem everyCommandHasAnOutcomeAndNoOccasionNoEffect : Obligations.EveryCommandHasAnOutcomeAndNoOccasionNoEffect := by
  have idle {c : Bool} (h : c = false) (s t : State) :
      Host.Outcome.next (if c then t else s) = (.next s : Host.Outcome State Fault Refusal) :=
    congrArg _ (if_neg (Bool.eq_false_iff.mp h))
  refine ⟨step_next, fun s => ⟨fun l hframe => ?_, fun p hframe => ?_, fun p hgrant => ?_, fun p hgrant => ?_, fun hturn => ?_,
    fun hturn => idle hturn s _, exec_timedGrant_idle, fun hdue => idle hdue s _, fun hdue => ?_, fun l hdue => ?_,
    fun p hsending => ?_, fun hheld => idle hheld s _, fun hreading o => idle hreading s _⟩⟩
  · rw [exec_laneIntake_elim, hframe]; rfl
  · rw [exec_bayIntake_elim, hframe]; rfl
  · rw [exec_lookupByKey_elim, elim_of_not_granted hgrant]
  · rw [exec_patternSearch_elim, elim_of_not_granted hgrant]
  · rw [exec_noticeGrant_elim, hturn]; rfl
  · rw [exec_probeBoundary_elim, hdue]; rfl
  · rw [exec_provingFrame_ite, idle hdue]
  · rw [exec_transmissionEnd_elim, hsending]; rfl

end Sys2Proof.Machine
end

section
namespace Sys2Proof.Machine

/-! ## The state after reset (R78, R123, R130, R131, R145, R154, R158, R163 to R165, R170) -/

/-- Every port of the part after reset is the same unit, link signal mark clear. -/
theorem State.port_reset (p : Port) : State.reset.port p = .reset false := by
  rcases p with (_ | _) | (_ | _ | _ | _) <;> rfl

theorem State.provingOf_reset (l : Lane) : State.reset.provingOf l = .zero := by cases l <;> rfl

/-- Settles O5: the fields are the spec's values as they stand; every port is the one reset unit and every lane's record zero. -/
theorem resetLeavesTheSpecsValues : Obligations.ResetLeavesTheSpecsValues := by
  unfold Obligations.ResetLeavesTheSpecsValues
  have hport (p : Port) : (State.reset.port p).state = .off ∧ (State.reset.port p).counters = PortCounters.zero
      ∧ (State.reset.port p).flaps = [] ∧ (State.reset.port p).store = [] ∧ (State.reset.port p).descriptors = []
      ∧ (State.reset.port p).quota = 0 := by
    rw [State.port_reset]
    exact ⟨rfl, rfl, rfl, rfl, rfl, rfl⟩
  have hproving (l : Lane) : (State.reset.provingOf l).sequence = 0 ∧ (State.reset.provingOf l).sent = 0
      ∧ (State.reset.provingOf l).returned = 0 ∧ (State.reset.provingOf l).lastTrip = 0 ∧ (State.reset.provingOf l).longestTrip = 0 := by
    rw [State.provingOf_reset]
    exact ⟨rfl, rfl, rfl, rfl, rfl⟩
  exact ⟨rfl, rfl, rfl, rfl, rfl, rfl, rfl, rfl, rfl, fun _ => rfl, rfl, rfl, rfl, rfl, rfl, rfl, rfl, hport, hproving, rfl,
    fun _ => rfl, rfl, rfl, rfl, rfl, rfl, rfl, fun _ => rfl, rfl, rfl, rfl, rfl, rfl, rfl⟩

/-- Settles O6: each start is State.reset with the fields it names. -/
theorem everyStartPutsThePartAtItsResetValues : Obligations.EveryStartPutsThePartAtItsResetValues := by
  unfold Obligations.EveryStartPutsThePartAtItsResetValues
  refine ⟨fun signal s => ⟨rfl, rfl, fun hheld => ?_⟩, fun s => ?_⟩
  · show Host.Outcome.next (if s.resetHeld then _ else _) = _
    rw [if_pos hheld]
    rfl
  · show Host.Outcome.next s.fullReset = _
    cases hheld : s.resetHeld <;> simp only [State.fullReset, State.freshStart, Loader.atStart, hheld] <;> rfl

/-- After reset no port is in service and each holds nothing, so the laws of the ports hold. -/
theorem portLaw_reset : PortLaw State.reset := by
  refine ⟨fun p => ?_, fun p => ?_⟩ <;> rw [State.port_reset]
  · rfl
  · exact PortState.noConfusion

/-- Settles O60: the tables and lists are empty, the ports hold nothing, the probe unit is stopped and the load has not ended. -/
theorem resetHasEveryLaw : Obligations.ResetHasEveryLaw := by
  unfold Obligations.ResetHasEveryLaw
  have hbalanced : State.reset.balanced := State.freshStart_balanced State.reset ⟨false, false, false, false, false, false⟩ false |>.quiet rfl
  obtain ⟨hcells, hpool, htallies⟩ := (balanced_iff _).mp hbalanced
  have hstart : StartLaw State.reset := by
    refine ⟨fun _ => ⟨fun p => ?_, rfl, rfl, rfl, rfl⟩, fun hready => absurd hready Bool.false_ne_true, fun _ => rfl⟩
    rw [State.port_reset]
    rfl
  have hkey : KeyLaw State.reset := fun _ _ hh => absurd hh Bool.false_ne_true
  have hring : RingLaw State.reset :=
    ⟨fun hb => absurd hb Bool.false_ne_true, fun _ => ⟨rfl, rfl, rfl, rfl, rfl, rfl⟩, fun hb => absurd hb Bool.false_ne_true,
      fun _ => ⟨rfl, rfl, rfl, rfl, rfl⟩⟩
  have hloader : LoaderLaw State.reset :=
    ⟨LoadState.noConfusion, fun _ => ⟨rfl, .inl rfl⟩, fun _ hretry => absurd hretry Bool.false_ne_true, by decide, by decide⟩
  refine ⟨⟨by decide, by decide⟩, ⟨rfl, fun _ he => absurd he List.not_mem_nil⟩, hkey, hcells, hpool, htallies, portLaw_reset, hring,
    ⟨rfl, fun _ he => absurd he List.not_mem_nil, Nat.zero_le _⟩, ⟨rfl, rfl, rfl, by decide⟩, ⟨Nat.le_refl _, List.nodup_nil⟩, hstart,
    hloader⟩

/-! ## Notices (R30) -/

/-- Settles O32: the notice's turn is the head of the list, and the record is written where it is drained. -/
theorem noticeFreesADrainedRecord : Obligations.NoticeFreesADrainedRecord := by
  intro h rest s hturn hnotices
  have hexec : exec .noticeGrant s = .next (({ s.endInHand with notices := rest } : State).freeIfDrained h) := by
    rw [exec_noticeGrant_elim, hturn, hnotices]
    rfl
  refine ⟨_, hexec, ?_⟩
  unfold State.freeIfDrained
  by_cases hd : (s.record h).state = .retiring ∧ s.tally h = 0
  · rw [if_pos (c := (State.record { s.endInHand with notices := rest } h).state = .retiring
      ∧ State.tally { s.endInHand with notices := rest } h = 0) hd, if_pos hd]
    exact ⟨rfl, fun k hk => State.record_putRecord_other _ _ hk, State.record_putRecord_same _ _ _⟩
  · rw [if_neg (c := (State.record { s.endInHand with notices := rest } h).state = .retiring
      ∧ State.tally { s.endInHand with notices := rest } h = 0) hd, if_neg hd]
    exact ⟨rfl, fun _ _ => rfl, rfl⟩

/-! ## Frames that are refused (R156, R157, R159, R160) -/

theorem State.post_eq (s : State) (r : Result) : s.post r = { s with spiOut := [s.statusByte], lastResult := r } := rfl

/-- While the load runs, a frame of the command port but STATUS READ, FULL RESET and FLAGS READ is refused with NOT_READY (R160). -/
theorem exec_notReady {i : Instr} {s : State} (hr : s.ready = false) (hframe : (frameOfCommand i).isSome = true) (hstatus : i ≠ .statusRead)
    (hreset : i ≠ .fullReset) (hflags : i ≠ .flagsRead) (hbyte : i ≠ .unknownCommand .noByte) : exec i s = .next (s.post .notReady) := by
  have hact {α : Type} (arg : FrameArg α) (n : Nat) (act : α → State × Result × List Byte) :
      Host.Outcome.next (s.immediate arg n act) = (.next (s.post .notReady) : Host.Outcome State Fault Refusal) :=
    congrArg _ (s.immediate_notReady arg n act hr)
  have hclaim (kind : TimedKind) (arg : FrameArg Word) (copy : List Byte) :
      Host.Outcome.next (s.claimTimed kind arg copy) = (.next (s.post .notReady) : Host.Outcome State Fault Refusal) :=
    congrArg _ (s.claimTimed_notReady kind arg copy hr)
  have hstray (r : Result) :
      Host.Outcome.next (if s.ready then s.post r else s.post .notReady) = (.next (s.post .notReady) : Host.Outcome State Fault Refusal) := by
    rw [hr]
    rfl
  cases i with
  | statusRead => exact absurd rfl hstatus
  | fullReset => exact absurd rfl hreset
  | flagsRead => exact absurd rfl hflags
  | unknownCommand frame =>
    cases frame with
    | commandByte code => exact hstray _
    | portAction port action => exact hstray _
    | noByte => exact absurd rfl hbyte
  | install | amend | retire | hold | release | snapshot | snapshotClear => exact hclaim _ _ _
  | powerOn | resetNLow | resetNHigh | transfer | linkSignalPresent | linkSignalLost | frameReception | frameReceptionStart | laneIntake
  | bayIntake | lookupByKey | patternSearch | noticeGrant | sweepPeriodBoundary | sweepVisit | probeBoundary | provingFrame
  | transmissionEnd | installGrant | amendGrant | retireGrant | holdGrant | releaseGrant | snapshotGrant | snapshotClearGrant =>
    exact absurd hframe Bool.false_ne_true
  | _ => exact hact _ _ _

/-- A frame cut short before its arguments are complete is refused with BAD_VALUE (R157, R160). -/
theorem exec_cut {s : State} (hr : s.ready = true) :
    ∀ i ∈ [Instr.flagsClear .cut, .settingRead .cut, .settingWrite .cut, .stageWrite .cut, .install .cut, .amend .cut, .retire .cut] ++
      [.hold .cut, .release .cut, .snapshot .cut, .snapshotClear .cut, .viewRead .cut, .portRead .cut, .portOn .cut, .rosterRead .cut],
      exec i s = .next (s.post .badValue) := by
  have hact {α : Type} (n : Nat) (act : α → State × Result × List Byte) :
      Host.Outcome.next (s.immediate .cut n act) = (.next (s.post .badValue) : Host.Outcome State Fault Refusal) :=
    congrArg _ (s.immediate_cut n act hr)
  have hclaim (kind : TimedKind) (copy : List Byte) :
      Host.Outcome.next (s.claimTimed kind .cut copy) = (.next (s.post .badValue) : Host.Outcome State Fault Refusal) :=
    congrArg _ (s.claimTimed_cut kind copy hr)
  simp only [List.cons_append, List.nil_append, List.forall_mem_cons]
  exact ⟨hact _ _, hact _ _, hact _ _, hact _ _, hclaim _ _, hclaim _ _, hclaim _ _, hclaim _ _, hclaim _ _, hclaim _ _, hclaim _ _,
    hact _ _, hact _ _, hact _ _, hact _ _, List.forall_mem_nil _⟩

/-- Settles O44: every refusal is a post, of NOT_READY while the load runs, of BAD_VALUE for a frame cut short, and of what a stray frame
gives. -/
theorem refusedFramesHaveNoEffect : Obligations.RefusedFramesHaveNoEffect := by
  refine ⟨fun i s hr hframe hstatus hreset hflags hbyte => exec_notReady hr hframe hstatus hreset hflags hbyte, fun s hr => ?_,
    fun i s hr hi => exec_cut hr i hi, fun code port action s hr => ⟨?_, ?_, rfl⟩⟩
  · show Host.Outcome.next _ = _
    rw [hr]
    rfl
  · exact congrArg Host.Outcome.next (if_pos hr)
  · exact congrArg Host.Outcome.next (if_pos hr)

end Sys2Proof.Machine
end

section
namespace Sys2Proof.Machine

/-! ## The laws of the stream table under one record's write (R19 to R30) -/

theorem Record.free_lawful : Record.free.lawful = true := by decide

/-- Every record of a lawful table is lawful: one not listed is FREE (R19). -/
theorem TableLaw.record_lawful {s : State} (hs : TableLaw s) (h : Nat) : (s.record h).lawful = true := by
  obtain ⟨-, hall⟩ := hs
  by_cases hfree : s.record h = Record.free
  · rw [hfree]; exact Record.free_lawful
  · exact (hall _ (Sparse.mem_of_get Record.free s.table h hfree)).2

/-- A record that is not FREE stands at a handle of the table (R19). -/
theorem TableLaw.handle_lt {s : State} (hs : TableLaw s) {h : Nat} (hf : (s.record h).state ≠ .free) : h < Config.handles := by
  obtain ⟨-, hall⟩ := hs
  have hlisted : s.record h ≠ Record.free := fun e => hf (congrArg Record.state e)
  exact (hall _ (Sparse.mem_of_get Record.free s.table h hlisted)).1

/-- A FREE record of a lawful table has all its fields 0 (R19, R30). -/
theorem TableLaw.free_of_state {s : State} (hs : TableLaw s) {h : Nat} (hf : (s.record h).state = .free) : s.record h = Record.free := by
  have hl := hs.record_lawful h
  simp only [Record.lawful, Record.presenceLawful, hf, bne_self_eq_false, Bool.false_or, Bool.and_eq_true, beq_iff_eq] at hl
  obtain ⟨⟨⟨⟨⟨⟨hfree, -⟩, -⟩, -⟩, -⟩, -⟩, -⟩ := hl
  exact hfree

theorem RecState.ne_free_of_occupied {st : RecState} (h : st.occupied = true) : st ≠ .free := ((RecState.occupied_iff st).mp h).1

theorem State.record_of_put {s t : State} {h : Nat} {r : Record} (ht : t.table = Sparse.put Record.free s.table h r) (k : Nat) :
    t.record k = if k = h then r else s.record k := by
  unfold State.record
  rw [ht]
  split
  · rename_i hk; subst hk; exact Sparse.get_put_same _ _ _ _
  · rename_i hk; exact Sparse.get_put_other _ _ _ hk

theorem TableLaw.put {s t : State} (hs : TableLaw s) {h : Nat} {r : Record} (ht : t.table = Sparse.put Record.free s.table h r)
    (hh : h < Config.handles) (hr : r.lawful = true) : TableLaw t := by
  obtain ⟨hwf, hall⟩ := hs
  unfold TableLaw
  rw [ht]
  refine ⟨Sparse.wf_put _ _ _ _ hwf, fun e he => ?_⟩
  rcases (Sparse.mem_put _ _ _ _ e).mp he with ⟨rfl, -⟩ | ⟨hmem, -⟩
  · exact ⟨hh, hr⟩
  · exact hall e hmem

/-- A record written where no other record holds its key leaves every key held once (R21). -/
theorem KeyLaw.put {s t : State} (hs : KeyLaw s) {h : Nat} {r : Record} (ht : t.table = Sparse.put Record.free s.table h r)
    (hr : r.state.occupied = true → ∀ k, k ≠ h → (s.record k).state.occupied = true → ¬ r.sameKey (s.record k)) : KeyLaw t := by
  intro j k hj hk hsame
  rw [State.record_of_put ht] at hj hk hsame
  rw [State.record_of_put ht k] at hsame
  by_cases hjh : j = h
  · by_cases hkh : k = h
    · rw [hjh, hkh]
    · rw [if_pos hjh] at hj hsame
      rw [if_neg hkh] at hk hsame
      exact absurd hsame (hr hj k hkh hk)
  · by_cases hkh : k = h
    · rw [if_neg hjh] at hj hsame
      rw [if_pos hkh] at hk hsame
      obtain ⟨horigin, hstream⟩ := hsame
      exact absurd ⟨horigin.symm, hstream.symm⟩ (hr hk j hjh hj)
    · rw [if_neg hjh] at hj hsame
      rw [if_neg hkh] at hk hsame
      exact hs j k hj hk hsame

/-- A record found by what it is like, in a canonical table, is the record of its handle (R34, R36). -/
theorem State.record_of_find {s : State} (hw : Sparse.wf Record.free s.table = true) {like : Record → Bool} {h : Nat}
    (hf : (s.table.find? (fun e => like e.2)).map (·.1) = some h) : like (s.record h) = true := by
  obtain ⟨e, he, rfl⟩ := Option.map_eq_some_iff.mp hf
  have hlike : like e.2 = true := List.find?_some (p := fun e : Nat × Record => like e.2) he
  have hrecord : s.record e.1 = e.2 := Sparse.get_of_mem Record.free s.table hw (List.mem_of_find?_eq_some he)
  rw [hrecord]
  exact hlike

/-- A key that is not held is the key of no record that lookups find (R21). -/
theorem State.no_sameKey {s : State} {origin : BitVec 6} {stream : BitVec 14} (hn : s.keyHeld origin stream = false) (k : Nat)
    (ho : (s.record k).state.occupied = true) : ¬ (origin = (s.record k).config.origin ∧ stream = (s.record k).config.stream) := by
  rintro ⟨horigin, hstream⟩
  have hlisted : s.record k ≠ Record.free := fun e => by
    rw [e] at ho
    exact Bool.false_ne_true ho
  have hheld : s.keyHeld origin stream = true := (s.keyHeld_iff origin stream).mpr
    ⟨k, s.record k, Sparse.mem_of_get Record.free s.table k hlisted, ho, horigin.symm, hstream.symm⟩
  rw [hn] at hheld
  exact Bool.false_ne_true hheld

/-! ## The one change a command makes to the table (R30, R69, R82, R98 to R108) -/

/-- The table after one command other than a start or a transfer: as it was, or with one record written. `frozen` are the handles of
frozen segments, to whose records INSTALL, AMEND and RETIRE do nothing (R111). -/
inductive TableMove (frozen : Nat → Bool) (m : List (Nat × Record)) : List (Nat × Record) → Prop
  | stays : TableMove frozen m m
  | kept (h : Nat) (r : Record) (before : (Sparse.get Record.free m h).state.occupied = true) (after : r.state.occupied = true)
      (config : r.config = (Sparse.get Record.free m h).config) (lawful : r.lawful = true) :
      TableMove frozen m (Sparse.put Record.free m h r)
  | installed (h : Nat) (c : StreamConfig) (inTable : h < Config.handles) (thawed : frozen h = false)
      (free : (Sparse.get Record.free m h).state = .free) (fits : c.legModeFits = true)
      (unheld : ∀ k, (Sparse.get Record.free m k).state.occupied = true →
        ¬ (c.origin = (Sparse.get Record.free m k).config.origin ∧ c.stream = (Sparse.get Record.free m k).config.stream)) :
      TableMove frozen m (Sparse.put Record.free m h (.installed c))
  | amended (h : Nat) (c : StreamConfig) (thawed : frozen h = false) (before : (Sparse.get Record.free m h).state.occupied = true)
      (same : c.sameStream (Sparse.get Record.free m h).config = true) :
      TableMove frozen m (Sparse.put Record.free m h { Sparse.get Record.free m h with config := c })
  | retired (h tally : Nat) (thawed : frozen h = false) (before : (Sparse.get Record.free m h).state.occupied = true) :
      TableMove frozen m (Sparse.put Record.free m h ((Sparse.get Record.free m h).retired tally))
  | drained (h : Nat) (before : (Sparse.get Record.free m h).state = .retiring) :
      TableMove frozen m (Sparse.put Record.free m h Record.free)

theorem Record.installed_lawful {c : StreamConfig} (hfit : c.legModeFits = true) : (Record.installed c).lawful = true := by
  simp [Record.installed, Record.lawful, Record.presenceLawful, Record.deadlineLawful, Record.stateLawful, Record.twinsLawful,
    Record.oneLegLawful, Record.free, RecState.arriving, RecState.occupied, Leg.zero, hfit]

/-- A configuration of the same kind and leg mode, as an AMEND brings, keeps the record's laws (R100). -/
theorem Record.amended_lawful {r : Record} {c : StreamConfig} (hl : r.lawful = true) (ho : r.state.occupied = true)
    (hs : c.sameStream r.config = true) : ({ r with config := c } : Record).lawful = true := by
  obtain ⟨hkind, hmode, -, -⟩ := (c.sameStream_iff r.config).mp hs
  have htwo : ({ r with config := c } : Record).twoLeg = r.twoLeg := by simp only [Record.twoLeg, hkind]
  have hanew : ({ r with config := c } : Record).stateAnew = r.stateAnew := by
    simp only [Record.stateAnew, htwo]
    rfl
  have hne := RecState.ne_free_of_occupied ho
  simp only [Record.lawful, Record.presenceLawful, Record.deadlineLawful, Record.stateLawful, Record.twinsLawful,
    Record.oneLegLawful, htwo, hanew, StreamConfig.legModeFits, hkind, hmode, ho, bne_iff_ne.mpr hne, Bool.true_or, Bool.or_true] at hl ⊢
  exact hl

/-- A record being drained, or the FREE one it becomes, is lawful (R102). -/
theorem Record.retired_lawful {r : Record} (hl : r.lawful = true) (tally : Nat) : (r.retired tally).lawful = true := by
  unfold Record.retired
  split
  · exact Record.free_lawful
  · simp only [Record.lawful, Record.oneLegLawful, Bool.and_eq_true] at hl
    obtain ⟨⟨-, hleg⟩, hfit⟩ := hl
    have htwo : ({ r with state := .retiring, twins := [], running := false, inAttention := false } : Record).twoLeg = r.twoLeg := rfl
    simp only [Bool.or_eq_true, Bool.and_eq_true] at hleg
    have hleg' : r.twoLeg = true ∨ (r.legA.misses == 0) = true ∧ (r.legB == Leg.zero) = true :=
      hleg.imp_right (fun ⟨⟨_, hmisses⟩, hzero⟩ => ⟨hmisses, hzero⟩)
    simpa [Record.lawful, Record.presenceLawful, Record.deadlineLawful, Record.stateLawful, Record.twinsLawful, Record.oneLegLawful,
      RecState.arriving, htwo, hfit] using hleg'

theorem Record.retired_unoccupied (r : Record) (tally : Nat) : (r.retired tally).state.occupied = false := by
  unfold Record.retired
  split <;> rfl

/-- A lawful table goes to a lawful one, with no key held twice. -/
theorem TableMove.laws {s t : State} {frozen : Nat → Bool} (hm : TableMove frozen s.table t.table) (hs : TableLaw s) (hk : KeyLaw s) :
    TableLaw t ∧ KeyLaw t := by
  have hmine {h : Nat} {r : Record} (before : (s.record h).state.occupied = true) (horigin : r.config.origin = (s.record h).config.origin)
      (hstream : r.config.stream = (s.record h).config.stream) (k : Nat) (hkh : k ≠ h) (ho : (s.record k).state.occupied = true) :
      ¬ r.sameKey (s.record k) := fun ⟨ho', hs'⟩ => hkh (hk k h ho before ⟨(horigin.symm.trans ho').symm, (hstream.symm.trans hs').symm⟩)
  generalize ht : t.table = m at hm
  cases hm with
  | stays =>
    have hrecord (k : Nat) : t.record k = s.record k := by rw [State.record, State.record, ht]
    refine ⟨?_, ?_⟩
    · unfold TableLaw
      rw [ht]
      exact hs
    · intro j k hj hk'
      rw [hrecord] at hj hk'
      rw [hrecord, hrecord]
      exact hk j k hj hk'
  | kept h r before after config lawful =>
    exact ⟨hs.put ht (hs.handle_lt (RecState.ne_free_of_occupied before)) lawful,
      hk.put ht (fun _ => hmine before (congrArg StreamConfig.origin config) (congrArg StreamConfig.stream config))⟩
  | installed h c inTable thawed free fits unheld =>
    exact ⟨hs.put ht inTable (Record.installed_lawful fits), hk.put ht (fun _ k _ ho => unheld k ho)⟩
  | amended h c thawed before same =>
    obtain ⟨-, -, horigin, hstream⟩ := (c.sameStream_iff _).mp same
    exact ⟨hs.put ht (hs.handle_lt (RecState.ne_free_of_occupied before)) (Record.amended_lawful (hs.record_lawful h) before same),
      hk.put ht (fun _ => hmine before horigin hstream)⟩
  | retired h tally thawed before =>
    refine ⟨hs.put ht (hs.handle_lt (RecState.ne_free_of_occupied before)) (Record.retired_lawful (hs.record_lawful h) tally),
      hk.put ht (fun ho => ?_)⟩
    rw [Record.retired_unoccupied] at ho
    exact absurd ho Bool.false_ne_true
  | drained h before =>
    refine ⟨hs.put ht (hs.handle_lt (h := h) ?_) Record.free_lawful, hk.put ht (fun ho => absurd ho Bool.false_ne_true)⟩
    exact fun e => RecState.noConfusion (before.symm.trans e)

/-- Of a record in a frozen segment the presence, the key and the configuration stay, but for the drain of one that was RETIRING (R30,
R111). -/
theorem TableMove.frozen {s t : State} {frozen : Nat → Bool} (hm : TableMove frozen s.table t.table) {h : Nat} (hh : frozen h = true) :
    (t.record h).state.occupied = (s.record h).state.occupied
      ∧ ((s.record h).state ≠ .retiring → (t.record h).config = (s.record h).config)
      ∧ ((s.record h).state = .free → t.record h = s.record h)
      ∧ ((s.record h).state = .retiring → t.record h = s.record h ∨ t.record h = Record.free) := by
  have same (e : t.record h = s.record h) : (t.record h).state.occupied = (s.record h).state.occupied
      ∧ ((s.record h).state ≠ .retiring → (t.record h).config = (s.record h).config)
      ∧ ((s.record h).state = .free → t.record h = s.record h)
      ∧ ((s.record h).state = .retiring → t.record h = s.record h ∨ t.record h = Record.free) := by
    rw [e]
    exact ⟨rfl, fun _ => rfl, fun _ => rfl, fun _ => .inl rfl⟩
  have elsewhere {k : Nat} {r : Record} (ht : t.table = Sparse.put Record.free s.table k r) (hk : h ≠ k) : t.record h = s.record h := by
    rw [State.record_of_put ht, if_neg hk]
  have thawedElsewhere {k : Nat} (hk : frozen k = false) : h ≠ k := fun e => by
    rw [e, hk] at hh
    exact Bool.false_ne_true hh
  generalize ht : t.table = m at hm
  cases hm with
  | stays => exact same (by rw [State.record, State.record, ht])
  | kept k r before after config lawful =>
    by_cases hk : h = k
    · subst hk
      have hr : t.record h = r := by rw [State.record_of_put ht, if_pos rfl]
      obtain ⟨hfree, hretiring⟩ := (RecState.occupied_iff _).mp before
      rw [hr]
      exact ⟨after.trans before.symm, fun _ => config, fun e => absurd e hfree, fun e => absurd e hretiring⟩
    · exact same (elsewhere ht hk)
  | installed k c inTable thawed free fits unheld => exact same (elsewhere ht (thawedElsewhere thawed))
  | amended k c thawed before same' => exact same (elsewhere ht (thawedElsewhere thawed))
  | retired k tally thawed before => exact same (elsewhere ht (thawedElsewhere thawed))
  | drained k before =>
    by_cases hk : h = k
    · subst hk
      have hr : t.record h = Record.free := by rw [State.record_of_put ht, if_pos rfl]
      have hretiring : (s.record h).state = .retiring := before
      rw [hr, hretiring]
      exact ⟨rfl, fun e => absurd rfl e, fun e => absurd e (by decide), fun _ => .inr rfl⟩
    · exact same (elsewhere ht hk)

end Sys2Proof.Machine
end

section
namespace Sys2Proof.Machine

/-! ## A port's laws under the operations on its unit (R114, R117, R118, R120) -/

theorem PortUnit.lawful_iff (u : PortUnit) :
    u.lawful = true ↔ (u.state.inService = true ∨ (u.descriptors = [] ∧ u.quota = 0 ∧ u.underWay = false)) ∧ u.flaps.length ≤ 15
      ∧ (u.claim = none ∨ u.store ≠ []) := by
  simp only [PortUnit.lawful, Bool.and_eq_true, Bool.or_eq_true, List.isEmpty_iff, beq_iff_eq, Bool.not_eq_true', decide_eq_true_eq,
    Option.isNone_iff_eq_none, List.isEmpty_eq_false_iff, and_assoc]

/-- The unit keeps its state and, when it is lawful, its laws. -/
def PortUnit.keeps (u v : PortUnit) : Prop := v.state = u.state ∧ (u.lawful = true → v.lawful = true)

theorem PortUnit.keeps_refl (u : PortUnit) : u.keeps u := ⟨rfl, id⟩

theorem PortUnit.keeps_trans {u v w : PortUnit} (h : u.keeps v) (k : v.keeps w) : u.keeps w := by
  obtain ⟨hstate, hlawful⟩ := h
  obtain ⟨kstate, klawful⟩ := k
  exact ⟨kstate.trans hstate, klawful ∘ hlawful⟩

/-- A unit in service that keeps its flap history, and its claim with its store, keeps its laws. -/
theorem PortUnit.keeps_inService {u v : PortUnit} (hu : u.state.inService = true) (hstate : v.state = u.state) (hflaps : v.flaps = u.flaps)
    (hclaim : u.claim = none ∨ u.store ≠ [] → v.claim = none ∨ v.store ≠ []) : u.keeps v := by
  refine ⟨hstate, fun hl => ?_⟩
  obtain ⟨-, hflap, hstore⟩ := u.lawful_iff.mp hl
  exact v.lawful_iff.mpr ⟨.inl (hstate ▸ hu), hflaps ▸ hflap, hclaim hstore⟩

theorem PortUnit.keeps_counters (u : PortUnit) (c : PortCounters) : u.keeps { u with counters := c } := ⟨rfl, id⟩

theorem PortUnit.choose_keeps (u : PortUnit) (quota : Nat) : u.keeps (u.choose quota) := by
  by_cases hu : u.state.inService = true
  · exact PortUnit.keeps_inService hu (u.choose_state quota) (u.choose_flaps quota)
      (fun h => by rw [PortUnit.choose_claim, PortUnit.choose_store]; exact h)
  · have hchoose : u.choose quota = u := if_neg (by rw [Bool.and_eq_true_iff]; exact fun ⟨h, _⟩ => hu h)
    rw [hchoose]
    exact u.keeps_refl

theorem flushedAtOnce_inService {st : PortState} {role : Role} (h : flushedAtOnce st role = false) : st.inService = true := by
  cases hs : st.inService with
  | true => rfl
  | false => rw [flushedAtOnce, hs] at h; exact absurd h (by simp)

/-- A copy is enqueued on a port in service alone (R149). -/
theorem State.inService_of_enqueued {s : State} {cls : DataClass} {c : Copy} (h : s.fateOf cls c = .enqueued) :
    (s.port c.port).state.inService = true := by
  unfold State.fateOf at h
  dsimp only at h
  split at h
  · exact absurd h Fate.noConfusion
  · rename_i hflush
    exact flushedAtOnce_inService (Bool.eq_false_iff.mpr hflush)

theorem PortUnit.setQueue_keeps {u : PortUnit} (hu : u.state.inService = true) (cls : DataClass) (q : List Descriptor) :
    u.keeps (u.setQueue cls q) := by
  cases cls <;> exact PortUnit.keeps_inService hu rfl rfl id

theorem PortUnit.settled_keeps (u : PortUnit) : u.keeps u.settled := by
  refine ⟨rfl, fun hl => ?_⟩
  obtain ⟨hservice, hflap, -⟩ := u.lawful_iff.mp hl
  exact u.settled.lawful_iff.mpr ⟨hservice, hflap, .inl rfl⟩

theorem PortUnit.descriptors_emptied (u : PortUnit) : u.emptied.descriptors = [] := rfl

/-- A port that takes another state is lawful: out of UP and PROVING it is flushed (R9, R118). -/
theorem PortUnit.after_lawful {u : PortUnit} (hl : u.lawful = true) (new : PortState) : (u.after new).lawful = true := by
  obtain ⟨hservice, hflap, hclaim⟩ := u.lawful_iff.mp hl
  refine (PortUnit.lawful_iff _).mpr ?_
  unfold PortUnit.after
  by_cases hu : u.state.inService = true
  · rw [if_pos hu]
    refine ⟨?_, hflap, hclaim⟩
    cases hn : new.inService with
    | true => exact .inl rfl
    | false => exact .inr ⟨u.descriptors_emptied, rfl, Bool.and_false _⟩
  · rw [if_neg hu]
    obtain ⟨hempty, hquota, hunder⟩ := hservice.resolve_left hu
    exact ⟨.inr ⟨hempty, hquota, by rw [hunder]; rfl⟩, hflap, hclaim⟩

/-! ## The ports of the part -/

/-- Every port keeps its state and its laws. -/
def State.unitsKept (s t : State) : Prop := ∀ p, (s.port p).keeps (t.port p)

theorem State.unitsKept_refl (s : State) : s.unitsKept s := fun p => (s.port p).keeps_refl

theorem State.unitsKept_trans {s t u : State} (h : s.unitsKept t) (k : t.unitsKept u) : s.unitsKept u :=
  fun p => PortUnit.keeps_trans (h p) (k p)

theorem State.unitsKept_of_ports {s t : State} (h : t.ports = s.ports) : s.unitsKept t := fun p => by
  rw [State.port, State.port, h]
  exact PortUnit.keeps_refl _

theorem State.modPort_unitsKept {s : State} {p : Port} {g : PortUnit → PortUnit} (hg : (s.port p).keeps (g (s.port p))) :
    s.unitsKept (s.modPort p g) := fun q => by
  rw [State.port_modPort]
  split
  · rename_i hq; subst hq; exact hg
  · exact PortUnit.keeps_refl _

theorem State.unitsKept.ports {s t : State} (h : s.unitsKept t) (hp : PortLaw s) : PortLaw t := by
  obtain ⟨hlawful, hbay⟩ := hp
  exact ⟨fun p => (h p).2 (hlawful p), fun p => by rw [(h (.bay p)).1]; exact hbay p⟩

theorem State.unitsKept.lanesUp {s t : State} (h : s.unitsKept t) : t.lanesUp = s.lanesUp := by
  simp only [State.lanesUp, State.isUp, (h (.lane .a)).1, (h (.lane .b)).1]

theorem State.offer_unitsKept (s : State) (name : Nat) (cls : DataClass) (c : Copy) : s.unitsKept (s.offer name cls c) := by
  intro q
  rw [State.offer_port]
  split
  · rename_i hq
    rw [hq]
    cases hf : s.fateOf cls c with
    | flushed => exact PortUnit.keeps_counters _ _
    | dropped => exact PortUnit.keeps_counters _ _
    | enqueued => exact PortUnit.setQueue_keeps (State.inService_of_enqueued hf) _ _
  · exact PortUnit.keeps_refl _

theorem State.offerAll_unitsKept (name : Nat) (cls : DataClass) (cs : List Copy) (s : State) :
    s.unitsKept (s.offerAll name cls cs).1 := by
  induction cs generalizing s with
  | nil => exact s.unitsKept_refl
  | cons c cs ih => exact State.unitsKept_trans (s.offer_unitsKept name cls c) (ih _)

theorem State.serve_unitsKept (s : State) (p : Port) : s.unitsKept (s.serve p) := State.modPort_unitsKept (PortUnit.choose_keeps _ _)

theorem State.serveAll_unitsKept (cs : List Copy) (s : State) : s.unitsKept (s.serveAll cs) := by
  induction cs generalizing s with
  | nil => exact s.unitsKept_refl
  | cons c cs ih => exact State.unitsKept_trans (s.serve_unitsKept c.port) (ih _)

theorem State.count_unitsKept (s : State) (p : Port) (g : PortCounters → PortCounters) : s.unitsKept (s.count p g) :=
  State.modPort_unitsKept (PortUnit.keeps_counters _ _)

theorem State.refuseFrame_unitsKept (s : State) (blame : List Port) : s.unitsKept (s.refuseFrame blame) := by
  have hcounts (t : State) : t.unitsKept (blame.foldl State.countRefusal t) := by
    induction blame generalizing t with
    | nil => exact t.unitsKept_refl
    | cons p ps ih => exact State.unitsKept_trans (t.count_unitsKept p _) (ih _)
  rw [State.refuseFrame_counts]
  exact State.unitsKept_trans (State.unitsKept_of_ports rfl) (hcounts _)

/-- An admission request leaves every port its state and its laws (R148, R149, R152). -/
theorem State.requestAdmission_unitsKept (s : State) (frame : List Byte) (cls : DataClass) (copies : List Copy) (blame : List Port) :
    s.unitsKept (s.requestAdmission frame cls copies blame).1 := by
  unfold State.requestAdmission
  split
  · exact s.unitsKept_refl
  split
  · refine State.unitsKept_trans (State.offerAll_unitsKept s.nextName cls copies s) ?_
    refine State.unitsKept_trans (State.unitsKept_of_ports ?_) (State.serveAll_unitsKept copies _)
    split <;> rfl
  · exact s.refuseFrame_unitsKept blame

/-! ## What the laws of the probe unit read (R131, R135, R137, R138) -/

/-- All that the law of the probe unit reads of a state. -/
def State.ringView (s : State) : Word × Word × Bool × RingState × (BitVec 4 × BitVec 4) × (Bool × Bool × List Word) × Bool :=
  (s.settings.node, s.settings.probeMissLimit, s.lanesUp, s.probe.ring, (s.probe.missA, s.probe.missB), s.probe.returns,
    s.probe.boundary.isSome)

/-- The law of the probe unit but for the ring state of a unit that runs: what a stopped unit holds, and the two miss counts. -/
def CountsLaw (s : State) : Prop :=
  (s.probe.boundary = none → s.probe.ring = .noRing ∧ s.probe.missA = 0 ∧ s.probe.missB = 0 ∧ s.probe.answeredA = false
      ∧ s.probe.answeredB = false ∧ s.probe.serials = [])
    ∧ (s.probe.boundary.isSome = true → s.settings.node ≠ 0 → s.lanesUp = false → s.probe.missA = 15 ∧ s.probe.missB = 15)
    ∧ (s.settings.node = 0 → s.probe.missA = 0 ∧ s.probe.missB = 0 ∧ s.probe.answeredA = false ∧ s.probe.answeredB = false
        ∧ s.probe.serials = [])

theorem ringLaw_iff (s : State) : RingLaw s ↔ (s.probe.boundary.isSome = true → s.probe.ring = s.ringNow) ∧ CountsLaw s := Iff.rfl

theorem RingLaw.counts {s : State} (h : RingLaw s) : CountsLaw s := ((ringLaw_iff s).mp h).2

theorem RingLaw.congr {s t : State} (hs : RingLaw s) (h : t.ringView = s.ringView) : RingLaw t := by
  simp only [State.ringView, ProbeUnit.returns, Prod.mk.injEq] at h
  obtain ⟨hnode, hlimit, hlanes, hring, ⟨hmissA, hmissB⟩, ⟨hansweredA, hansweredB, hserials⟩, hboundary⟩ := h
  have hnow : t.ringNow = s.ringNow := by simp only [State.ringNow, hnode, hlimit, hlanes, hmissA, hmissB]
  have hstopped : t.probe.boundary = none ↔ s.probe.boundary = none := by
    rw [← Option.isSome_eq_false_iff.trans Option.isNone_iff_eq_none, hboundary, Option.isSome_eq_false_iff, Option.isNone_iff_eq_none]
  unfold RingLaw at hs ⊢
  rw [hboundary, hring, hnow, hstopped, hmissA, hmissB, hansweredA, hansweredB, hserials, hnode, hlanes]
  exact hs

/-- The ring state set anew makes the law whole (R137). -/
theorem CountsLaw.judgeRing {s : State} (h : CountsLaw s) : RingLaw s.judgeRing := by
  cases hb : s.probe.boundary with
  | none =>
    rw [s.judgeRing_stopped hb]
    exact ⟨fun hsome => (by rw [hb] at hsome; exact absurd hsome Bool.false_ne_true), h⟩
  | some due =>
    obtain ⟨-, hdown, hzero⟩ := h
    have hsome : s.probe.boundary.isSome = true := by rw [hb]; rfl
    refine ⟨fun _ => by rw [s.judgeRing_ring hsome, State.judgeRing_ringNow], ?_, ?_, ?_⟩
    · rw [State.judgeRing_eq]
      exact fun hnone => absurd (hb.symm.trans hnone) (Option.some_ne_none due)
    · rw [State.judgeRing_lanesUp, State.judgeRing_eq]
      exact hdown
    · rw [State.judgeRing_eq]
      exact hzero

theorem State.lanesUp_false {s : State} {l : Lane} (h : (s.port (.lane l)).state ≠ .up) : s.lanesUp = false := by
  refine Bool.eq_false_iff.mpr fun hup => ?_
  obtain ⟨ha, hb⟩ := s.lanesUp_iff.mp hup
  cases l
  · exact h ha
  · exact h hb

/-! ## The passage of frames and the changes of ports -/

/-- What no passage of a frame and no change of a port reaches: the table, the settings, the pin and the loader. -/
def State.base (s : State) : List (Nat × Record) × Settings × Bool × Loader := (s.table, s.settings, s.resetHeld, s.loader)

/-- A passage of a frame or a change of a port: the base stays, a running probe unit runs on, and the laws of the ports and of the probe
unit are kept. -/
structure State.passes (s t : State) : Prop where
  base : t.base = s.base
  started : s.probe.boundary.isSome = true → t.probe.boundary.isSome = true
  ports : PortLaw s → PortLaw t
  ring : RingLaw s → RingLaw t

theorem State.passes_refl (s : State) : s.passes s := ⟨rfl, id, id, id⟩

theorem State.passes_trans {s t u : State} (h : s.passes t) (k : t.passes u) : s.passes u :=
  ⟨k.base.trans h.base, k.started ∘ h.started, k.ports ∘ h.ports, k.ring ∘ h.ring⟩

theorem State.passes.table {s t : State} (h : s.passes t) : t.table = s.table := congrArg Prod.fst h.base

theorem State.passes.settings {s t : State} (h : s.passes t) : t.settings = s.settings :=
  congrArg (fun b : List (Nat × Record) × Settings × Bool × Loader => b.2.1) h.base

/-- Ports that keep their states and laws, under a probe unit of which the laws read nothing new. -/
theorem State.passes_of_units {s t : State} (hbase : t.base = s.base) (hunits : s.unitsKept t) (hprobe : t.probe = s.probe) :
    s.passes t := by
  have hsettings : t.settings = s.settings := congrArg (fun b : List (Nat × Record) × Settings × Bool × Loader => b.2.1) hbase
  refine ⟨hbase, fun h => hprobe ▸ h, hunits.ports, fun hr => hr.congr ?_⟩
  simp only [State.ringView, hprobe, hsettings, hunits.lanesUp]

/-- Changes that reach neither the ports nor what the laws read of the probe unit. -/
theorem State.passes_of_probe {s t : State} (hbase : t.base = s.base) (hports : t.ports = s.ports) (hview : t.ringView = s.ringView) :
    s.passes t := by
  have hboundary : t.probe.boundary.isSome = s.probe.boundary.isSome := by
    simp only [State.ringView, Prod.mk.injEq] at hview
    obtain ⟨-, -, -, -, -, -, hboundary⟩ := hview
    exact hboundary
  exact ⟨hbase, fun h => hboundary ▸ h, (State.unitsKept_of_ports hports).ports, fun hr => hr.congr hview⟩

theorem State.passes_modPort {s : State} {p : Port} {g : PortUnit → PortUnit} (hg : (s.port p).keeps (g (s.port p))) :
    s.passes (s.modPort p g) := State.passes_of_units rfl (State.modPort_unitsKept hg) rfl

theorem State.count_passes (s : State) (p : Port) (g : PortCounters → PortCounters) : s.passes (s.count p g) :=
  State.passes_modPort (PortUnit.keeps_counters _ _)

theorem State.settleFrame_passes (s : State) (p : Port) : s.passes (s.settleFrame p) := State.passes_modPort (PortUnit.settled_keeps _)

theorem State.modProving_passes (s : State) (l : Lane) (g : ProvingRecord → ProvingRecord) : s.passes (s.modProving l g) :=
  State.passes_of_probe rfl rfl rfl

theorem State.base_traffic {s t : State} (h : s.onlyTrafficMoves t) : t.base = s.base := by
  unfold State.onlyTrafficMoves at h
  rw [h]
  rfl

theorem State.requestAdmission_passes (s : State) (frame : List Byte) (cls : DataClass) (copies : List Copy) (blame : List Port) :
    s.passes (s.requestAdmission frame cls copies blame).1 := by
  have htraffic := s.requestAdmission_traffic frame cls copies blame
  exact State.passes_of_units (State.base_traffic htraffic) (s.requestAdmission_unitsKept frame cls copies blame)
    (State.onlyTrafficMoves_probe htraffic)

theorem State.discard_passes (s : State) (p : Port) (g : PortCounters → PortCounters) : s.passes (s.discard p g) :=
  State.passes_trans (s.settleFrame_passes p) (State.count_passes _ p g)

theorem State.sendTransit_passes (s : State) (l : Lane) (frame : List Byte) : s.passes (s.sendTransit l frame) :=
  s.requestAdmission_passes _ _ _ _

theorem State.sendProving_passes (s : State) (l : Lane) : s.passes (s.sendProving l) := by
  unfold State.sendProving
  exact State.passes_trans (s.requestAdmission_passes _ _ _ _) (State.modProving_passes _ l _)

/-! ## Changes of port state (R115 to R121) -/

/-- What the probe unit makes of a lane's change: the state `t` has the lane changed and the unit as it was. -/
theorem RingLaw.laneMoved {s t : State} {l : Lane} {new : PortState} (hs : RingLaw s) (hprobe : t.probe = s.probe)
    (hsettings : t.settings = s.settings) (hlane : (t.port (.lane l)).state = new) :
    RingLaw (t.laneMoved (s.port (.lane l)).state new) := by
  obtain ⟨hring, hstopped, hdown, hzero⟩ := hs
  cases hb : s.probe.boundary with
  | none =>
    rw [State.laneMoved_stopped _ _ _ (by rw [hprobe]; exact hb)]
    have hnot {P : Prop} (h : t.probe.boundary.isSome = true) : P := by
      rw [hprobe, hb] at h
      exact absurd h Bool.false_ne_true
    exact ⟨hnot, fun _ => by rw [hprobe]; exact hstopped hb, hnot, fun hn => by rw [hprobe]; exact hzero (hsettings ▸ hn)⟩
  | some due =>
    have hsome : s.probe.boundary.isSome = true := by rw [hb]; rfl
    have hnone : t.probe.boundary.isNone = false := by rw [hprobe, hb]; rfl
    have hrunning {P : Prop} (h : t.probe.boundary = none) : P := by
      rw [hprobe, hb] at h
      exact absurd h (Option.some_ne_none due)
    have hzero' (hn : t.settings.node = 0) := hzero (hsettings ▸ hn)
    have hnotUp (ho : (s.port (.lane l)).state ≠ .up) (hn : t.settings.node ≠ 0) := hdown hsome (hsettings ▸ hn) (State.lanesUp_false ho)
    by_cases hu : (s.port (.lane l)).state = .up ∨ new = .up
    · unfold State.laneMoved
      rw [hnone, if_neg Bool.false_ne_true, if_pos hu]
      refine CountsLaw.judgeRing ?_
      by_cases hd : (s.port (.lane l)).state = .up ∧ t.settings.node ≠ 0
      · rw [if_pos hd]
        exact ⟨fun h => hrunning h, fun _ _ _ => ⟨rfl, rfl⟩, fun hn => absurd hn hd.2⟩
      · rw [if_neg hd]
        refine ⟨fun h => hrunning h, fun _ hn _ => ?_, fun hn => by rw [hprobe]; exact hzero' hn⟩
        rw [hprobe]
        exact hnotUp (fun ho => hd ⟨ho, hn⟩) hn
    · obtain ⟨ho, hnew⟩ := not_or.mp hu
      rw [State.laneMoved_away _ _ _ ho hnew]
      refine RingLaw.congr ⟨hring, hstopped, hdown, hzero⟩ ?_
      have htlanes : t.lanesUp = false := State.lanesUp_false (l := l) (by rw [hlane]; exact hnew)
      simp only [State.ringView, hprobe, hsettings, htlanes, State.lanesUp_false ho]

/-- The port with its new state, before the probe unit judges it (R115, R118). -/
def State.stateEntered (s : State) (p : Port) (new : PortState) : State :=
  ((s.flushIfInService p).modPort p (fun u => { u with state := new, underWay := u.underWay && new.inService })).raise .port

theorem State.judgeRing_started {s : State} (h : s.probe.boundary.isSome = true) : s.judgeRing.probe.boundary.isSome = true := by
  rw [State.judgeRing_eq]
  exact h

theorem State.laneMoved_started (s : State) (old new : PortState) (h : s.probe.boundary.isSome = true) :
    (s.laneMoved old new).probe.boundary.isSome = true := by
  have hdistrust : (if old = .up ∧ s.settings.node ≠ 0 then s.modProbe ProbeUnit.distrust else s).probe.boundary.isSome = true := by
    split <;> exact h
  unfold State.laneMoved
  dsimp only
  split
  · exact h
  split
  · exact State.judgeRing_started hdistrust
  · exact hdistrust

/-- A port's change of state keeps the laws; PROVING is entered by a lane alone (R114). -/
theorem State.enterState_passes (s : State) (p : Port) (new : PortState) (hprove : ∀ q, p = .bay q → new ≠ .proving) :
    s.passes (s.enterState p new) := by
  have hentered : (s.stateEntered p new).probe = s.probe ∧ (s.stateEntered p new).settings = s.settings := by
    unfold State.stateEntered
    rw [State.flushIfInService_eq]
    exact ⟨rfl, rfl⟩
  have hbase : (s.enterState p new).base = s.base := by
    have hmoves := s.enterState_moves p new
    unfold State.onlyPortsMove at hmoves
    rw [hmoves]
    rfl
  obtain ⟨hprobe, hsettings⟩ := hentered
  refine ⟨hbase, ?_, ?_, ?_⟩
  · intro hstarted
    cases p with
    | lane l => exact State.laneMoved_started (s.stateEntered (.lane l) new) _ _ (hprobe ▸ hstarted)
    | bay q => rw [(s.enterState_bay q new).1]; exact hstarted
  · rintro ⟨hlawful, hbay⟩
    refine ⟨fun q => ?_, fun q => ?_⟩
    · by_cases hq : q = p
      · rw [hq, State.enterState_port_same]
        exact PortUnit.after_lawful (hlawful p) new
      · rw [State.enterState_port_other _ _ hq]
        exact hlawful q
    · by_cases hq : .bay q = p
      · rw [hq, State.enterState_port_same]
        exact hprove q hq.symm
      · rw [State.enterState_port_other _ _ hq]
        exact hbay q
  · intro hring
    cases p with
    | lane l =>
      have hstate : ((s.stateEntered (.lane l) new).port (.lane l)).state = new := by
        rw [State.stateEntered, State.port_raise, State.port_modPort_same]
      exact hring.laneMoved hprobe hsettings hstate
    | bay q =>
      have hother (l : Lane) : ((s.enterState (.bay q) new).port (.lane l)) = s.port (.lane l) :=
        s.enterState_port_other new Port.noConfusion
      refine hring.congr ?_
      have hv : (s.enterState (.bay q) new).settings = s.settings := State.onlyPortsMove_settings (s.enterState_moves (.bay q) new)
      simp only [State.ringView, (s.enterState_bay q new).1, hv, State.lanesUp, State.isUp, hother]

theorem State.movePort_passes (s : State) (p : Port) (new : PortState) (hprove : ∀ q, p = .bay q → new ≠ .proving) :
    s.passes (s.movePort p new) := by
  unfold State.movePort
  split
  · exact s.passes_refl
  · exact s.enterState_passes p new hprove

theorem PortUnit.onState_ne_proving (u : PortUnit) : u.onState ≠ .proving := by
  unfold PortUnit.onState
  split <;> exact PortState.noConfusion

/-- A flap history of at most 15 entries is written to a port. -/
theorem PortUnit.keeps_flaps (u : PortUnit) {flaps : List Time} (h : flaps.length ≤ 15) : u.keeps { u with flaps := flaps } := by
  refine ⟨rfl, fun hl => ?_⟩
  obtain ⟨hservice, -, hclaim⟩ := u.lawful_iff.mp hl
  exact (PortUnit.lawful_iff _).mpr ⟨hservice, h, hclaim⟩

theorem recentFlaps_length (now : Time) (flaps : List Time) : (recentFlaps now flaps).length ≤ flaps.length := List.length_filter_le _ _

theorem appendFlap_length {flaps : List Time} (h : flaps.length ≤ 15) (now : Time) : (appendFlap flaps now).length ≤ 15 := by
  unfold appendFlap
  split <;> simp only [List.length_append, List.length_drop, List.length_singleton] <;> omega

theorem State.withSignal_passes (s : State) (p : Port) (signal : Bool) : s.passes (s.modPort p (fun u => { u with signal := signal })) :=
  State.passes_modPort ⟨rfl, id⟩

theorem flapState_ne_proving (limit kept : Nat) : flapState limit kept ≠ .proving := by
  unfold flapState
  split <;> exact PortState.noConfusion

theorem State.withFlaps_passes (s : State) (p : Port) {flaps : List Time} (h : flaps.length ≤ 15) :
    s.passes (s.modPort p (fun u => { u with flaps := flaps })) := State.passes_modPort (PortUnit.keeps_flaps _ h)

/-- A flap's history holds at most 15 entries on a lawful port (R120). -/
theorem State.flap_passes (s : State) (p : Port) : s.passes (s.flap p) := by
  have hmove := s.movePort_passes p
    (flapState s.settings.flapLimit.toNat (recentFlaps s.bayClock (s.port p).flaps).length) (fun _ _ => flapState_ne_proving _ _)
  have hunmoved : (s.flap p).base = s.base ∧ (s.flap p).probe = (s.movePort p
      (flapState s.settings.flapLimit.toNat (recentFlaps s.bayClock (s.port p).flaps).length)).probe := ⟨hmove.base, rfl⟩
  refine ⟨hunmoved.1, hmove.started, fun hp => ?_, fun hr => ?_⟩
  · have hkept : (recentFlaps s.bayClock (s.port p).flaps).length ≤ 15 :=
      (recentFlaps_length _ _).trans ((PortUnit.lawful_iff _).mp (hp.1 p)).2.1
    exact (State.withFlaps_passes _ p (appendFlap_length hkept s.bayClock)).ports (hmove.ports hp)
  · refine (hmove.ring hr).congr ?_
    have hstates (l : Lane) : ((s.flap p).port (.lane l)).state = ((s.movePort p
        (flapState s.settings.flapLimit.toNat (recentFlaps s.bayClock (s.port p).flaps).length)).port (.lane l)).state := by
      unfold State.flap
      rw [State.port_modPort]
      split
      · rename_i hq; rw [hq]
      · rfl
    simp only [State.ringView, hunmoved.2, State.lanesUp, State.isUp, hstates]
    rfl

theorem State.linkPresent_passes (s : State) (p : Port) : s.passes (s.linkPresent p) := by
  have hsignal := s.withSignal_passes p true
  unfold State.linkPresent
  dsimp only
  split
  · exact State.passes_trans hsignal (State.movePort_passes _ _ _ (fun _ _ => PortState.noConfusion))
  · exact hsignal

theorem State.linkLost_passes (s : State) (p : Port) : s.passes (s.linkLost p) := by
  have hsignal := s.withSignal_passes p false
  unfold State.linkLost
  dsimp only
  split
  · exact State.passes_trans hsignal (State.flap_passes _ _)
  · exact State.passes_trans hsignal (State.movePort_passes _ _ _ (fun _ _ => PortState.noConfusion))
  all_goals exact hsignal

/-! ## Port commands (R116) -/

theorem State.commandOn_passes (s : State) (p : Port) : s.passes (s.commandOn p).1 := by
  unfold State.commandOn
  split
  · exact s.movePort_passes _ _ (fun _ _ => PortUnit.onState_ne_proving _)
  all_goals exact s.passes_refl

theorem State.commandOff_passes (s : State) (p : Port) : s.passes (s.commandOff p).1 := by
  unfold State.commandOff
  split
  · exact s.passes_refl
  all_goals
    exact State.passes_trans (s.movePort_passes _ _ (fun _ _ => PortState.noConfusion)) (State.withFlaps_passes _ p (Nat.zero_le _))

theorem State.commandReinstate_passes (s : State) (p : Port) : s.passes (s.commandReinstate p).1 := by
  unfold State.commandReinstate
  split
  case h_5 =>
    exact State.passes_trans (s.movePort_passes _ _ (fun _ _ => PortUnit.onState_ne_proving _)) (State.withFlaps_passes _ p (Nat.zero_le _))
  all_goals exact s.passes_refl

theorem State.commandProve_passes (s : State) (p : Port) : s.passes (s.commandProve p).1 := by
  unfold State.commandProve
  split
  · exact s.passes_refl
  · rename_i l
    split
    · exact State.passes_trans (s.movePort_passes (.lane l) .proving (fun _ => Port.noConfusion))
        (State.passes_trans (State.modProving_passes _ l _) (State.sendProving_passes _ l))
    · exact s.passes_refl

theorem State.commandEndProve_passes (s : State) (p : Port) : s.passes (s.commandEndProve p).1 := by
  unfold State.commandEndProve
  split
  · exact s.passes_refl
  · split
    · exact s.movePort_passes _ _ (fun _ _ => PortState.noConfusion)
    · exact s.passes_refl

theorem State.portCommand_passes (s : State) (n : Byte) {action : State → Port → State × Result} (h : ∀ p, s.passes (action s p).1) :
    s.passes (s.portCommand n action).1 := by
  unfold State.portCommand
  split
  · exact h _
  · exact s.passes_refl

end Sys2Proof.Machine
end

section
namespace Sys2Proof.Machine

/-! ## The probe unit hears, answers and probes (R133, R136, R138 to R141) -/

theorem State.hearProbe_passes (s : State) (l : Lane) (arrival : Time) (frame : List Byte) : s.passes (s.hearProbe l arrival frame) := by
  rw [State.hearProbe_eq]
  exact State.passes_of_probe rfl rfl rfl

theorem State.clash_passes (s : State) : s.passes s.clash := State.passes_of_probe rfl rfl rfl

theorem State.judgeRing_units (s : State) : s.judgeRing.base = s.base ∧ s.judgeRing.ports = s.ports
    ∧ s.judgeRing.probe.boundary = s.probe.boundary := by
  rw [State.judgeRing_eq]
  exact ⟨rfl, rfl, rfl⟩

/-- The ring state set anew after a change of the probe unit alone. -/
theorem State.judged_passes {s t : State} (hbase : t.base = s.base) (hports : t.ports = s.ports)
    (hstarted : s.probe.boundary.isSome = true → t.probe.boundary.isSome = true) (hcounts : RingLaw s → CountsLaw t) :
    s.passes t.judgeRing := by
  obtain ⟨hbase', hports', hboundary'⟩ := t.judgeRing_units
  exact ⟨hbase'.trans hbase, fun h => hboundary' ▸ hstarted h, (State.unitsKept_of_ports (hports'.trans hports)).ports,
    fun hr => (hcounts hr).judgeRing⟩

/-- A return in the serial list has a running unit on a node with a number behind it, for its list is not empty (R136). -/
theorem State.probeReturn_passes (s : State) (l : Lane) (frame : List Byte) : s.passes (s.probeReturn l frame) := by
  unfold State.probeReturn
  by_cases hserial : s.probe.serials.contains (wordAt frame 22) = true
  · have hlisted : s.probe.serials ≠ [] := fun hempty => by
      rw [hempty] at hserial
      exact Bool.false_ne_true hserial
    rw [if_pos hserial]
    by_cases hlanes : s.lanesUp = true
    · rw [if_pos hlanes]
      have hboundary : (s.probe.answer l).boundary = s.probe.boundary := by cases l <;> rfl
      refine State.judged_passes rfl rfl (fun h => (congrArg Option.isSome hboundary).trans h) (fun hr => ⟨fun hnone => ?_, ?_, ?_⟩)
      · obtain ⟨-, -, -, -, -, hempty⟩ := hr.counts.1 (hboundary ▸ hnone)
        exact absurd hempty hlisted
      · exact fun _ _ hdown => absurd (hlanes.symm.trans hdown) (by decide)
      · intro hnode
        obtain ⟨-, -, -, -, hempty⟩ := hr.counts.2.2 hnode
        exact absurd hempty hlisted
    · rw [if_neg hlanes]
      exact s.passes_refl
  · rw [if_neg hserial]
    exact s.clash_passes

/-- A boundary of a transit-only node ages the roster alone (R138, R141). -/
theorem State.probeBoundary_transitOnly_passes {s : State} (hn : s.settings.node = 0) (hstarted : s.probe.boundary.isSome = true)
    (due : Time) : s.passes (s.probeBoundary due) := by
  rw [State.probeBoundary_transitOnly hn, State.ageRoster_touches]
  refine State.passes_of_probe rfl rfl ?_
  simp only [State.ringView, hstarted, State.modProbe, Option.isSome_some]
  rfl

theorem State.sendProbe_unitsKept (s : State) (now : Time) : s.unitsKept (s.sendProbe now) := by
  have hserial : s.unitsKept (s.withSerial now) := State.unitsKept_of_ports rfl
  rw [State.sendProbe_eq]
  exact State.unitsKept_trans hserial (State.requestAdmission_unitsKept _ _ _ _ _)

/-- A boundary of a node with a number judges the period, by which both counts are 15 while a lane is not UP, and sends a probe (R133,
R135). -/
theorem State.probeBoundary_numbered_passes {s : State} (hn : s.settings.node ≠ 0) (hstarted : s.probe.boundary.isSome = true)
    (due : Time) : s.passes (s.probeBoundary due) := by
  have htouches := State.probeBoundary_touches hn due
  have hunit := State.probeBoundary_unit hn due
  obtain ⟨hring, -⟩ := s.beforeProbe_ring hstarted
  have hbase : (s.probeBoundary due).base = s.base := by
    rw [htouches]
    rfl
  have hunits : s.unitsKept (s.probeBoundary due) := by
    rw [State.probeBoundary_sends hn]
    have hjudged : s.unitsKept (s.judgedTo s.beforeProbe.probe.ring s.beforeProbe.probe.roster s.beforeProbe.flags) :=
      State.unitsKept_of_ports rfl
    exact State.unitsKept_trans (State.unitsKept_trans hjudged (State.sendProbe_unitsKept _ _)) (State.unitsKept_of_ports rfl)
  have hnode : (s.probeBoundary due).settings.node = s.settings.node :=
    congrArg (fun b : List (Nat × Record) × Settings × Bool × Loader => b.2.1.node) hbase
  refine ⟨hbase, fun _ => by rw [hunit]; rfl, hunits.ports, fun _ => ⟨fun _ => ?_, fun hnone => ?_, fun _ _ hdown => ?_, fun h0 => ?_⟩⟩
  · rw [State.probeBoundary_ringNow hn, ← hring, hunit]
  · rw [hunit] at hnone
    exact absurd hnone (Option.some_ne_none _)
  · rw [hunits.lanesUp] at hdown
    rw [hunit]
    simp only [ProbeUnit.judged, judgedMiss, hdown, Bool.false_eq_true, if_false, and_self]
  · exact absurd (hnode.symm.trans h0) hn

theorem State.probeBoundary_passes {s : State} (hstarted : s.probe.boundary.isSome = true) (due : Time) :
    s.passes (s.probeBoundary due) := by
  by_cases hn : s.settings.node = 0
  · exact State.probeBoundary_transitOnly_passes hn hstarted due
  · exact State.probeBoundary_numbered_passes hn hstarted due

/-! ## The intakes and the end of a transmission (R9 to R17, R62 to R71, R152) -/

theorem State.reflect_passes (s : State) (l : Lane) (frame : List Byte) : s.passes (s.reflect l frame) := by
  unfold State.reflect
  split
  · exact s.requestAdmission_passes _ _ _ _
  · exact s.passes_refl

theorem State.provingArrival_passes (s : State) (l : Lane) (f : RxFrame) : s.passes (s.provingArrival l f) := by
  unfold State.provingArrival
  dsimp only
  split
  · exact s.passes_refl
  split
  · split
    · exact s.modProving_passes l _
    · exact s.passes_refl
  split
  · exact s.passes_refl
  · exact s.reflect_passes l _

theorem State.removeFrame_passes (s : State) (l : Lane) (f : RxFrame) : s.passes (s.removeFrame l f) := by
  unfold State.removeFrame
  dsimp only
  split
  · exact s.probeReturn_passes l _
  · exact s.count_passes _ _

/-- A claim is made for a frame that stands in the store (R31, R146). -/
theorem State.claimTable_passes {s : State} {p : Port} (hstore : (s.port p).store ≠ []) (c : IntakeClaim) :
    s.passes (s.claimTable p c) := by
  refine State.passes_modPort ⟨rfl, fun hl => ?_⟩
  obtain ⟨hservice, hflaps, -⟩ := (PortUnit.lawful_iff _).mp hl
  exact (PortUnit.lawful_iff _).mpr ⟨hservice, hflaps, .inr hstore⟩

theorem State.laneStep6_passes {s : State} {l : Lane} (hstore : (s.port (.lane l)).store ≠ []) (f : RxFrame) :
    s.passes (s.laneStep6 l f) := by
  unfold State.laneStep6
  dsimp only
  generalize hstep : (if (tagOf f.bytes).hops = 0 then s.count (.lane l) PortCounters.expired else s) = t
  have ht : s.passes t ∧ (t.port (.lane l)).store ≠ [] := by
    rw [← hstep]
    split
    · refine ⟨s.count_passes _ _, ?_⟩
      rw [State.count, State.port_modPort_same]
      exact hstore
    · exact ⟨s.passes_refl, hstore⟩
  obtain ⟨hpasses, hstands⟩ := ht
  refine State.passes_trans hpasses ?_
  split
  · exact State.passes_trans (t.settleFrame_passes _) (State.passes_trans (State.hearProbe_passes _ _ _ _) (State.sendTransit_passes _ _ _))
  split
  · exact State.passes_trans (t.settleFrame_passes _) (State.sendTransit_passes _ _ _)
  · exact State.claimTable_passes hstands _

theorem State.laneSteps_passes {s : State} {l : Lane} (hstore : (s.port (.lane l)).store ≠ []) (f : RxFrame) :
    s.passes (s.laneSteps l f) := by
  unfold State.laneSteps
  dsimp only
  iterate 3 (split; · exact s.discard_passes _ _)
  split
  · exact State.passes_trans (s.settleFrame_passes _) (State.provingArrival_passes _ l f)
  split
  · exact s.settleFrame_passes _
  split
  · exact State.passes_trans (s.settleFrame_passes _) (State.removeFrame_passes _ l f)
  · exact State.laneStep6_passes hstore f

theorem State.unpairedSteps_passes {s : State} {p : BayPort} (hstore : (s.port (.bay p)).store ≠ []) (f : RxFrame) :
    s.passes (s.unpairedSteps p f) := by
  unfold State.unpairedSteps
  iterate 3 (split; · exact s.discard_passes _ _)
  exact State.claimTable_passes hstore _

theorem State.pairedSteps_passes {s : State} {p : BayPort} (hstore : (s.port (.bay p)).store ≠ []) (f : RxFrame) :
    s.passes (s.pairedSteps p f) := by
  unfold State.pairedSteps
  dsimp only
  iterate 6 (split; · exact s.discard_passes _ _)
  exact State.claimTable_passes hstore _

theorem State.receive_passes {s : State} {p : Port} (hservice : s.inService p = true) (frame : List Byte) :
    s.passes (s.receive p frame) :=
  State.passes_modPort (PortUnit.keeps_inService hservice rfl rfl (fun _ => .inr (List.append_ne_nil_of_right_ne_nil _ (List.cons_ne_nil _ _))))

theorem State.receptionStarts_passes {s : State} {p : Port} (hservice : s.inService p = true) :
    s.passes (s.modPort p (fun u => { u with underWay := true })) :=
  State.passes_modPort (PortUnit.keeps_inService hservice rfl rfl id)

/-- A lawful port with a copy in transmission is in service (R118). -/
theorem PortUnit.inService_of_sending {u : PortUnit} {d : Descriptor} (hl : u.lawful = true) (hs : u.sending = some d) :
    u.state.inService = true := by
  obtain ⟨hservice, -, -⟩ := u.lawful_iff.mp hl
  refine hservice.resolve_right (fun ⟨hempty, _⟩ => ?_)
  rw [PortUnit.descriptors, hs] at hempty
  exact absurd hempty (List.append_ne_nil_of_right_ne_nil _ (List.cons_ne_nil _ _))

theorem State.endTransmission_passes {s : State} {p : Port} {d : Descriptor} (hs : (s.port p).sending = some d) :
    s.passes (s.endTransmission p d) := by
  have hsent : (s.port p).keeps ((s.port p).sent (s.wireBytes d)) :=
    ⟨rfl, fun hl => (PortUnit.keeps_inService (v := (s.port p).sent _) (PortUnit.inService_of_sending hl hs) rfl rfl id).2 hl⟩
  refine State.passes_of_units (by rw [State.endTransmission_eq]; rfl) (fun q => ?_) (by rw [State.endTransmission_eq])
  rw [State.endTransmission_port]
  split
  · rename_i hq
    rw [hq]
    exact PortUnit.keeps_trans hsent (PortUnit.choose_keeps _ _)
  · exact PortUnit.keeps_refl _

end Sys2Proof.Machine
end

section
namespace Sys2Proof.Machine

/-! ## What one command other than a start or a transfer does to the laws (R19 to R30, R111, R114, R118, R131, R137, R170) -/

/-- One command's work: at most one move of the table, no freeze bit cleared, the load untouched, a running probe unit runs on, and the
laws of the ports and of the probe unit are kept. -/
structure State.works (s t : State) : Prop where
  table : TableLaw s → TableMove s.settings.frozen s.table t.table
  frozen : ∀ h, s.settings.frozen h = true → t.settings.frozen h = true
  loading : t.resetHeld = s.resetHeld ∧ t.loader = s.loader
  started : s.probe.boundary.isSome = true → t.probe.boundary.isSome = true
  ports : PortLaw s → PortLaw t
  ring : RingLaw s → RingLaw t

theorem State.passes.works {s t : State} (h : s.passes t) : s.works t where
  table := fun _ => h.table ▸ .stays
  frozen := fun _ hf => h.settings ▸ hf
  loading := ⟨congrArg (fun b : List (Nat × Record) × Settings × Bool × Loader => b.2.2.1) h.base,
    congrArg (fun b : List (Nat × Record) × Settings × Bool × Loader => b.2.2.2) h.base⟩
  started := h.started
  ports := h.ports
  ring := h.ring

theorem State.works_refl (s : State) : s.works s := s.passes_refl.works

theorem TableLaw.congr {s t : State} (hs : TableLaw s) (h : t.table = s.table) : TableLaw t := by
  unfold TableLaw
  rw [h]
  exact hs

theorem State.passes.trans_works {s t u : State} (h : s.passes t) (k : t.works u) : s.works u where
  table := fun hs => by
    have hmove := k.table (hs.congr h.table)
    rwa [h.table, h.settings] at hmove
  frozen := fun n hf => k.frozen n (h.settings.symm ▸ hf)
  loading := ⟨k.loading.1.trans h.works.loading.1, k.loading.2.trans h.works.loading.2⟩
  started := k.started ∘ h.started
  ports := k.ports ∘ h.ports
  ring := k.ring ∘ h.ring

theorem State.works.trans_passes {s t u : State} (h : s.works t) (k : t.passes u) : s.works u where
  table := fun hs => k.table ▸ h.table hs
  frozen := fun n hf => k.settings ▸ h.frozen n hf
  loading := ⟨k.works.loading.1.trans h.loading.1, k.works.loading.2.trans h.loading.2⟩
  started := k.started ∘ h.started
  ports := k.ports ∘ h.ports
  ring := k.ring ∘ h.ring

/-- All that the base and the laws of the ports and of the probe unit read. -/
def State.lawView (s : State) : (List (Nat × Record) × Settings × Bool × Loader) × PortMap PortUnit × ProbeUnit := (s.base, s.ports, s.probe)

theorem State.passes_of_view {s t : State} (h : t.lawView = s.lawView) : s.passes t := by
  simp only [State.lawView, Prod.mk.injEq] at h
  obtain ⟨hbase, hports, hprobe⟩ := h
  exact State.passes_of_units hbase (State.unitsKept_of_ports hports) hprobe

theorem State.lawView_raiseIf (s : State) (c : Bool) (f : Flag) : (s.raiseIf c f).lawView = s.lawView := by cases c <;> rfl

/-- A record written after a passage of a frame (R38, R69). -/
theorem State.passes.works_putRecord {s u : State} (hu : s.passes u) {h : Nat} {r : Record}
    (hmove : TableLaw s → TableMove s.settings.frozen s.table (Sparse.put Record.free s.table h r)) : s.works (u.putRecord h r) where
  table := fun hs => by
    show TableMove _ _ (Sparse.put Record.free u.table h r)
    rw [hu.table]
    exact hmove hs
  frozen := hu.works.frozen
  loading := hu.works.loading
  started := hu.started
  ports := fun hp => (State.unitsKept_of_ports (s := u) rfl).ports (hu.ports hp)
  ring := fun hr => (hu.ring hr).congr rfl

/-! ## The records that arrivals, originations and visits leave (R29, R69, R82) -/

theorem RecState.occupied_of_arriving {st : RecState} (h : st.arriving = true) : st.occupied = true := by
  cases st
  case live | single => rfl
  all_goals exact absurd h Bool.false_ne_true

theorem Record.stateAnew_occupied (r : Record) : r.stateAnew.occupied = true := RecState.occupied_of_arriving r.stateAnew_arriving

theorem Record.stateAfter_occupied {r : Record} (ho : r.state.occupied = true) (legChange accepted : Bool) :
    (r.stateAfter legChange accepted).occupied = true := by
  rcases r.stateAfter_cases legChange accepted with h | h <;> rw [h]
  · exact ho
  · exact r.stateAnew_occupied

theorem Record.settle_state (r : Record) (seq : Word) (wanted got injected : Nat) : (r.settle seq wanted got injected).state = r.state := by
  rw [Record.settle_eq]

theorem Record.arrived_occupied {r : Record} (ho : r.state.occupied = true) (x : Arrival) (wanted got injected : Nat) :
    (r.arrived x wanted got injected).state.occupied = true := by
  obtain ⟨hstate, -⟩ := r.stages123_same x
  have hsettled : (if (r.stages123 x).placement.accepted then (r.stages123 x).record.settle x.seq wanted got injected
      else (r.stages123 x).record).state = r.state := by
    split
    · rw [Record.settle_state]; exact hstate
    · exact hstate
  exact Record.stateAfter_occupied (hsettled ▸ ho) _ _

/-- A record found by a lookup takes an arrival: the table's move (R38). -/
theorem TableMove.arrival {s : State} (hs : TableLaw s) {h : Nat} (ho : (s.record h).state.occupied = true)
    (h2 : (s.record h).twoLeg = true) (x : Arrival) (wanted got injected : Nat) :
    TableMove s.settings.frozen s.table (Sparse.put Record.free s.table h ((s.record h).arrived x wanted got injected)) := by
  obtain ⟨hconfig, -⟩ := (s.record h).arrival_config (s.record h) x wanted got injected
  exact .kept h _ ho (Record.arrived_occupied ho x wanted got injected) hconfig
    ((s.record h).arrival_lawful x wanted got injected (hs.record_lawful h) ho h2)

theorem State.handleArrival_works {s : State} {h : Nat} (hfound : TableLaw s → (s.record h).state.occupied = true ∧ (s.record h).twoLeg = true)
    (p : Port) (f : RxFrame) (always own : List Copy) : s.works (s.handleArrival h p f always own) := by
  rw [State.handleArrival_eq]
  refine State.works.trans_passes (State.passes.works_putRecord (s.requestAdmission_passes _ _ _ _) (fun hs => ?_))
    (State.passes_of_view (State.lawView_raiseIf _ _ _))
  obtain ⟨ho, h2⟩ := hfound hs
  exact TableMove.arrival hs ho h2 _ _ _ _

theorem State.occupied_of_findKey {s : State} (hs : TableLaw s) {origin : BitVec 6} {stream : BitVec 14} {h : Nat}
    (hf : s.findKey origin stream = some h) : (s.record h).state.occupied = true := by
  have hholds := State.record_of_find hs.1 (like := fun r => r.holds origin stream) hf
  obtain ⟨ho, -⟩ := (Record.holds_iff _ _ _).mp hholds
  exact ho

theorem Record.twoLeg_of_subscribed {r : Record} (h : r.config.kind = .subscribed) : r.twoLeg = true := by
  rw [Record.twoLeg, h]
  rfl

theorem Record.twoLeg_of_isPair {r : Record} {k : Pair} (h : r.config.isPair k = true) : r.twoLeg = true := by
  simp only [StreamConfig.isPair, Bool.and_eq_true, beq_iff_eq] at h
  obtain ⟨hkind, -⟩ := h
  rw [Record.twoLeg, hkind]
  rfl

theorem State.lookupOn_works (s : State) (p : Port) (f : RxFrame) : s.works (s.lookupOn p f) := by
  cases p with
  | lane l =>
    unfold State.lookupOn State.laneLookup
    dsimp only
    split
    · rename_i h hfind
      split
      · rename_i hkind
        exact State.handleArrival_works (fun hs => ⟨State.occupied_of_findKey hs hfind, Record.twoLeg_of_subscribed hkind⟩) _ f _ _
      · exact (s.sendTransit_passes l _).works
    · exact (s.sendTransit_passes l _).works
  | bay q =>
    unfold State.lookupOn State.pairLookup
    dsimp only
    split
    · rename_i h hfind
      split
      · rename_i hpair
        exact State.handleArrival_works (fun hs => ⟨State.occupied_of_findKey hs hfind, Record.twoLeg_of_isPair hpair⟩) _ f _ _
      · exact (s.count_passes _ _).works
    · exact (s.count_passes _ _).works

/-- A frame taken by a one-leg record: the table's move, whatever the frame's copies came to (R68, R69). -/
theorem TableMove.origination {s : State} (hs : TableLaw s) {h : Nat} (ho : (s.record h).state.occupied = true)
    (hk : (s.record h).config.kind = .originatedSingle) {counted : Record} {arrival : Time}
    (hc : counted = { (s.record h).takeFrame arrival with sendCounter := counted.sendCounter, counters := counted.counters }) :
    TableMove s.settings.frozen s.table (Sparse.put Record.free s.table h (counted.settleSingle (s.record h))) := by
  have hstate : counted.state = (s.record h).state := by
    rw [hc]
    rfl
  have hconfig : counted.config = (s.record h).config := by
    rw [hc]
    rfl
  exact .kept h _ ho (Record.stateAfter_occupied (hstate ▸ ho) _ _) hconfig
    ((s.record h).frame_lawful counted arrival (hs.record_lawful h) ho hk hc)

theorem Record.settleOrigination_eq (r : Record) (wanted got injected : Nat) :
    r.settleOrigination wanted got injected = { r with counters := (r.settleOrigination wanted got injected).counters } := by
  unfold Record.settleOrigination
  dsimp only
  split <;> split <;> rfl

theorem State.originate_works {s : State} {h : Nat}
    (hfound : TableLaw s → (s.record h).state.occupied = true ∧ (s.record h).config.kind = .originatedSingle) (p : BayPort) (f : RxFrame) :
    s.works (s.originate h p f) := by
  cases hheld : (s.record h).held with
  | true =>
    unfold State.originate
    dsimp only
    rw [if_pos hheld]
    refine State.works.trans_passes (State.passes.works_putRecord s.passes_refl (fun hs => ?_))
      (State.passes_of_view (State.lawView_raiseIf _ _ _))
    obtain ⟨ho, hk⟩ := hfound hs
    exact TableMove.origination hs ho hk (arrival := f.arrival) rfl
  | false =>
    rw [State.originate_unheld p f hheld]
    refine State.works.trans_passes (State.passes.works_putRecord (s.requestAdmission_passes _ _ _ _) (fun hs => ?_))
      (State.passes_of_view (State.lawView_raiseIf _ _ _))
    obtain ⟨ho, hk⟩ := hfound hs
    exact TableMove.origination hs ho hk (arrival := f.arrival) (by rw [Record.settleOrigination_eq])

theorem State.searchOn_works (s : State) (p : BayPort) (f : RxFrame) : s.works (s.searchOn p f) := by
  unfold State.searchOn
  split
  · rename_i h hfind
    refine State.originate_works (fun hs => ?_) p f
    have hmatches := State.record_of_find hs.1 (like := fun r => r.matches p f.bytes) hfind
    simp only [Record.matches, Bool.and_eq_true, beq_iff_eq] at hmatches
    obtain ⟨⟨⟨ho, hkind⟩, -⟩, -⟩ := hmatches
    exact ⟨ho, hkind⟩
  · exact (s.count_passes _ _).works

theorem State.looking_passes (s : State) (p : Port) : s.passes (s.looking p) :=
  State.passes_trans (s.settleFrame_passes p) (State.passes_of_view rfl)

/-! ## Visits and notices (R30, R82) -/

theorem State.visitSteps_occupied (s : State) {r : Record} (ho : r.state.occupied = true) : (s.visitSteps r).state.occupied = true := by
  obtain ⟨hstate, -⟩ := s.visitLegs_eq r
  rw [State.visitSteps_eq]
  unfold Record.judgeDeadline
  split
  · rfl
  · exact hstate ▸ ho

theorem State.visitRecord_occupied (s : State) {r : Record} (ho : r.state.occupied = true) : (s.visitRecord r).state.occupied = true := by
  rw [State.visitRecord_eq]
  show (s.visitState r).state.occupied = true
  unfold State.visitState
  dsimp only
  split
  · exact Record.stateAnew_occupied _
  · exact s.visitSteps_occupied ho

theorem State.visitRecord_config (s : State) (r : Record) : (s.visitRecord r).config = r.config := by
  obtain ⟨hconfig, -⟩ := s.visitSteps_kept r
  rw [State.visitRecord_eq]
  exact hconfig

theorem State.visit_works (s : State) (h : Nat) : s.works (s.visit h) := by
  unfold State.visit
  dsimp only
  split
  · rename_i ho
    exact State.works.trans_passes
      (State.passes.works_putRecord s.passes_refl (fun hs => .kept h _ ho (s.visitRecord_occupied ho) (s.visitRecord_config _)
        (s.visitRecord_lawful _ (hs.record_lawful h) ho)))
      (State.passes_of_view (State.lawView_raiseIf _ _ _))
  · exact s.works_refl

theorem State.passOn_passes (s : State) (h : Nat) : s.passes (s.passOn h) := by
  rw [State.passOn_eq]
  exact State.passes_of_view rfl

theorem State.freeIfDrained_works (s : State) (h : Nat) : s.works (s.freeIfDrained h) := by
  unfold State.freeIfDrained
  split
  · rename_i hd
    exact State.passes.works_putRecord s.passes_refl (fun _ => .drained h hd.1)
  · exact s.works_refl

/-! ## The timed operations (R96 to R108) -/

theorem StreamConfig.legModeFits_of_kindOk {v : Settings} {c : StreamConfig} (h : c.kindOk v = true) : c.legModeFits = true := by
  unfold StreamConfig.kindOk at h
  unfold StreamConfig.legModeFits
  split at h
  iterate 3 (· rfl)
  · exact absurd h Bool.false_ne_true

theorem presented_fits {v : Settings} {image : List Byte} {c : StreamConfig} (h : presented v image = some c) : c.legModeFits = true := by
  unfold presented at h
  split at h
  · split at h
    · rename_i hformed
      cases h
      simp only [StreamConfig.wellFormed, Bool.and_eq_true] at hformed
      obtain ⟨⟨⟨⟨-, hkind⟩, -⟩, -⟩, -⟩ := hformed
      exact StreamConfig.legModeFits_of_kindOk hkind
    · exact absurd h (Option.some_ne_none c).symm
  · exact absurd h (Option.some_ne_none c).symm

/-- A record of its state is occupied when it is neither FREE nor RETIRING. -/
theorem State.occupied_of_checks {s : State} {h : Nat} (hstands : ¬ (511 < h ∨ (s.record h).state = .free))
    (hretiring : ¬ (s.record h).state = .retiring) : (s.record h).state.occupied = true :=
  (RecState.occupied_iff _).mpr ⟨fun e => hstands (.inr e), hretiring⟩

theorem State.installOp_works (s : State) (h : Nat) (copy : List Byte) : s.works (s.installOp h copy).1 := by
  unfold State.installOp
  split
  · exact s.works_refl
  rename_i hh
  split
  · exact s.works_refl
  rename_i hthawed
  split
  · exact s.works_refl
  rename_i hfree
  split
  · exact s.works_refl
  rename_i c hc
  split
  · exact s.works_refl
  rename_i hkey
  exact State.passes.works_putRecord s.passes_refl (fun _ => .installed h c (by unfold Config.handles; omega) (Bool.eq_false_iff.mpr hthawed)
    (not_not.mp hfree) (presented_fits hc) (fun k ho => State.no_sameKey (Bool.eq_false_iff.mpr hkey) k ho))

theorem State.amendOp_works (s : State) (h : Nat) (copy : List Byte) : s.works (s.amendOp h copy).1 := by
  unfold State.amendOp
  dsimp only
  split
  · exact s.works_refl
  rename_i hstands
  split
  · exact s.works_refl
  rename_i hthawed
  split
  · exact s.works_refl
  rename_i hretiring
  split
  · exact s.works_refl
  rename_i c hc
  obtain ⟨-, hsame⟩ := Option.filter_eq_some_iff.mp hc
  exact State.passes.works_putRecord s.passes_refl
    (fun _ => .amended h c (Bool.eq_false_iff.mpr hthawed) (State.occupied_of_checks hstands hretiring) hsame)

theorem State.retireOp_works (s : State) (h : Nat) (copy : List Byte) : s.works (s.retireOp h copy).1 := by
  unfold State.retireOp
  dsimp only
  split
  · exact s.works_refl
  rename_i hstands
  split
  · exact s.works_refl
  rename_i hthawed
  split
  · exact s.works_refl
  rename_i hretiring
  exact State.passes.works_putRecord s.passes_refl
    (fun _ => .retired h _ (Bool.eq_false_iff.mpr hthawed) (State.occupied_of_checks hstands hretiring))

/-- Of an occupied record no law reads the held flag, the marks a snapshot clears, or the counters. -/
theorem Record.marks_lawful {r : Record} (ho : r.state.occupied = true) (hl : r.lawful = true) (held inAttention echoNoted : Bool)
    (counters : RecCounters) :
    ({ r with held := held, inAttention := inAttention, echoNoted := echoNoted, counters := counters } : Record).lawful = true := by
  have hne := RecState.ne_free_of_occupied ho
  simp only [Record.lawful, Record.presenceLawful, bne_iff_ne.mpr hne, ho, Bool.true_or, Bool.or_true, Bool.true_and] at hl ⊢
  exact hl

theorem State.heldOp_works (s : State) (held : Bool) (h : Nat) (copy : List Byte) : s.works (State.heldOp held s h copy).1 := by
  unfold State.heldOp
  dsimp only
  split
  · exact s.works_refl
  rename_i hstands
  split
  · exact s.works_refl
  rename_i hretiring
  have ho := State.occupied_of_checks hstands hretiring
  exact State.passes.works_putRecord s.passes_refl (fun hs => .kept h _ ho ho rfl (Record.marks_lawful ho (hs.record_lawful h) _ _ _ _))

/-- The view taken is no part of what the laws read, and a FREE or RETIRING record is not changed (R106 to R108). -/
theorem State.snapshotOp_works (s : State) (change : Record → Record)
    (hchange : ∀ r, ∃ inAttention echoNoted counters,
      change r = { r with inAttention := inAttention, echoNoted := echoNoted, counters := counters })
    (h : Nat) (copy : List Byte) : s.works (State.snapshotOp change s h copy).1 := by
  have hview : s.passes (s.takeView h) := State.passes_of_view rfl
  unfold State.snapshotOp
  dsimp only
  split
  · exact s.works_refl
  split
  · rename_i ho
    obtain ⟨inAttention, echoNoted, counters, hr⟩ := hchange (s.record h)
    rw [hr]
    exact State.passes.works_putRecord hview
      (fun hs => .kept h _ ho ho rfl (Record.marks_lawful ho (hs.record_lawful h) _ _ _ _))
  · exact hview.works

/-- What the grant of a timed operation adds to the operation is no part of what the laws read (R96). -/
theorem State.grantTimed_works (s : State) (kind : TimedKind) {op : State → Nat → List Byte → State × Result}
    (h : ∀ handle copy, s.works (op s handle copy).1) : s.works (s.grantTimed kind op) := by
  unfold State.grantTimed
  split
  · dsimp only
    split
    · exact (h _ _).trans_passes (State.passes_of_view rfl)
    · exact s.works_refl
  · exact s.works_refl

theorem State.claimTimed_passes (s : State) (kind : TimedKind) (arg : FrameArg Word) (copy : List Byte) :
    s.passes (s.claimTimed kind arg copy) := by
  unfold State.claimTimed
  split
  · cases arg with
    | whole h =>
      dsimp only
      split <;> exact State.passes_of_view rfl
    | cut => exact State.passes_of_view rfl
  · exact State.passes_of_view rfl

/-! ## The settings (R5, R6, R111, R122, R137, R142, R163) -/

/-- A setting that neither the freeze bits nor the law of the probe unit read. -/
theorem State.putSetting_works (s : State) {n : SettingId} (x : Word) (hnode : n ≠ .node) (hfreeze : n ≠ .freeze)
    (hlimit : n ≠ .probeMissLimit) : s.works (s.putSetting n x) := by
  have hset : (s.settings.set n x).node = s.settings.node ∧ (s.settings.set n x).freeze = s.settings.freeze
      ∧ (s.settings.set n x).probeMissLimit = s.settings.probeMissLimit := by
    cases n
    case node => exact absurd rfl hnode
    case freeze => exact absurd rfl hfreeze
    case probeMissLimit => exact absurd rfl hlimit
    all_goals exact ⟨rfl, rfl, rfl⟩
  obtain ⟨hsetNode, hsetFreeze, hsetLimit⟩ := hset
  refine ⟨fun _ => .stays, fun h hf => ?_, ⟨rfl, rfl⟩, id, (State.unitsKept_of_ports rfl).ports, fun hr => hr.congr ?_⟩
  · show (s.settings.set n x).freeze.getLsbD _ = true
    rw [hsetFreeze]
    exact hf
  · show ((s.settings.set n x).node, (s.settings.set n x).probeMissLimit, _) = _
    rw [hsetNode, hsetLimit]
    rfl

theorem State.writePlain_works (s : State) {n : SettingId} (x : Word) (hnode : n ≠ .node) (hfreeze : n ≠ .freeze)
    (hlimit : n ≠ .probeMissLimit) : s.works (s.writePlain n x).1 := by
  unfold State.writePlain
  split
  · exact s.putSetting_works x hnode hfreeze hlimit
  · exact s.works_refl

theorem State.writeAttached_works (s : State) (k : Pair) (x : Word) : s.works (s.writeAttached k x).1 := by
  unfold State.writeAttached
  iterate 4 (split; · exact s.works_refl)
  cases k <;> exact s.putSetting_works x SettingId.noConfusion SettingId.noConfusion SettingId.noConfusion

theorem State.writePairEnable_works (s : State) (x : Word) : s.works (s.writePairEnable x).1 := by
  unfold State.writePairEnable
  iterate 4 (split; · exact s.works_refl)
  exact s.putSetting_works x SettingId.noConfusion SettingId.noConfusion SettingId.noConfusion

/-- Bits are added to FREEZE and none is cleared (R111). -/
theorem State.writeFreeze_works (s : State) (x : Word) : s.works (s.writeFreeze x).1 := by
  unfold State.writeFreeze
  split
  · exact s.works_refl
  · refine ⟨fun _ => .stays, fun h hf => ?_, ⟨rfl, rfl⟩, id, (State.unitsKept_of_ports rfl).ports, fun hr => hr.congr rfl⟩
    show (s.settings.freeze ||| x).getLsbD _ = true
    rw [BitVec.getLsbD_or, Bool.or_eq_true]
    exact .inl hf

/-- The ring state set anew after changes that leave the table, the freeze bits, the ports and the load (R137). -/
theorem State.judged_works {s t : State} (htable : t.table = s.table) (hfreeze : t.settings.freeze = s.settings.freeze)
    (hload : t.resetHeld = s.resetHeld ∧ t.loader = s.loader) (hports : t.ports = s.ports)
    (hstarted : s.probe.boundary.isSome = true → t.probe.boundary.isSome = true) (hcounts : RingLaw s → CountsLaw t) :
    s.works t.judgeRing := by
  rw [show t.judgeRing = _ from t.judgeRing_eq]
  refine ⟨fun _ => htable.symm ▸ .stays, fun h hf => ?_, hload, hstarted, (State.unitsKept_of_ports hports).ports, fun hr => ?_⟩
  · show t.settings.freeze.getLsbD _ = true
    rw [hfreeze]
    exact hf
  · rw [← t.judgeRing_eq]
    exact (hcounts hr).judgeRing

theorem State.writeMissLimit_works (s : State) (x : Word) : s.works (s.writeMissLimit x).1 := by
  unfold State.writeMissLimit
  split
  · exact State.judged_works rfl rfl ⟨rfl, rfl⟩ rfl id (fun hr => hr.counts)
  · exact s.works_refl

/-- A unit restarted holds 15 in each count on a node with a number, and is clear on node 0 (R142). -/
theorem CountsLaw.restarted {v t : State} (hprobe : t.probe = v.unitRestarted) (hsettings : t.settings = v.settings) : CountsLaw t := by
  unfold CountsLaw
  rw [hprobe, hsettings]
  refine ⟨fun hnone => absurd hnone (Option.some_ne_none _), fun _ hn _ => ⟨if_neg hn, if_neg hn⟩,
    fun hn => ⟨if_pos hn, if_pos hn, rfl, rfl, rfl⟩⟩

/-- A NODE write starts the probe unit's counts afresh: 15 each on a node with a number, all clear on node 0 (R142). -/
theorem State.writeNode_works (s : State) (x : Word) : s.works (s.writeNode x).1 := by
  unfold State.writeNode
  iterate 3 (split; · exact s.works_refl)
  dsimp only
  generalize hv : s.putSetting .node x = v
  have hview : v.table = s.table ∧ v.settings.freeze = s.settings.freeze ∧ (v.resetHeld = s.resetHeld ∧ v.loader = s.loader)
      ∧ v.ports = s.ports := by
    rw [← hv]
    exact ⟨rfl, rfl, ⟨rfl, rfl⟩, rfl⟩
  obtain ⟨htable, hfreeze, hload, hports⟩ := hview
  rw [State.restartProbes_judged, State.raiseIf_eq]
  exact State.judged_works htable hfreeze hload hports (fun _ => rfl) (fun _ => CountsLaw.restarted rfl rfl)

/-- Each setting's write goes by the rule that owns it (R163). -/
theorem State.writeById_works (s : State) (n : SettingId) (x : Word) : s.works (s.writeById n x).1 := by
  cases n
  case node => exact s.writeNode_works x
  case attachedNode0 => exact s.writeAttached_works .pair0 x
  case attachedNode1 => exact s.writeAttached_works .pair1 x
  case pairEnable => exact s.writePairEnable_works x
  case freeze => exact s.writeFreeze_works x
  case probeMissLimit => exact s.writeMissLimit_works x
  all_goals exact s.writePlain_works x SettingId.noConfusion SettingId.noConfusion SettingId.noConfusion

theorem State.writeSetting_works (s : State) (n : Byte) (x : Word) : s.works (s.writeSetting n x).1 := by
  unfold State.writeSetting
  split
  · exact s.writeById_works _ x
  · exact s.works_refl

/-! ## Every command but a start or a transfer -/

theorem State.post_passes (s : State) (r : Result) : s.passes (s.post r) := State.passes_of_view rfl

/-- An immediate command does what its act does: the answer sent is no part of what the laws read (R156, R159). -/
theorem State.immediate_works {α : Type} {s : State} (arg : FrameArg α) (n : Nat) (act : α → State × Result × List Byte)
    (ha : ∀ x, s.works (act x).1) : s.works (s.immediate arg n act) := by
  unfold State.immediate
  split
  · cases arg with
    | whole x => exact (ha x).trans_passes (State.passes_of_view rfl)
    | cut => exact (s.post_passes _).works
  · exact (s.post_passes _).works

theorem State.readPort_works {s : State} (n : Byte) {after : State → Port → State} (h : ∀ p, s.works (after s p)) :
    s.works (s.readPort n after).1 := by
  unfold State.readPort
  split
  · exact h _
  · exact s.works_refl

theorem State.sweepBoundary_passes (s : State) : s.passes s.sweepBoundary := by
  unfold State.sweepBoundary
  split <;> exact State.passes_of_view rfl

theorem State.tick_passes (s : State) : s.passes s.tick := by
  unfold State.tick
  split <;> exact State.passes_of_view rfl

/-- An outcome that goes on by a work of the laws. -/
def State.goesOn (s : State) (o : Host.Outcome State Fault Refusal) : Prop := ∃ t, o = .next t ∧ s.works t

theorem State.works.goesOn {s t : State} (h : s.works t) : s.goesOn (.next t) := ⟨t, rfl, h⟩

theorem State.passes.goesOn {s t : State} (h : s.passes t) : s.goesOn (.next t) := h.works.goesOn

/-- An event that has an occasion only under a condition, and no effect without it (log 2). -/
theorem State.goesOn_ite {s t : State} (c : Prop) [Decidable c] (h : c → s.works t) : s.goesOn (.next (if c then t else s)) := by
  split
  · rename_i hc; exact (h hc).goesOn
  · exact s.works_refl.goesOn

/-- An event that acts on what it finds, and has no effect where it finds nothing (log 2). -/
theorem State.goesOn_elim {α : Type} {s : State} (o : Option α) (f : α → State) (h : ∀ x, o = some x → s.works (f x)) :
    s.goesOn (.next (o.elim s f)) := by
  cases o with
  | none => exact s.works_refl.goesOn
  | some x => exact (h x rfl).goesOn

theorem List.ne_nil_of_head? {α : Type} {l : List α} {x : α} (h : l.head? = some x) : l ≠ [] := by
  rintro rfl
  exact Option.some_ne_none x h.symm

/-- A frame taken by its intake stands in the store of its port (R146). -/
theorem State.store_of_nextFrame {s : State} {p : Port} {f : RxFrame} (h : s.nextFrame p = some f) : (s.port p).store ≠ [] := by
  obtain ⟨-, -, hhead⟩ := State.nextFrame_some h
  exact List.ne_nil_of_head? hhead

theorem laneIntake_goesOn (l : Lane) (s : State) : s.goesOn (exec (.laneIntake l) s) := by
  rw [exec_laneIntake_elim]
  exact State.goesOn_elim _ _ (fun f hf => (State.laneSteps_passes (State.store_of_nextFrame hf) f).works)

theorem bayIntake_goesOn (p : BayPort) (s : State) : s.goesOn (exec (.bayIntake p) s) := by
  rw [exec_bayIntake_elim]
  refine State.goesOn_elim _ _ (fun f hf => ?_)
  split
  · exact (State.pairedSteps_passes (State.store_of_nextFrame hf) f).works
  · exact (State.unpairedSteps_passes (State.store_of_nextFrame hf) f).works

theorem lookupByKey_goesOn (p : Port) (s : State) : s.goesOn (exec (.lookupByKey p) s) := by
  rw [exec_lookupByKey_elim]
  refine State.goesOn_elim _ _ (fun f _ => ?_)
  split
  · exact (s.looking_passes p).trans_works ((s.looking p).lookupOn_works p f)
  · exact s.works_refl

theorem patternSearch_goesOn (p : BayPort) (s : State) : s.goesOn (exec (.patternSearch p) s) := by
  rw [exec_patternSearch_elim]
  refine State.goesOn_elim _ _ (fun f _ => ?_)
  split
  · exact (s.looking_passes (.bay p)).trans_works ((s.looking (.bay p)).searchOn_works p f)
  · exact s.works_refl

theorem noticeGrant_goesOn (s : State) : s.goesOn (exec .noticeGrant s) := by
  have htaken : s.passes ({ s.endInHand with notices := s.notices.drop 1 } : State) := State.passes_of_view rfl
  rw [exec_noticeGrant_elim]
  exact State.goesOn_elim _ _ (fun h _ => htaken.trans_works (State.freeIfDrained_works _ h))

theorem sweepVisit_goesOn (s : State) : s.goesOn (exec .sweepVisit s) := by
  have hended : s.passes s.endInHand := State.passes_of_view rfl
  exact State.goesOn_ite _ (fun _ => (hended.trans_works (State.visit_works _ _)).trans_passes (State.passOn_passes _ _))

theorem probeBoundary_goesOn (s : State) : s.goesOn (exec .probeBoundary s) := by
  rw [exec_probeBoundary_elim]
  refine State.goesOn_elim _ _ (fun due hdue => (State.probeBoundary_passes ?_ due).works)
  unfold State.probeDue at hdue
  split at hdue
  · rename_i hb
    rw [hb]
    rfl
  · exact absurd hdue (Option.some_ne_none due).symm

theorem provingFrame_goesOn (l : Lane) (s : State) : s.goesOn (exec (.provingFrame l) s) := by
  rw [exec_provingFrame_ite]
  exact State.goesOn_ite _ (fun _ => (State.passes_trans (s.sendProving_passes l) (State.modProving_passes _ l _)).works)

theorem transmissionEnd_goesOn (p : Port) (s : State) : s.goesOn (exec (.transmissionEnd p) s) := by
  rw [exec_transmissionEnd_elim]
  exact State.goesOn_elim _ _ (fun _ hsending => (State.endTransmission_passes hsending).works)

theorem unknownCommand_goesOn (frame : StrayFrame) (s : State) : s.goesOn (exec (.unknownCommand frame) s) := by
  have hpost (r : Result) : s.goesOn (.next (if s.ready then s.post r else s.post .notReady)) := by
    split <;> exact (s.post_passes _).goesOn
  cases frame with
  | commandByte code => exact hpost _
  | portAction port action => exact hpost _
  | noByte => exact s.works_refl.goesOn

/-- With no command waiting, a unit that is due acts, or the clock moves (log 1). -/
theorem State.idle_goesOn (s : State) : s.goesOn s.idle := by
  unfold State.idle
  split
  · exact State.goesOn_ite _ (fun _ => s.sweepBoundary_passes.works)
  split
  · exact probeBoundary_goesOn s
  split
  · exact provingFrame_goesOn .a s
  split
  · exact provingFrame_goesOn .b s
  · exact s.tick_passes.goesOn

/-- The command is one of the three starts, a transfer, or the end of RESET_N: the commands that begin, feed or end a load. -/
def loadCommand : Instr → Bool
  | .powerOn _ | .resetNLow | .resetNHigh | .fullReset | .transfer _ => true
  | _ => false

/-- Every other command goes on by a work of the laws. -/
theorem exec_goesOn (c : Instr) (hc : loadCommand c = false) (s : State) : s.goesOn (exec c s) := by
  have hact {α : Type} (arg : FrameArg α) (n : Nat) (act : α → State × Result × List Byte) (ha : ∀ x, s.works (act x).1) :
      s.goesOn (.next (s.immediate arg n act)) := (State.immediate_works arg n act ha).goesOn
  have hquiet {t : State} (ht : t.lawView = s.lawView) : s.goesOn (.next t) := (State.passes_of_view ht).goesOn
  have hread {α : Type} (arg : FrameArg α) (n : Nat) (act : α → State × Result × List Byte)
      (ha : ∀ x, (act x).1.lawView = s.lawView) : s.goesOn (.next (s.immediate arg n act)) :=
    hact arg n act (fun x => (State.passes_of_view (ha x)).works)
  have hport (port : FrameArg Byte) (action : State → Port → State × Result) (ha : ∀ p, s.passes (action s p).1) :
      s.goesOn (.next (s.immediate port 2 (fun n => silently (s.portCommand n action)))) :=
    hact _ _ _ (fun n => (s.portCommand_passes n ha).works)
  have hclaim (kind : TimedKind) (arg : FrameArg Word) (copy : List Byte) : s.goesOn (.next (s.claimTimed kind arg copy)) :=
    (s.claimTimed_passes kind arg copy).goesOn
  cases c with
  | powerOn | resetNLow | resetNHigh | fullReset | transfer => exact absurd hc.symm Bool.false_ne_true
  | controlReset => exact hread _ _ _ (fun _ => rfl)
  | linkSignalPresent p => exact (s.linkPresent_passes p).goesOn
  | linkSignalLost p => exact (s.linkLost_passes p).goesOn
  | frameReception p frame =>
    exact State.goesOn_ite _ (fun h => (State.receive_passes (Bool.and_eq_true_iff.mp h).2 frame).works)
  | frameReceptionStart p => exact State.goesOn_ite _ (fun h => (State.receptionStarts_passes h).works)
  | laneIntake l => exact laneIntake_goesOn l s
  | bayIntake p => exact bayIntake_goesOn p s
  | lookupByKey p => exact lookupByKey_goesOn p s
  | patternSearch p => exact patternSearch_goesOn p s
  | noticeGrant => exact noticeGrant_goesOn s
  | sweepPeriodBoundary => exact State.goesOn_ite _ (fun _ => s.sweepBoundary_passes.works)
  | sweepVisit => exact sweepVisit_goesOn s
  | probeBoundary => exact probeBoundary_goesOn s
  | provingFrame l => exact provingFrame_goesOn l s
  | transmissionEnd p => exact transmissionEnd_goesOn p s
  | statusRead => exact hquiet rfl
  | flagsRead => exact hquiet rfl
  | flagsClear word => exact hread _ _ _ (fun _ => rfl)
  | settingRead number => exact hread _ _ _ (fun n => congrArg State.lawView (s.readSetting_same n))
  | settingWrite arg => exact hact _ _ _ (fun x => s.writeSetting_works x.1 x.2)
  | nodeWrite value => exact hact _ _ _ s.writeNode_works
  | attachedNodeWrite k value => exact hact _ _ _ (s.writeAttached_works k)
  | pairEnableWrite value => exact hact _ _ _ s.writePairEnable_works
  | freezeWrite value => exact hact _ _ _ s.writeFreeze_works
  | probeMissLimitWrite value => exact hact _ _ _ s.writeMissLimit_works
  | attnMaskWrite value =>
    exact hact _ _ _ (fun x => s.writePlain_works x SettingId.noConfusion SettingId.noConfusion SettingId.noConfusion)
  | stageWrite arg => exact hread _ _ _ (fun _ => rfl)
  | stageRead => exact hread _ _ _ (fun _ => rfl)
  | install | amend | retire | hold | release | snapshot | snapshotClear => exact hclaim _ _ _
  | installGrant => exact (s.grantTimed_works _ s.installOp_works).goesOn
  | amendGrant => exact (s.grantTimed_works _ s.amendOp_works).goesOn
  | retireGrant => exact (s.grantTimed_works _ s.retireOp_works).goesOn
  | holdGrant => exact (s.grantTimed_works _ (s.heldOp_works true)).goesOn
  | releaseGrant => exact (s.grantTimed_works _ (s.heldOp_works false)).goesOn
  | snapshotGrant => exact (s.grantTimed_works _ (s.snapshotOp_works _ (fun _ => ⟨_, _, _, rfl⟩))).goesOn
  | snapshotClearGrant => exact (s.grantTimed_works _ (s.snapshotOp_works _ (fun _ => ⟨_, _, _, rfl⟩))).goesOn
  | viewRead arg => exact hread _ _ _ (fun _ => rfl)
  | attentionRead => exact hread _ _ _ (fun _ => rfl)
  | portRead port => exact hact _ _ _ (fun n => s.readPort_works n (fun _ => s.works_refl))
  | portReadClear port => exact hact _ _ _ (fun n => s.readPort_works n (fun p => (s.count_passes p _).works))
  | portOn port => exact hport _ _ s.commandOn_passes
  | portOff port => exact hport _ _ s.commandOff_passes
  | prove port => exact hport _ _ s.commandProve_passes
  | endProve port => exact hport _ _ s.commandEndProve_passes
  | reinstate port => exact hport _ _ s.commandReinstate_passes
  | ringRead => exact hread _ _ _ (fun _ => rfl)
  | rosterRead arg => exact hread _ _ _ (fun x => congrArg State.lawView (s.readRoster_same x.1.toNat x.2.toNat))
  | unknownCommand frame => exact unknownCommand_goesOn frame s

/-! ## Frozen segments (R30, R111) -/

/-- Settles O59: the end of RESET_N leaves the table and FREEZE, and any other of these commands moves one record at most, thawed but for
what keeps the key or drains. -/
theorem frozenRecordsAreNotChanged : Obligations.FrozenRecordsAreNotChanged := by
  intro c h s t hs hpower hlow hfull htransfer hfrozen hexec
  have hworks : (TableMove s.settings.frozen s.table t.table) ∧ t.settings.frozen h = true := by
    cases hc : loadCommand c with
    | false =>
      obtain ⟨u, hu, hworks⟩ := exec_goesOn c hc s
      rw [hu] at hexec
      cases hexec
      exact ⟨hworks.table hs, hworks.frozen h hfrozen⟩
    | true =>
      cases c with
      | powerOn signal => exact absurd rfl (hpower signal)
      | resetNLow => exact absurd rfl hlow
      | fullReset => exact absurd rfl hfull
      | transfer outcome => exact absurd rfl (htransfer outcome)
      | resetNHigh =>
        cases hexec
        split <;> exact ⟨.stays, hfrozen⟩
      | _ => exact absurd hc Bool.false_ne_true
  obtain ⟨hmove, hstill⟩ := hworks
  exact ⟨hstill, hmove.frozen hfrozen⟩

end Sys2Proof.Machine
end

section
namespace Sys2Proof.Machine

/-! ## How a try of a transfer ends (R171, R172) -/

/-- The states a try ends in: that of the try itself, of a try that failed or brought its part, and of the end of the load after it. -/
inductive State.TryEnds (s : State) : State → Prop
  | unmeant : TryEnds s s
  | retried (which : AddressByte) (few : s.loader.tried < 3) : TryEnds s (s.withFailedTry which)
  | gaveUp (which : AddressByte) : TryEnds s (s.withFailedTry which).failLoad
  | part (bytes : List Byte) (header : partSize s.loader.store = 8 → headerPasses (s.loader.store ++ bytes) = true) :
      TryEnds s (s.withPart bytes)
  | rejected (bytes : List Byte) : TryEnds s (s.withPart bytes).failLoad
  | applied (bytes : List Byte) (last : partSize s.loader.store = 2) :
      TryEnds s ((s.withPart bytes).applyImage (s.loader.store ++ bytes))

/-- What has come is judged by the part's size (R172). -/
theorem State.goodTry_ends (s : State) (bytes : List Byte) : s.TryEnds (s.goodTry bytes) := by
  show s.TryEnds ((s.withPart bytes).judgePart (partSize s.loader.store))
  by_cases h8 : partSize s.loader.store = 8
  · rw [h8, State.judgePart_header]
    split
    · rename_i hpasses; exact .part bytes (fun _ => hpasses)
    · exact .rejected bytes
  by_cases h2 : partSize s.loader.store = 2
  · rw [h2, State.judgePart, if_neg (by decide), if_pos rfl]
    split
    · exact .applied bytes h2
    · exact .rejected bytes
  · rw [State.judgePart_unjudged _ h8 h2]
    exact .part bytes (fun h => absurd h h8)

theorem State.transferOutcome_ends (s : State) (outcome : TryOutcome) : s.TryEnds (s.transferOutcome outcome) := by
  cases outcome with
  | notAcknowledged which =>
    show s.TryEnds (if 3 ≤ s.loader.tried then (s.withFailedTry which).failLoad else s.withFailedTry which)
    split
    · exact .gaveUp which
    · rename_i hfew; exact .retried which (Nat.lt_of_not_le hfew)
  | acknowledged bytes =>
    unfold State.transferOutcome
    dsimp only
    split
    · exact s.goodTry_ends bytes
    · exact .unmeant

/-! ## The stream table under the starts and the load (R19 to R30, R170, R174) -/

/-- The two laws of the stream table together. -/
def State.tabled (s : State) : Prop := TableLaw s ∧ KeyLaw s

theorem State.tabled.congr {s t : State} (h : s.tabled) (ht : t.table = s.table) : t.tabled := by
  obtain ⟨hs, hk⟩ := h
  have hmove : TableMove (fun _ => false) s.table t.table := ht ▸ .stays
  exact hmove.laws hs hk

theorem State.tabled_of_empty {s : State} (h : s.table = []) : s.tabled := by
  have hreset : State.reset.tabled := ⟨⟨rfl, fun _ he => absurd he List.not_mem_nil⟩, fun _ _ hh => absurd hh Bool.false_ne_true⟩
  exact hreset.congr h

/-- A standing record passes the checks of an INSTALL but FREEZE's, or changes no record (R174). -/
theorem State.tabled.installStanding {s : State} (hs : s.tabled) (h : Nat) (image : List Byte) : (s.installStanding h image).tabled := by
  unfold State.installStanding
  split
  · rename_i c hc
    unfold State.standingConfig at hc
    split at hc
    · exact absurd hc (Option.some_ne_none c).symm
    rename_i hh
    split at hc
    · exact absurd hc (Option.some_ne_none c).symm
    rename_i hfree
    obtain ⟨hpresented, hkey⟩ := Option.filter_eq_some_iff.mp hc
    rw [Bool.not_eq_true'] at hkey
    have hmove : TableMove (fun _ => false) s.table (s.putRecord h (.installed c)).table :=
      .installed h c (by unfold Config.handles; omega) rfl (not_not.mp hfree) (presented_fits hpresented)
        (fun k ho => State.no_sameKey hkey k ho)
    exact hmove.laws hs.1 hs.2
  · exact hs.congr rfl

theorem State.tabled.installAll {s : State} (hs : s.tabled) (store : List Byte) : (s.installAll store).tabled := by
  unfold State.installAll
  generalize List.range (recordCount store) = ks
  induction ks generalizing s with
  | nil => exact hs
  | cons k ks ih => exact ih (hs.installStanding _ _)

theorem State.tabled.failLoad {s : State} (hs : s.tabled) : s.failLoad.tabled := by
  obtain ⟨-, -, htable⟩ := s.failLoad_failed
  exact hs.congr htable

theorem State.tabled.applyImage {s : State} (hs : s.tabled) (store : List Byte) : (s.applyImage store).tabled := by
  obtain ⟨-, -, htable, -⟩ := s.applyImage_applied store
  have happlying : (s.applying store).tabled := hs.congr rfl
  exact (happlying.installAll store).congr htable

theorem State.TryEnds.tabled {s t : State} (h : s.TryEnds t) (hs : s.tabled) : t.tabled := by
  have hfailed (which : AddressByte) : (s.withFailedTry which).tabled := hs.congr rfl
  have hpart (bytes : List Byte) : (s.withPart bytes).tabled := hs.congr rfl
  cases h with
  | unmeant => exact hs
  | retried which => exact hfailed which
  | gaveUp which => exact (hfailed which).failLoad
  | part bytes => exact hpart bytes
  | rejected bytes => exact (hpart bytes).failLoad
  | applied bytes => exact (hpart bytes).applyImage _

/-- A work of the laws keeps the table's. -/
theorem State.goesOn.tabled {s t : State} {o : Host.Outcome State Fault Refusal} (h : s.goesOn o) (ho : o = .next t) (hs : s.tabled) :
    t.tabled := by
  obtain ⟨u, hu, hworks⟩ := h
  rw [hu] at ho
  cases ho
  obtain ⟨htable, hkey⟩ := hs
  exact (hworks.table htable).laws htable hkey

theorem exec_tabled (c : Instr) {s t : State} (hs : s.tabled) (hexec : exec c s = .next t) : t.tabled := by
  cases hc : loadCommand c with
  | false => exact (exec_goesOn c hc s).tabled hexec hs
  | true =>
    cases c with
    | powerOn | resetNLow | fullReset =>
      cases hexec
      exact State.tabled_of_empty rfl
    | resetNHigh =>
      cases hexec
      split <;> exact hs.congr rfl
    | transfer outcome =>
      cases hexec
      split
      · exact (s.transferOutcome_ends outcome).tabled hs
      · exact hs
    | _ => exact absurd hc Bool.false_ne_true

/-- Settles O55: every command but those of the load moves one record at most; the starts leave no record, and a load installs records
one by one. -/
theorem everyStepKeepsTheTableLaws : Obligations.EveryStepKeepsTheTableLaws := by
  intro s t htable hkey hstep
  have hs : s.tabled := ⟨htable, hkey⟩
  cases hqueue : s.pending with
  | nil =>
    rw [step_of_no_command hqueue] at hstep
    exact s.idle_goesOn.tabled hstep hs
  | cons c rest =>
    rw [step_of_command hqueue] at hstep
    have hrest : State.tabled { s with pending := rest } := hs.congr rfl
    exact exec_tabled c hrest hstep

end Sys2Proof.Machine
end

section
namespace Sys2Proof.Machine

/-! ## While the load runs (R170): no event finds an occasion that reaches the ports, the table, the sweep or the probe unit -/

/-- Every port is OFF, the table all FREE, no timed operation in flight, the sweep and the probe unit stopped (R170). -/
def State.unstarted (s : State) : Prop :=
  (∀ p, (s.port p).state = .off) ∧ s.table = [] ∧ s.inFlight = none ∧ s.sweep.position = Config.handles ∧ s.probe.boundary = none

/-- Nothing that an unstarted part is asked for differs: the port states, the table, the operation in flight, the sweep, the unit. -/
def State.staysPut (s t : State) : Prop :=
  (∀ p, (t.port p).state = (s.port p).state) ∧ t.table = s.table ∧ t.inFlight = s.inFlight ∧ t.sweep = s.sweep ∧ t.probe = s.probe

theorem State.staysPut_refl (s : State) : s.staysPut s := ⟨fun _ => rfl, rfl, rfl, rfl, rfl⟩

theorem State.staysPut_trans {s t u : State} (h : s.staysPut t) (k : t.staysPut u) : s.staysPut u := by
  obtain ⟨hports, htable, hflight, hsweep, hprobe⟩ := h
  obtain ⟨kports, ktable, kflight, ksweep, kprobe⟩ := k
  exact ⟨fun p => (kports p).trans (hports p), ktable.trans htable, kflight.trans hflight, ksweep.trans hsweep, kprobe.trans hprobe⟩

theorem State.unstarted.put {s t : State} (hs : s.unstarted) (h : s.staysPut t) : t.unstarted := by
  obtain ⟨hoff, hempty, hnone, hstopped, hsilent⟩ := hs
  obtain ⟨hports, htable, hflight, hsweep, hprobe⟩ := h
  exact ⟨fun p => (hports p).trans (hoff p), htable.trans hempty, hflight.trans hnone, (congrArg Sweep.position hsweep).trans hstopped,
    (congrArg ProbeUnit.boundary hprobe).trans hsilent⟩

theorem State.modPort_staysPut {s : State} {p : Port} {g : PortUnit → PortUnit} (hg : ∀ u, (g u).state = u.state) :
    s.staysPut (s.modPort p g) := by
  refine ⟨fun q => ?_, rfl, rfl, rfl, rfl⟩
  rw [State.port_modPort]
  split
  · rename_i hq; rw [hg, hq]
  · rfl

theorem State.count_staysPut (s : State) (p : Port) (g : PortCounters → PortCounters) : s.staysPut (s.count p g) :=
  State.modPort_staysPut (fun _ => rfl)

theorem State.unstarted.record {s : State} (hs : s.unstarted) (h : Nat) : s.record h = Record.free := by
  obtain ⟨-, hempty, -⟩ := hs
  rw [State.record, hempty]
  rfl

theorem State.unstarted.notInService {s : State} (hs : s.unstarted) (p : Port) : s.inService p = false := by
  obtain ⟨hoff, -⟩ := hs
  rw [State.inService, hoff p]
  rfl

theorem State.unstarted.nextFrame {s : State} (hs : s.unstarted) (p : Port) : s.nextFrame p = none := by
  rw [State.nextFrame, hs.notInService p]
  rfl

theorem State.unstarted.linkPresent {s : State} (hs : s.unstarted) (p : Port) : s.staysPut (s.linkPresent p) := by
  obtain ⟨hoff, -⟩ := hs
  unfold State.linkPresent
  dsimp only
  rw [if_neg (by rw [hoff p]; exact PortState.noConfusion)]
  exact State.modPort_staysPut (fun _ => rfl)

theorem State.unstarted.linkLost {s : State} (hs : s.unstarted) (p : Port) : s.staysPut (s.linkLost p) := by
  obtain ⟨hoff, -⟩ := hs
  unfold State.linkLost
  rw [hoff p]
  exact State.modPort_staysPut (fun _ => rfl)

/-- A claim made before the load finds no record: the frame leaves its store and nothing is sent, for no lane is UP (R34, R36). -/
theorem State.unstarted.lookupOn {s : State} (hs : s.unstarted) (p : Port) (f : RxFrame) : s.staysPut (s.lookupOn p f) := by
  obtain ⟨hoff, hempty, -⟩ := hs
  have hfind (origin : BitVec 6) (stream : BitVec 14) : s.findKey origin stream = none := by
    rw [State.findKey, hempty]
    rfl
  cases p with
  | lane l =>
    have hdown : s.isUp (.lane l.other) = false := by
      rw [State.isUp, hoff]
      rfl
    show s.staysPut (s.laneLookup l f)
    unfold State.laneLookup
    dsimp only
    rw [hfind]
    dsimp only
    rw [State.sendTransit_off _ _ _ (.inr hdown)]
    exact s.staysPut_refl
  | bay q =>
    show s.staysPut (s.pairLookup q f)
    unfold State.pairLookup
    dsimp only
    rw [hfind]
    exact s.count_staysPut _ _

theorem State.unstarted.searchOn {s : State} (hs : s.unstarted) (p : BayPort) (f : RxFrame) : s.staysPut (s.searchOn p f) := by
  obtain ⟨-, hempty, -⟩ := hs
  have hfind : s.findPattern p f.bytes = none := by
    rw [State.findPattern, hempty]
    rfl
  unfold State.searchOn
  rw [hfind]
  exact s.count_staysPut _ _

theorem State.looking_staysPut (s : State) (p : Port) : s.staysPut (s.looking p) := by
  have hsettled : s.staysPut (s.settleFrame p) := State.modPort_staysPut (fun _ => rfl)
  exact State.staysPut_trans hsettled ⟨fun _ => rfl, rfl, rfl, rfl, rfl⟩

theorem State.unstarted.notice {s : State} (hs : s.unstarted) (h : Nat) : s.staysPut (s.freeIfDrained h) := by
  unfold State.freeIfDrained
  rw [if_neg (fun hd => by rw [hs.record h] at hd; exact RecState.noConfusion hd.1)]
  exact s.staysPut_refl

theorem State.sweepDue_notReady {s : State} (hr : s.ready = false) : s.sweepDue = false := by rw [State.sweepDue, hr]; rfl

theorem State.unstarted.visitTurn {s : State} (hs : s.unstarted) : s.visitTurn = false := by
  obtain ⟨-, -, -, hstopped, -⟩ := hs
  exact Bool.eq_false_iff.mpr (fun hturn => absurd (hstopped ▸ State.position_of_visitTurn hturn) (Nat.lt_irrefl _))

theorem State.unstarted.probeDue {s : State} (hs : s.unstarted) : s.probeDue = none := by
  obtain ⟨-, -, -, -, hsilent⟩ := hs
  rw [State.probeDue, hsilent]

theorem State.unstarted.provingDue {s : State} (hs : s.unstarted) (l : Lane) : s.provingDue l = false := by
  obtain ⟨hoff, -⟩ := hs
  rw [State.provingDue, hoff]
  rfl

theorem State.unstarted.sending {s : State} (hs : s.unstarted) (hp : PortLaw s) (p : Port) : (s.port p).sending = none := by
  obtain ⟨hoff, -⟩ := hs
  obtain ⟨hlawful, -⟩ := hp
  cases hsending : (s.port p).sending with
  | none => rfl
  | some d =>
    have hservice := PortUnit.inService_of_sending (hlawful p) hsending
    rw [hoff p] at hservice
    exact absurd hservice Bool.false_ne_true

theorem State.unstarted.grantTimed {s : State} (hs : s.unstarted) (kind : TimedKind) (op : State → Nat → List Byte → State × Result) :
    s.grantTimed kind op = s := by
  obtain ⟨-, -, hnone, -⟩ := hs
  rw [State.grantTimed, hnone]

theorem State.post_staysPut (s : State) (r : Result) : s.staysPut (s.post r) := ⟨fun _ => rfl, rfl, rfl, rfl, rfl⟩

/-- While the load runs a command frame is refused or answered from what stands, and an event finds no occasion or moves nothing that an
unstarted part is asked for (R160, R170). -/
theorem exec_staysPut (c : Instr) (hc : loadCommand c = false) {s : State} (hr : s.ready = false) (hs : s.unstarted) (hp : PortLaw s) :
    ∃ t, exec c s = .next t ∧ s.staysPut t := by
  have hact {α : Type} (arg : FrameArg α) (n : Nat) (act : α → State × Result × List Byte) :
      ∃ t, (.next (s.immediate arg n act) : Host.Outcome State Fault Refusal) = .next t ∧ s.staysPut t :=
    ⟨s.post .notReady, congrArg _ (s.immediate_notReady arg n act hr), s.post_staysPut _⟩
  have hclaim (kind : TimedKind) (arg : FrameArg Word) (copy : List Byte) :
      ∃ t, (.next (s.claimTimed kind arg copy) : Host.Outcome State Fault Refusal) = .next t ∧ s.staysPut t :=
    ⟨s.post .notReady, congrArg _ (s.claimTimed_notReady kind arg copy hr), s.post_staysPut _⟩
  have hgrant (kind : TimedKind) (op : State → Nat → List Byte → State × Result) :
      ∃ t, (.next (s.grantTimed kind op) : Host.Outcome State Fault Refusal) = .next t ∧ s.staysPut t :=
    ⟨s, congrArg _ (hs.grantTimed kind op), s.staysPut_refl⟩
  have hnever {condition : Bool} (h : condition = false) (u : State) :
      ∃ t, (.next (if condition then u else s) : Host.Outcome State Fault Refusal) = .next t ∧ s.staysPut t := by
    rw [h]
    exact ⟨s, rfl, s.staysPut_refl⟩
  cases c with
  | powerOn | resetNLow | resetNHigh | fullReset | transfer => exact absurd hc.symm Bool.false_ne_true
  | linkSignalPresent p => exact ⟨_, rfl, hs.linkPresent p⟩
  | linkSignalLost p => exact ⟨_, rfl, hs.linkLost p⟩
  | frameReception p frame => exact hnever (by rw [hs.notInService p, Bool.and_false]) _
  | frameReceptionStart p => exact hnever (hs.notInService p) _
  | laneIntake l => exact ⟨s, by rw [exec_laneIntake_elim, hs.nextFrame]; rfl, s.staysPut_refl⟩
  | bayIntake p => exact ⟨s, by rw [exec_bayIntake_elim, hs.nextFrame]; rfl, s.staysPut_refl⟩
  | lookupByKey p =>
    have hlooking := s.looking_staysPut p
    refine ⟨_, exec_lookupByKey_elim p s, ?_⟩
    cases (s.port p).store.head? with
    | none => exact s.staysPut_refl
    | some f =>
      show s.staysPut (if s.granted p .lookup then _ else s)
      split
      · exact State.staysPut_trans hlooking ((hs.put hlooking).lookupOn p f)
      · exact s.staysPut_refl
  | patternSearch p =>
    have hlooking := s.looking_staysPut (.bay p)
    refine ⟨_, exec_patternSearch_elim p s, ?_⟩
    cases (s.port (.bay p)).store.head? with
    | none => exact s.staysPut_refl
    | some f =>
      show s.staysPut (if s.granted (.bay p) .search then _ else s)
      split
      · exact State.staysPut_trans hlooking ((hs.put hlooking).searchOn p f)
      · exact s.staysPut_refl
  | noticeGrant =>
    have htaken : s.staysPut ({ s.endInHand with notices := s.notices.drop 1 } : State) := ⟨fun _ => rfl, rfl, rfl, rfl, rfl⟩
    refine ⟨_, exec_noticeGrant_elim s, ?_⟩
    cases s.noticeTurn with
    | none => exact s.staysPut_refl
    | some h => exact State.staysPut_trans htaken ((hs.put htaken).notice h)
  | sweepPeriodBoundary => exact hnever (State.sweepDue_notReady hr) _
  | sweepVisit => exact hnever hs.visitTurn _
  | probeBoundary => exact ⟨s, by rw [exec_probeBoundary_elim, hs.probeDue]; rfl, s.staysPut_refl⟩
  | provingFrame l =>
    rw [exec_provingFrame_ite]
    exact hnever (hs.provingDue l) _
  | transmissionEnd p => exact ⟨s, by rw [exec_transmissionEnd_elim, hs.sending hp]; rfl, s.staysPut_refl⟩
  | installGrant | amendGrant | retireGrant | holdGrant | releaseGrant | snapshotGrant | snapshotClearGrant => exact hgrant _ _
  | install | amend | retire | hold | release | snapshot | snapshotClear => exact hclaim _ _ _
  | statusRead | flagsRead => exact ⟨_, rfl, fun _ => rfl, rfl, rfl, rfl, rfl⟩
  | unknownCommand frame =>
    have hpost (r : Result) : s.staysPut (if s.ready then s.post r else s.post .notReady) := by
      split <;> exact s.post_staysPut _
    cases frame with
    | commandByte code => exact ⟨_, rfl, hpost _⟩
    | portAction port action => exact ⟨_, rfl, hpost _⟩
    | noByte => exact ⟨s, rfl, s.staysPut_refl⟩
  | _ => exact hact _ _ _

/-- With no command waiting no unit is due while the load runs: the clock ticks, or stays at 0 (R170). -/
theorem State.idle_staysPut {s : State} (hr : s.ready = false) (hs : s.unstarted) : ∃ t, s.idle = .next t ∧ s.staysPut t := by
  have htick : s.staysPut s.tick := by
    unfold State.tick
    split <;> exact ⟨fun _ => rfl, rfl, rfl, rfl, rfl⟩
  refine ⟨s.tick, ?_, htick⟩
  rw [State.idle, State.sweepDue_notReady hr, hs.probeDue, hs.provingDue, hs.provingDue]
  rfl

/-! ## The laws of ports, probe unit, start and loader (R114 to R121, R131 to R138, R170 to R176) -/

/-- The four laws together. -/
def State.inOrder (s : State) : Prop := PortLaw s ∧ RingLaw s ∧ StartLaw s ∧ LoaderLaw s

theorem StartLaw.unstarted {s : State} (h : StartLaw s) (hr : s.ready = false) : s.unstarted := h.1 hr

theorem State.ready_of_loader {s t : State} (h : t.loader = s.loader) : t.ready = s.ready := by rw [State.ready, State.ready, h]

/-- A work of the laws that leaves an unstarted part unstarted keeps all four. -/
theorem State.works.inOrder {s t : State} (h : s.works t) (hstays : s.ready = false → s.unstarted → t.unstarted) (hs : s.inOrder) :
    t.inOrder := by
  obtain ⟨hports, hring, ⟨hunstarted, hstarted, hheld⟩, hloader⟩ := hs
  obtain ⟨hheldSame, hloaderSame⟩ := h.loading
  have hready := State.ready_of_loader hloaderSame
  refine ⟨h.ports hports, h.ring hring, ⟨fun hr => ?_, fun hr => ?_, fun hh => ?_⟩, ?_⟩
  · have hr' := hready.symm.trans hr
    exact hstays hr' (hunstarted hr')
  · exact h.started (hstarted (hready.symm.trans hr))
  · exact hready.trans (hheld (hheldSame.symm.trans hh))
  · unfold LoaderLaw
    rw [hloaderSame]
    exact hloader

/-- Of two outcomes of one command the states are the same. -/
theorem next_inj {t u : State} (h : (.next t : Host.Outcome State Fault Refusal) = .next u) : t = u := by cases h; rfl

theorem exec_inOrder (c : Instr) (hc : loadCommand c = false) {s t : State} (hs : s.inOrder) (hexec : exec c s = .next t) : t.inOrder := by
  obtain ⟨u, hu, hworks⟩ := exec_goesOn c hc s
  obtain rfl := next_inj (hu.symm.trans hexec)
  refine hworks.inOrder (fun hr hunstarted => ?_) hs
  obtain ⟨hports, -⟩ := hs
  obtain ⟨v, hv, hput⟩ := exec_staysPut c hc hr hunstarted hports
  obtain rfl := next_inj (hv.symm.trans hexec)
  exact hunstarted.put hput

theorem State.idle_inOrder {s t : State} (hs : s.inOrder) (hidle : s.idle = .next t) : t.inOrder := by
  obtain ⟨u, hu, hworks⟩ := s.idle_goesOn
  obtain rfl := next_inj (hu.symm.trans hidle)
  refine hworks.inOrder (fun hr hunstarted => ?_) hs
  obtain ⟨v, hv, hput⟩ := State.idle_staysPut hr hunstarted
  obtain rfl := next_inj (hv.symm.trans hidle)
  exact hunstarted.put hput

/-! ## The starts (R167, R170) -/

theorem portLaw_portsReset {t : State} {signal : PortMap Bool} (h : t.ports = portsReset signal) :
    PortLaw t ∧ ∀ p, (t.port p).state = .off := by
  have hport (p : Port) : t.port p = .reset (signal.get p) := by
    rw [State.port, h]
    rcases p with (_ | _) | (_ | _ | _ | _) <;> rfl
  refine ⟨⟨fun p => ?_, fun p => ?_⟩, fun p => ?_⟩ <;> rw [hport]
  · rfl
  · exact PortState.noConfusion
  · rfl

theorem RingLaw.of_reset {t : State} (h : t.probe = .reset) : RingLaw t := by
  unfold RingLaw
  rw [h]
  exact ⟨fun hb => absurd hb Bool.false_ne_true, fun _ => ⟨rfl, rfl, rfl, rfl, rfl, rfl⟩, fun hb => absurd hb Bool.false_ne_true,
    fun _ => ⟨rfl, rfl, rfl, rfl, rfl⟩⟩

/-- A loader at its beginning, whatever it has sent and whichever start it follows. -/
theorem LoaderLaw.of_beginning {t : State} (hstate : t.loader.state = .reading) (hstore : t.loader.store = [])
    (htries : t.loader.tries = 0) (hskipped : t.loader.skipped = 0) : LoaderLaw t := by
  unfold LoaderLaw
  rw [hstate, hstore, htries, hskipped]
  exact ⟨LoadState.noConfusion, fun _ => ⟨rfl, .inl rfl⟩, fun _ _ => Nat.zero_le _, Nat.zero_le _, Nat.zero_le _⟩

theorem StartLaw.of_unstarted {t : State} (hr : t.ready = false) (h : t.unstarted) : StartLaw t :=
  ⟨fun _ => h, fun hr' => absurd (hr.symm.trans hr') Bool.false_ne_true, fun _ => hr⟩

theorem State.freshStart_inOrder (s : State) (signal : PortMap Bool) (held : Bool) : (s.freshStart signal held).inOrder := by
  obtain ⟨hports, hoff⟩ := portLaw_portsReset (t := s.freshStart signal held) rfl
  exact ⟨hports, RingLaw.of_reset rfl, StartLaw.of_unstarted rfl ⟨hoff, rfl, rfl, rfl, rfl⟩, LoaderLaw.of_beginning rfl rfl rfl rfl⟩

theorem State.fullReset_inOrder (s : State) : s.fullReset.inOrder := by
  obtain ⟨hports, hoff⟩ := portLaw_portsReset (t := s.fullReset) rfl
  exact ⟨hports, RingLaw.of_reset rfl, StartLaw.of_unstarted rfl ⟨hoff, rfl, rfl, rfl, rfl⟩, LoaderLaw.of_beginning rfl rfl rfl rfl⟩

/-- While RESET_N is held the load has not ended, so the load that begins finds an unstarted part (R170). -/
theorem State.resetNHigh_inOrder {s t : State} (hs : s.inOrder) (hexec : exec .resetNHigh s = .next t) : t.inOrder := by
  obtain ⟨hports, hring, hstart, hloader⟩ := hs
  obtain rfl := next_inj hexec
  split
  · rename_i hheld
    have hunstarted := hstart.unstarted (hstart.2.2 hheld)
    refine ⟨(State.unitsKept_of_ports rfl).ports hports, hring.congr rfl, StartLaw.of_unstarted rfl ?_,
      LoaderLaw.of_beginning rfl rfl rfl rfl⟩
    exact hunstarted.put ⟨fun _ => rfl, rfl, rfl, rfl, rfl⟩
  · exact ⟨hports, hring, hstart, hloader⟩

/-! ## The load (R171 to R176) -/

theorem State.turnOnAll_passes (ps : List Port) (s : State) : s.passes (s.turnOnAll ps) := by
  induction ps generalizing s with
  | nil => exact s.passes_refl
  | cons p ps ih => exact State.passes_trans (s.commandOn_passes p) (ih _)

/-- A stopped unit has its law under any settings (R131). -/
theorem RingLaw.of_stopped {s t : State} (hs : RingLaw s) (hstopped : s.probe.boundary = none) (hprobe : t.probe = s.probe) : RingLaw t := by
  obtain ⟨-, hclear, -⟩ := hs
  obtain ⟨hring, hmissA, hmissB, hansweredA, hansweredB, hserials⟩ := hclear hstopped
  have hnever {P : Prop} (h : t.probe.boundary.isSome = true) : P := by
    rw [hprobe, hstopped] at h
    exact absurd h Bool.false_ne_true
  refine ⟨hnever, fun _ => ?_, hnever, fun _ => ?_⟩ <;> rw [hprobe]
  · exact ⟨hring, hmissA, hmissB, hansweredA, hansweredB, hserials⟩
  · exact ⟨hmissA, hmissB, hansweredA, hansweredB, hserials⟩

/-- The unit at its start trusts neither direction on a node with a number, and is clear on node 0 (R132, R138). -/
theorem RingLaw.startProbes {s : State} (hs : RingLaw s) : RingLaw s.startProbes := by
  obtain ⟨-, -, -, hzero⟩ := hs
  obtain ⟨hmiss, -⟩ := s.unitAtStart_spec
  rw [State.startProbes_judged]
  refine CountsLaw.judgeRing ⟨fun hnone => absurd hnone (Option.some_ne_none _), fun _ hn _ => hmiss hn, fun hn => ?_⟩
  show s.unitAtStart.missA = 0 ∧ s.unitAtStart.missB = 0 ∧ s.unitAtStart.answeredA = false ∧ s.unitAtStart.answeredB = false
    ∧ s.unitAtStart.serials = []
  unfold State.unitAtStart
  rw [if_pos hn]
  exact hzero hn

/-- A load that ends in a state with the laws of ports and probe unit, the pin high, leaves all four laws: the probe unit runs. -/
theorem State.endLoad_inOrder {u : State} {outcome : LoadState} (ho : outcome = .loaded ∨ outcome = .failed) (hports : PortLaw u)
    (hring : RingLaw u) (hheld : u.resetHeld = false) (htries : u.loader.tries ≤ 3) (hskipped : u.loader.skipped ≤ 64) :
    (u.endLoad outcome).inOrder := by
  obtain ⟨hready, -, hloader, -, -, hsame, -, hboundary, -⟩ := u.endLoad_started outcome ho
  obtain ⟨hmoves, -⟩ := u.endLoad_eq outcome
  have hpin : (u.endLoad outcome).resetHeld = false := by
    rw [hmoves]
    exact hheld
  refine ⟨(State.unitsKept_of_ports hsame).ports hports, ?_, ⟨fun hr => ?_, fun _ => by rw [hboundary]; rfl, fun hh => ?_⟩, ?_⟩
  · have hsweep : RingLaw (((u.modLoader (fun l => { l with state := outcome })).raise .loaded).startSweep) := hring.congr rfl
    exact hsweep.startProbes
  · exact absurd (hready.symm.trans hr) Bool.noConfusion
  · exact absurd (hpin.symm.trans hh) Bool.noConfusion
  · unfold LoaderLaw
    rw [hloader]
    rcases ho with rfl | rfl <;>
      exact ⟨LoadState.noConfusion, fun h => LoadState.noConfusion h, fun h => LoadState.noConfusion h, htries, hskipped⟩

/-- What the load asks of a reading part before a try's bytes are judged: its ports, its probe unit, the pin and the two counts. -/
structure State.judgeable (s : State) : Prop where
  ports : PortLaw s
  ring : RingLaw s
  stopped : s.probe.boundary = none
  released : s.resetHeld = false
  tries : s.loader.tries ≤ 3
  skipped : s.loader.skipped = 0

theorem State.judgeable.failLoad {s : State} (h : s.judgeable) : s.failLoad.inOrder := by
  have hpasses := State.turnOnAll_passes [.lane .a, .lane .b] s
  obtain ⟨hheld, hloader⟩ := hpasses.works.loading
  rw [State.failLoad_eq]
  refine State.endLoad_inOrder (.inr rfl) (hpasses.ports h.ports) (hpasses.ring h.ring) (hheld.trans h.released) ?_ ?_
  · rw [hloader]; exact h.tries
  · rw [hloader, h.skipped]; exact Nat.zero_le _

/-- Of the standing records at most each is skipped (R174). -/
theorem State.installAll_skipped (s : State) (store : List Byte) :
    (s.installAll store).loader.skipped ≤ s.loader.skipped + recordCount store := by
  have hone (u : State) (h : Nat) (image : List Byte) : (u.installStanding h image).loader.skipped ≤ u.loader.skipped + 1 := by
    unfold State.installStanding
    split
    · exact Nat.le_succ _
    · exact Nat.le_refl _
  have hall (ks : List Nat) (u : State) :
      (ks.foldl (fun t k => t.installStanding (standingHandle store k) (standingImage store k)) u).loader.skipped
        ≤ u.loader.skipped + ks.length := by
    induction ks generalizing u with
    | nil => exact Nat.le_refl _
    | cons k ks ih =>
      have hrest := ih (u.installStanding (standingHandle store k) (standingImage store k))
      have hfirst := hone u (standingHandle store k) (standingImage store k)
      rw [List.foldl_cons, List.length_cons]
      omega
  have h := hall (List.range (recordCount store)) s
  rwa [List.length_range] at h

theorem State.judgeable.applyImage {s : State} (h : s.judgeable) {store : List Byte} (hheader : headerPasses store = true) :
    (s.applyImage store).inOrder := by
  obtain ⟨-, -, hcount⟩ := (headerPasses_iff store).mp hheader
  have hskipped := (s.applying store).installAll_skipped store
  have hbefore : (s.applying store).loader.skipped = 0 := h.skipped
  have happlied := s.imageApplied_moves store
  have hloader := State.onlyPortsMove_loader happlied
  have hheld := State.onlyPortsMove_resetHeld happlied
  have hpasses := State.turnOnAll_passes (enabledPorts (portEnableWord store))
    (((s.applying store).installAll store).addFreeze (blockSettings store).freeze)
  have hsame : (((s.applying store).installAll store).addFreeze (blockSettings store).freeze).ports = s.ports
      ∧ (((s.applying store).installAll store).addFreeze (blockSettings store).freeze).probe = s.probe := by
    rw [State.installAll_moves]
    exact ⟨rfl, rfl⟩
  obtain ⟨hports, hprobe⟩ := hsame
  rw [State.applyImage_eq]
  refine State.endLoad_inOrder (.inl rfl) (hpasses.ports ((State.unitsKept_of_ports hports).ports h.ports))
    (hpasses.ring (h.ring.of_stopped h.stopped hprobe)) (hheld.trans h.released) ?_ ?_
  · rw [hloader]; exact h.tries
  · rw [hloader]
    show ((s.applying store).installAll store).loader.skipped ≤ 64
    rw [recordCount] at hskipped
    omega

/-- A header that has passed is read in the first eight bytes: what comes after it changes nothing of it (R172). -/
theorem headerPasses_append {store : List Byte} (hlength : 8 ≤ store.length) (bytes : List Byte) :
    headerPasses (store ++ bytes) = headerPasses store := by
  have hword {i : Nat} (hi : i < 7) : wordAt (store ++ bytes) i = wordAt store i := by
    rw [wordAt, wordAt, byteAt_append_left _ (by omega), byteAt_append_left _ (by omega)]
  rw [headerPasses, headerPasses, recordCount, recordCount, hword (by decide), hword (by decide), List.take_append_of_le_length (by omega)]

theorem partSize_eq_eight {store : List Byte} : partSize store = 8 ↔ store.length < 8 := by
  unfold partSize
  split
  · rename_i h; exact iff_of_true rfl h
  rename_i h
  split
  · exact iff_of_false (by decide) h
  · split <;> exact iff_of_false (by decide) h

/-- A store that takes a part after the header holds a header that has passed. -/
theorem LoaderLaw.header {s : State} (h : LoaderLaw s) (hl : s.loader.state = .reading) (hsize : partSize s.loader.store ≠ 8)
    (bytes : List Byte) : headerPasses (s.loader.store ++ bytes) = true := by
  obtain ⟨-, hreading, -⟩ := h
  obtain ⟨-, hstore⟩ := hreading hl
  have hlength : 8 ≤ s.loader.store.length := Nat.le_of_not_lt (fun hlt => hsize (partSize_eq_eight.mpr hlt))
  have hpassed : headerPasses s.loader.store = true := hstore.resolve_left (fun hempty => by
    rw [hempty] at hlength
    exact absurd hlength (by decide))
  rw [headerPasses_append hlength, hpassed]

/-- A transfer has at most three tries (R171). -/
theorem LoaderLaw.tried {s : State} (h : LoaderLaw s) (hl : s.loader.state = .reading) : s.loader.tried ≤ 3 := by
  obtain ⟨-, -, hretrying, -⟩ := h
  unfold Loader.tried
  split
  · rename_i hr
    exact Nat.succ_le_succ (hretrying hl hr)
  · decide

/-- A change of the loader alone, while it goes on reading. -/
theorem State.reading_inOrder {s t : State} (hs : s.inOrder) (hl : s.loader.state = .reading) (hl' : t.loader.state = .reading)
    (hsame : t = { s with loader := t.loader }) (hloader : LoaderLaw t) : t.inOrder := by
  obtain ⟨hports, hring, hstart, -⟩ := hs
  have hr : s.ready = false := by rw [State.ready, hl]
  have hr' : t.ready = false := by rw [State.ready, hl']
  have hunstarted : t.unstarted := by
    rw [hsame]
    exact (hstart.unstarted hr).put ⟨fun _ => rfl, rfl, rfl, rfl, rfl⟩
  refine ⟨?_, ?_, StartLaw.of_unstarted hr' hunstarted, hloader⟩ <;> rw [hsame]
  · exact (State.unitsKept_of_ports rfl).ports hports
  · exact hring.congr rfl

/-- Whatever a try ends in, from a part that reads (R171 to R176). -/
theorem State.TryEnds.inOrder {s t : State} (h : s.TryEnds t) (hs : s.inOrder) (hl : s.loader.state = .reading)
    (hheld : s.resetHeld = false) : t.inOrder := by
  have hall := hs
  obtain ⟨hports, hring, hstart, hloader⟩ := hall
  have htried := hloader.tried hl
  obtain ⟨hskipped, hstore⟩ := hloader.2.1 hl
  obtain ⟨-, -, -, -, hstopped⟩ := hstart.unstarted (by rw [State.ready, hl])
  have hjudgeable {u : State} (hu : u = { s with loader := u.loader }) (hut : u.loader.tries ≤ 3) (hus : u.loader.skipped = 0) :
      u.judgeable := by
    refine ⟨?_, ?_, ?_, ?_, hut, hus⟩ <;> rw [hu]
    · exact (State.unitsKept_of_ports rfl).ports hports
    · exact hring.congr rfl
    · exact hstopped
    · exact hheld
  have hpart (bytes : List Byte) : (s.withPart bytes).judgeable := hjudgeable rfl htried hskipped
  cases h with
  | unmeant => exact hs
  | retried which few =>
    refine State.reading_inOrder hs hl hl rfl ?_
    exact ⟨fun ha => LoadState.noConfusion (hl.symm.trans ha), fun _ => ⟨hskipped, hstore⟩, fun _ _ => Nat.le_of_lt_succ few, htried,
      hskipped.trans_le (Nat.zero_le _)⟩
  | gaveUp which => exact State.judgeable.failLoad (hjudgeable rfl htried hskipped)
  | part bytes header =>
    refine State.reading_inOrder hs hl hl rfl ?_
    refine ⟨fun ha => LoadState.noConfusion (hl.symm.trans ha), fun _ => ⟨hskipped, .inr ?_⟩, fun _ hr => absurd hr Bool.false_ne_true,
      htried, hskipped.trans_le (Nat.zero_le _)⟩
    by_cases h8 : partSize s.loader.store = 8
    · exact header h8
    · exact hloader.header hl h8 bytes
  | rejected bytes => exact (hpart bytes).failLoad
  | applied bytes last => exact (hpart bytes).applyImage (hloader.header hl (by rw [last]; decide) bytes)

theorem loadCommand_inOrder (c : Instr) (hc : loadCommand c = true) {s t : State} (hs : s.inOrder) (hexec : exec c s = .next t) :
    t.inOrder := by
  cases c with
  | powerOn signal => exact next_inj hexec ▸ s.freshStart_inOrder _ _
  | resetNLow => exact next_inj hexec ▸ s.freshStart_inOrder _ _
  | fullReset => exact next_inj hexec ▸ s.fullReset_inOrder
  | resetNHigh => exact State.resetNHigh_inOrder hs hexec
  | transfer outcome =>
    obtain rfl := next_inj hexec
    split
    · rename_i hreading
      simp only [State.reading, Bool.and_eq_true, beq_iff_eq, Bool.not_eq_true'] at hreading
      obtain ⟨hl, hheld⟩ := hreading
      exact (s.transferOutcome_ends outcome).inOrder hs hl hheld
    · exact hs
  | _ => exact absurd hc Bool.false_ne_true

/-- Settles O57: the commands of the load leave an unstarted part or end the load, and every other command is a work of the laws that
leaves an unstarted part unstarted. -/
theorem everyStepKeepsThePortAndRingLaws : Obligations.EveryStepKeepsThePortAndRingLaws := by
  intro s t hports hring hstart hloader hstep
  have hs : s.inOrder := ⟨hports, hring, hstart, hloader⟩
  show t.inOrder
  cases hqueue : s.pending with
  | nil =>
    rw [step_of_no_command hqueue] at hstep
    exact State.idle_inOrder hs hstep
  | cons c rest =>
    rw [step_of_command hqueue] at hstep
    have hrest : State.inOrder { s with pending := rest } := by
      have hpending : s.passes { s with pending := rest } := State.passes_of_view rfl
      exact hpending.works.inOrder (fun _ hu => hu.put ⟨fun _ => rfl, rfl, rfl, rfl, rfl⟩) hs
    cases hc : loadCommand c with
    | false => exact exec_inOrder c hc hrest hstep
    | true => exact loadCommand_inOrder c hc hrest hstep

end Sys2Proof.Machine
end

section
namespace Sys2Proof.Machine

/-! ## A port that goes to another state (R115, R118, R135, R137, R155) -/

/-- What a change of a port's state leaves, with `unit` as the port after it: the other ports, the flags, the copies, the probe unit. -/
structure State.portMoved (s t : State) (p : Port) (new : PortState) (unit : PortUnit) : Prop where
  port : t.port p = unit
  others : s.otherPortsKept t p
  flag : t.flag .port = true
  moves : s.onlyPortsMove t
  flushed : (s.port p).state.inService = true → s.copiesLeave t (s.port p).descriptors
  idle : (s.port p).state.inService = false → s.copiesStay t
  bay : ∀ q, p = .bay q → t.probe = s.probe ∧ t.flags = s.flags ||| Flag.port.mask
  away : ∀ l, p = .lane l → (s.port p).state ≠ .up → new ≠ .up → t.probe = s.probe ∧ t.flags = s.flags ||| Flag.port.mask
  ring : ∀ l, p = .lane l → (s.port p).state = .up ∨ new = .up → s.ringFollows t ((s.port p).state == .up)

theorem State.enterState_moved (s : State) (p : Port) (new : PortState) :
    s.portMoved (s.enterState p new) p new ((s.port p).after new) where
  port := s.enterState_port_same p new
  others := fun _ hq => s.enterState_port_other new hq
  flag := s.enterState_flag_port p new
  moves := s.enterState_moves p new
  flushed := s.enterState_flushed p new
  idle := s.enterState_idle p new
  bay := fun q hq => by subst hq; exact s.enterState_bay q new
  away := fun l hl ho hn => by subst hl; exact s.enterState_away l new ho hn
  ring := fun l hl hu => by subst hl; exact s.enterState_ring l new hu

theorem State.otherPortsKept_modPort (s : State) (p : Port) (g : PortUnit → PortUnit) : s.otherPortsKept (s.modPort p g) p :=
  fun _ hq => s.port_modPort_other g hq

/-- A change of the port before it moves, which keeps its state and its copies. -/
theorem State.portMoved.before {s t : State} {p : Port} {new : PortState} {unit : PortUnit} {g : PortUnit → PortUnit}
    (hstate : (g (s.port p)).state = (s.port p).state) (hcopies : (g (s.port p)).descriptors = (s.port p).descriptors)
    (h : (s.modPort p g).portMoved t p new unit) : s.portMoved t p new unit := by
  have hport : (s.modPort p g).port p = g (s.port p) := s.port_modPort_same p g
  have hflushed := h.flushed
  have hidle := h.idle
  have haway := h.away
  have hring := h.ring
  rw [hport, hstate] at hflushed hidle haway hring
  rw [hcopies] at hflushed
  exact ⟨h.port, fun q hq => (h.others q hq).trans (s.otherPortsKept_modPort p g q hq), h.flag, State.onlyPortsMove_trans (t := s.modPort p g) rfl h.moves,
    hflushed, hidle, h.bay, haway, hring⟩

/-- A change of the port after it has moved, which keeps its state. -/
theorem State.portMoved.after {s t : State} {p : Port} {new : PortState} {unit : PortUnit} {g : PortUnit → PortUnit}
    (hstate : ∀ u, (g u).state = u.state) (h : s.portMoved t p new unit) : s.portMoved (t.modPort p g) p new (g unit) where
  port := by rw [State.port_modPort_same, h.port]
  others := fun q hq => (t.otherPortsKept_modPort p g q hq).trans (h.others q hq)
  flag := h.flag
  moves := State.onlyPortsMove_trans h.moves rfl
  flushed := h.flushed
  idle := h.idle
  bay := h.bay
  away := h.away
  ring := fun l hl hu hb => by
    obtain ⟨hnow, hcounts, hflag⟩ := h.ring l hl hu hb
    exact ⟨hnow.trans (t.ringNow_modPort p g hstate).symm, hcounts, hflag⟩

theorem State.movePort_moved {s : State} {p : Port} {new : PortState} (hne : (s.port p).state ≠ new) :
    s.portMoved (s.movePort p new) p new ((s.port p).after new) := by
  rw [State.movePort_other _ _ _ hne]
  exact s.enterState_moved p new

/-- A lane's change on a part with the ring law: the ring state is that of its table, also where the unit does not judge (R135, R137). -/
theorem State.portMoved.ringFollows {s t : State} {l : Lane} {new : PortState} {unit : PortUnit}
    (h : s.portMoved t (.lane l) new unit) (hunit : unit.state = new) (hr : RingLaw s) : s.ringFollows t (s.isUp (.lane l)) := by
  by_cases hu : (s.port (.lane l)).state = .up ∨ new = .up
  · exact h.ring l rfl hu
  obtain ⟨ho, hn⟩ := not_or.mp hu
  obtain ⟨hprobe, hflags⟩ := h.away l rfl ho hn
  obtain ⟨hring, -⟩ := (ringLaw_iff s).mp hr
  intro hb
  have hdown : t.lanesUp = false := State.lanesUp_false (l := l) (by rw [h.port, hunit]; exact hn)
  have hnow : t.ringNow = s.ringNow :=
    State.ringNow_congr (State.onlyPortsMove_settings h.moves) (hdown.trans (State.lanesUp_false ho).symm)
      (by rw [hprobe]) (by rw [hprobe])
  refine ⟨by rw [hnow, hprobe, hring hb], fun hleft => absurd (eq_of_beq hleft) ho, ?_⟩
  have hraised : t.flag .ring = (s.raise .port).flag .ring := by rw [State.flag, hflags]; rfl
  rw [hraised, State.flag_raise, hprobe, decide_eq_false (by decide), bne_self_eq_false]

/-- A port that leaves no service takes its new state and keeps the reception under way where the state takes frames (R9, R62). -/
theorem PortUnit.after_idle {u : PortUnit} (h : u.state.inService = false) (new : PortState) :
    u.after new = { u with state := new, underWay := u.underWay && new.inService } := by
  rw [PortUnit.after, if_neg (Bool.eq_false_iff.mp h)]

theorem PortUnit.after_state (u : PortUnit) (new : PortState) : (u.after new).state = new := rfl

theorem PortState.inService_of_down {st : PortState} (h : st = .down) : st.inService = false := by rw [h]; rfl

/-! ## Link events (R115, R120, R129) -/

/-- The link signal mark set or cleared. -/
def PortUnit.withSignal (u : PortUnit) (signal : Bool) : PortUnit := { u with signal := signal }

theorem PortUnit.after_withSignal (u : PortUnit) (signal : Bool) (new : PortState) :
    (u.withSignal signal).after new = { u.after new with signal := signal } := by
  unfold PortUnit.after PortUnit.withSignal
  dsimp only
  split <;> rfl

theorem State.linkPresent_down {s : State} {p : Port} (hd : (s.port p).state = .down) :
    s.portMoved (s.linkPresent p) p .up (((s.port p).withSignal true).after .up) := by
  have hmoved : (s.modPort p (fun u => u.withSignal true)).portMoved ((s.modPort p (fun u => u.withSignal true)).movePort p .up) p .up
      (((s.modPort p (fun u => u.withSignal true)).port p).after .up) :=
    State.movePort_moved (by rw [State.port_modPort_same]; exact fun e => PortState.noConfusion (hd.symm.trans e))
  rw [State.port_modPort_same] at hmoved
  unfold State.linkPresent
  dsimp only
  rw [if_pos hd]
  exact hmoved.before rfl rfl

/-- A loss of the link that moves the port, of a port in any state but the new one. -/
theorem State.signalLost_moved {s : State} {p : Port} {new : PortState} (hne : (s.port p).state ≠ new) :
    s.portMoved ((s.modPort p (fun u => u.withSignal false)).movePort p new) p new (((s.port p).withSignal false).after new) := by
  have hmoved : (s.modPort p (fun u => u.withSignal false)).portMoved ((s.modPort p (fun u => u.withSignal false)).movePort p new) p new
      (((s.modPort p (fun u => u.withSignal false)).port p).after new) :=
    State.movePort_moved (by rw [State.port_modPort_same]; exact hne)
  rw [State.port_modPort_same] at hmoved
  exact hmoved.before rfl rfl

theorem State.linkLost_up {s : State} {p : Port} (hu : (s.port p).state = .up) :
    let kept := recentFlaps s.bayClock (s.port p).flaps
    let new := flapState s.settings.flapLimit.toNat kept.length
    s.portMoved (s.linkLost p) p new
      { ((s.port p).withSignal false).after new with flaps := appendFlap kept s.bayClock } := by
  intro kept new
  have hne : (s.port p).state ≠ new := by
    rw [hu]
    show PortState.up ≠ flapState _ _
    unfold flapState
    split <;> exact PortState.noConfusion
  have hlost : s.linkLost p = (((s.modPort p (fun u => u.withSignal false)).movePort p new).modPort p
      (fun u => { u with flaps := appendFlap kept s.bayClock })) := by
    unfold State.linkLost
    rw [hu]
    show State.flap _ p = _
    unfold State.flap
    rw [State.port_modPort_same]
    rfl
  rw [hlost]
  exact (State.signalLost_moved hne).after (fun _ => rfl)

theorem State.linkLost_proving {s : State} {p : Port} (hp : (s.port p).state = .proving) :
    s.portMoved (s.linkLost p) p .down (((s.port p).withSignal false).after .down) := by
  have hlost : s.linkLost p = (s.modPort p (fun u => u.withSignal false)).movePort p .down := by
    unfold State.linkLost
    rw [hp]
    rfl
  rw [hlost]
  exact State.signalLost_moved (fun e => PortState.noConfusion (hp.symm.trans e))

/-- Settles O10: each event that moves the port is a change of its state with the mark set before it, a flap with the history written
after it; every other event writes the mark alone. -/
theorem linkEventsMoveThePort : Obligations.LinkEventsMoveThePort := by
  refine ⟨fun p s => ⟨fun hd => ?_, fun hd => ?_⟩, fun p s hu => ?_, fun p s => ⟨fun hp => ?_, fun hs => ?_⟩⟩
  · exact congrArg Host.Outcome.next (if_neg hd)
  · have hmoved := State.linkPresent_down hd
    have hidle : (s.port p).state.inService = false := PortState.inService_of_down hd
    refine ⟨_, rfl, hmoved.port.trans ?_, hmoved.others, hmoved.flag, hmoved.moves, hmoved.idle hidle, ?_⟩
    · rw [PortUnit.after_idle (u := (s.port p).withSignal true) hidle]
      simp only [PortUnit.withSignal, PortState.inService, Bool.and_true]
    · cases p with
      | lane l =>
        have hring := hmoved.ring l rfl (.inr rfl)
        rwa [hd] at hring
      | bay q => exact hmoved.bay q rfl
  · intro kept limit new
    have hmoved := State.linkLost_up hu
    refine ⟨_, rfl, hmoved.port.trans ?_, hmoved.others, hmoved.flag, hmoved.moves, hmoved.flushed (by rw [hu]; rfl), ?_⟩
    · rw [PortUnit.after_withSignal]
      rfl
    · cases p with
      | lane l =>
        have hring := hmoved.ring l rfl (.inl hu)
        rwa [hu] at hring
      | bay q => exact (hmoved.bay q rfl).1
  · have hmoved := State.linkLost_proving hp
    refine ⟨_, rfl, hmoved.port.trans (PortUnit.after_withSignal _ _ _), hmoved.others, hmoved.flag, hmoved.moves, ?_,
      hmoved.flushed (by rw [hp]; rfl)⟩
    cases p with
    | lane l => exact (hmoved.away l rfl (fun e => PortState.noConfusion (hp.symm.trans e)) PortState.noConfusion).1
    | bay q => exact (hmoved.bay q rfl).1
  · show Host.Outcome.next (s.linkLost p) = _
    unfold State.linkLost
    rcases hs with h | h | h <;> rw [h] <;> rfl

/-! ## PORT COMMAND (R116) -/

/-- A PORT COMMAND on a port that a number names, as its frame's answer (R116, R156). -/
theorem State.portAct_known {s : State} {n : Byte} {p : Port} (hr : s.ready = true) (hn : portOfNumber n = some p)
    {action : State → Port → State × Result} {t : State} {r : Result} (ha : action s p = (t, r)) :
    (.next (s.immediate (.whole n) 2 (fun m => silently (s.portCommand m action))) : Host.Outcome State Fault Refusal) =
      .next (s.replied t 2 r []) := by
  rw [State.immediate_whole s n 2 _ hr, s.portCommand_known n p action hn, ha]
  rfl

theorem State.portAct_unknown {s : State} {n : Byte} (hr : s.ready = true) (hn : 5 < n.toNat) (action : State → Port → State × Result) :
    (.next (s.immediate (.whole n) 2 (fun m => silently (s.portCommand m action))) : Host.Outcome State Fault Refusal) =
      .next (s.replied s 2 .badValue []) := by
  rw [State.immediate_whole s n 2 _ hr, s.portCommand_unknown n action ((portOfNumber_none n).mpr hn)]
  rfl

theorem PortUnit.off_ne_onState (u : PortUnit) : PortState.off ≠ u.onState := by
  unfold PortUnit.onState
  split <;> exact PortState.noConfusion

theorem PortUnit.isolated_ne_onState (u : PortUnit) : PortState.isolated ≠ u.onState := by
  unfold PortUnit.onState
  split <;> exact PortState.noConfusion

/-- What ON and REINSTATE leave of a port that goes to `new` by its mark, `unit` being the port after it (R116, R121). -/
def State.broughtBack (s t : State) (p : Port) (unit : PortUnit) : Prop :=
  t.port p = unit ∧ s.otherPortsKept t p ∧ t.flag .port = true ∧ s.onlyPortsMove t ∧ s.copiesStay t
    ∧ match p with | .lane _ => RingLaw s → s.ringFollows t false | .bay _ => t.probe = s.probe

/-- The port that ON and REINSTATE move is out of service before (R137). -/
theorem State.portMoved.broughtBack {s t : State} {p : Port} {new : PortState} {unit : PortUnit} (h : s.portMoved t p new unit)
    (hunit : unit.state = new) (hservice : (s.port p).state.inService = false) : s.broughtBack t p unit := by
  have hup : (s.port p).state ≠ .up := fun e => by
    rw [e] at hservice
    exact Bool.false_ne_true hservice.symm
  refine ⟨h.port, h.others, h.flag, h.moves, h.idle hservice, ?_⟩
  cases p with
  | lane l =>
    intro hr
    have hring := h.ringFollows hunit hr
    rwa [State.isUp, beq_eq_false_iff_ne.mpr hup] at hring
  | bay q => exact (h.bay q rfl).1

theorem State.endProve_moved {s : State} {l : Lane} (hp : (s.port (.lane l)).state = .proving) :
    s.portMoved (s.movePort (.lane l) .up) (.lane l) .up ((s.port (.lane l)).after .up) :=
  State.movePort_moved (fun e => PortState.noConfusion (hp.symm.trans e))

theorem State.portOn_off {s : State} {n : Byte} {p : Port} (hr : s.ready = true) (hn : portOfNumber n = some p)
    (ho : (s.port p).state = .off) :
    ∃ t, exec (.portOn (.whole n)) s = .next (s.replied t 2 .done []) ∧ s.broughtBack t p ((s.port p).after (s.port p).onState) := by
  have hact : s.commandOn p = (s.movePort p (s.port p).onState, .done) := by
    unfold State.commandOn
    rw [ho]
    rfl
  have hmoved := State.movePort_moved (s := s) (p := p) (new := (s.port p).onState) (by rw [ho]; exact (s.port p).off_ne_onState)
  exact ⟨_, State.portAct_known hr hn hact, hmoved.broughtBack rfl (by rw [ho]; rfl)⟩

theorem State.reinstate_isolated {s : State} {n : Byte} {p : Port} (hr : s.ready = true) (hn : portOfNumber n = some p)
    (hi : (s.port p).state = .isolated) :
    ∃ t, exec (.reinstate n) s = .next (s.replied t 2 .done [])
      ∧ s.broughtBack t p { (s.port p).after (s.port p).onState with flaps := [] } := by
  have hact : s.commandReinstate p = (s.reinstatePort p, .done) := by
    unfold State.commandReinstate
    rw [hi]
  have hmoved := State.movePort_moved (s := s) (p := p) (new := (s.port p).onState) (by rw [hi]; exact (s.port p).isolated_ne_onState)
  have hemptied := hmoved.after (g := fun u => { u with flaps := [] }) (fun _ => rfl)
  exact ⟨_, State.portAct_known hr hn hact, hemptied.broughtBack rfl (by rw [hi]; rfl)⟩

/-- Settles O11: ON, REINSTATE and END PROVE are changes of a port's state, REINSTATE with its history emptied after it. -/
theorem onReinstateAndEndProveBringAPortBack : Obligations.OnReinstateAndEndProveBringAPortBack := by
  refine ⟨?_, fun n l s hr hn hp => ?_⟩
  · intro n p s hr hn new
    exact ⟨fun ho => State.portOn_off hr hn ho, fun hi => State.reinstate_isolated hr hn hi⟩
  · have hmoved := State.endProve_moved hp
    have hring := hmoved.ring l rfl (.inr rfl)
    rw [hp] at hring
    have hact : s.commandEndProve (.lane l) = (s.movePort (.lane l) .up, .done) := if_pos hp
    exact ⟨_, State.portAct_known hr hn hact, hmoved.port, hmoved.others, hmoved.flag, State.onlyPortsMove_proving hmoved.moves,
      hmoved.moves, hring, hmoved.flushed (by rw [hp]; rfl)⟩

theorem State.commandOff_on {s : State} {p : Port} (ho : (s.port p).state ≠ .off) : s.commandOff p = (s.turnOff p, .done) := by
  unfold State.commandOff
  split
  · rename_i h; exact absurd h ho
  all_goals rfl

theorem State.turnOff_moved {s : State} {p : Port} (ho : (s.port p).state ≠ .off) :
    s.portMoved (s.turnOff p) p .off { (s.port p).after .off with flaps := [] } :=
  (State.movePort_moved ho).after (fun _ => rfl)

/-- The refusals by the port's state: the state unchanged, WRONG_STATE (R116). -/
theorem State.commandOn_refused {s : State} {p : Port} (ho : (s.port p).state ≠ .off) : s.commandOn p = (s, .wrongState) := by
  unfold State.commandOn
  split
  · rename_i h; exact absurd h ho
  all_goals rfl

theorem State.commandReinstate_refused {s : State} {p : Port} (hi : (s.port p).state ≠ .isolated) :
    s.commandReinstate p = (s, .wrongState) := by
  unfold State.commandReinstate
  split
  case h_5 h => exact absurd h hi
  all_goals rfl

theorem State.commandProve_refused {s : State} {l : Lane} (h : (s.port (.lane l)).state ≠ .up ∨ s.settings.node = 0) :
    s.commandProve (.lane l) = (s, .wrongState) :=
  if_neg (fun ⟨hu, hn⟩ => h.elim (fun h => h hu) (fun h => hn h))

/-- Settles O12: OFF is a change of the port's state with its history emptied after it, and each refusal answers the state as it stands. -/
theorem offFlushesAndRefusedPortCommandsChangeNothing : Obligations.OffFlushesAndRefusedPortCommandsChangeNothing := by
  refine ⟨fun n p s hr hn ho => ?_, fun n s hr => ⟨fun h5 => ?_, fun q hn => ⟨?_, ?_⟩, fun p hn => ⟨fun ho => ?_, fun ho => ?_, fun hi => ?_,
    fun hl h => ?_, fun hl h => ?_⟩⟩⟩
  · have hmoved := State.turnOff_moved ho
    refine ⟨_, State.portAct_known hr hn (State.commandOff_on ho), hmoved.port, hmoved.others, hmoved.flag, hmoved.moves,
      fun h => hmoved.flushed ((PortState.inService_iff _).mpr h), fun h => hmoved.idle ?_, ?_⟩
    · rcases h with h | h <;> rw [h] <;> rfl
    · cases p with
      | lane l => exact fun hring => hmoved.ringFollows rfl hring
      | bay q => exact (hmoved.bay q rfl).1
  · exact ⟨State.portAct_unknown hr h5 _, State.portAct_unknown hr h5 _, State.portAct_unknown hr h5 _, State.portAct_unknown hr h5 _,
      State.portAct_unknown hr h5 _⟩
  · exact State.portAct_known (action := State.commandProve) hr hn rfl
  · exact State.portAct_known (action := State.commandEndProve) hr hn rfl
  · exact State.portAct_known hr hn (State.commandOn_refused ho)
  · have hact : s.commandOff p = (s, .wrongState) := by
      unfold State.commandOff
      rw [ho]
    exact State.portAct_known hr hn hact
  · exact State.portAct_known hr hn (State.commandReinstate_refused hi)
  · obtain ⟨l, rfl⟩ := hl
    exact State.portAct_known hr hn (State.commandProve_refused h)
  · obtain ⟨l, rfl⟩ := hl
    have hact : s.commandEndProve (.lane l) = (s, .wrongState) := if_neg h
    exact State.portAct_known hr hn hact

end Sys2Proof.Machine
end

section
namespace Sys2Proof.Machine

/-! ## The proving frame sent (R125, R126) -/

/-- The copy of a proving frame on its lane (R126). -/
def provingCopy (l : Lane) : Copy := { port := .lane l, form := .asStored, handle := none, role := .proving }

/-- The admission request of the lane's proving frame (R126, R147). -/
def State.provingRequest (s : State) (l : Lane) : State × List Fate :=
  s.requestAdmission (s.makeProving l) .trip [provingCopy l] [.lane l]

theorem State.sendProving_eq (s : State) (l : Lane) :
    s.sendProving l =
      (s.provingRequest l).1.modProving l (fun r =>
        { r with
          sequence := r.sequence + 1
          sent := if 0 < answeredEnqueued (fun _ => true) [provingCopy l] (s.provingRequest l).2 then bump r.sent else r.sent }) := rfl

theorem State.provingRequest_traffic (s : State) (l : Lane) : s.onlyTrafficMoves (s.provingRequest l).1 :=
  s.requestAdmission_traffic _ _ _ _

/-- The lane's record once a proving frame is made: only the sequence and "proving sent" move (R126). -/
theorem State.sendProving_record (s : State) (l : Lane) :
    (s.sendProving l).proving = s.proving.set l
      { s.provingOf l with
        sequence := (s.provingOf l).sequence + 1
        sent := if 0 < answeredEnqueued (fun _ => true) [provingCopy l] (s.provingRequest l).2 then bump (s.provingOf l).sent
          else (s.provingOf l).sent } := by
  rw [s.sendProving_eq, State.modProving_proving, State.onlyTrafficMoves_proving (s.provingRequest_traffic l), State.provingOf]

theorem State.sendProving_provingOf (s : State) (l : Lane) :
    (s.sendProving l).provingOf l =
      { s.provingOf l with
        sequence := (s.provingOf l).sequence + 1
        sent := if 0 < answeredEnqueued (fun _ => true) [provingCopy l] (s.provingRequest l).2 then bump (s.provingOf l).sent
          else (s.provingOf l).sent } := by
  rw [State.provingOf, s.sendProving_record, LaneMap.get_set_same]

/-- Nothing but what an admission reaches and the proving records differs. -/
def State.onlyProvingMoves (s t : State) : Prop :=
  t = { s with ports := t.ports, pool := t.pool, nextName := t.nextName, tallies := t.tallies, flags := t.flags, proving := t.proving }

theorem State.onlyProvingMoves_modProving {s t : State} (h : s.onlyProvingMoves t) (l : Lane) (g : ProvingRecord → ProvingRecord) :
    s.onlyProvingMoves (t.modProving l g) := by
  unfold State.onlyProvingMoves at h ⊢
  exact congrArg (fun u : State => { u with proving := t.proving.set l (g (t.proving.get l)) }) h

theorem State.onlyTrafficMoves_onlyProvingMoves {s t : State} (h : s.onlyTrafficMoves t) : s.onlyProvingMoves t := by
  have hproving := State.onlyTrafficMoves_proving h
  unfold State.onlyTrafficMoves at h
  unfold State.onlyProvingMoves
  rw [hproving]
  exact h

/-- Sending a proving frame reaches what an admission reaches, and the lane's record. -/
theorem State.sendProving_moves (s : State) (l : Lane) : s.onlyProvingMoves (s.sendProving l) := by
  rw [s.sendProving_eq]
  exact State.onlyProvingMoves_modProving (State.onlyTrafficMoves_onlyProvingMoves (s.provingRequest_traffic l)) l _

theorem State.sendProving_notices (s : State) (l : Lane) : (s.sendProving l).notices = s.notices := by
  have h := s.sendProving_moves l
  unfold State.onlyProvingMoves at h
  rw [h]

theorem State.sendProving_probe (s : State) (l : Lane) : (s.sendProving l).probe = s.probe := by
  have h := s.sendProving_moves l
  unfold State.onlyProvingMoves at h
  rw [h]

theorem State.sendProving_settings (s : State) (l : Lane) : (s.sendProving l).settings = s.settings := by
  have h := s.sendProving_moves l
  unfold State.onlyProvingMoves at h
  rw [h]

theorem State.sendProving_others (s : State) (l : Lane) : s.otherPortsKept (s.sendProving l) (.lane l) := by
  intro q hq
  exact s.requestAdmission_port_other _ _ _ _ q (by simpa [provingCopy] using hq) (by simpa using hq)

theorem State.makeProving_cells (s : State) (l : Lane) : cellsFor (s.makeProving l).length = 1 := by
  have hlength : (s.makeProving l).length = 64 :=
    makeFrame_length _ _ _ _ _ s.settings.probeGroup_length (by decide : (5 : Nat) ≤ 38)
  rw [hlength]
  rfl

/-- A proving frame is admitted when a cell is free (R148). -/
theorem State.makeProving_admissible (s : State) (l : Lane) :
    admissible .trip (cellsFor (s.makeProving l).length) s.freeCells = decide (0 < s.freeCells) := by
  rw [s.makeProving_cells]
  rfl

/-- A lane in PROVING with room in its TRIP queue takes its proving frame (R117, R149). -/
theorem State.provingCopy_enqueued {s : State} {l : Lane} (hp : (s.port (.lane l)).state = .proving)
    (hroom : (s.port (.lane l)).trip.length < s.settings.queueCapTrip.toNat) : s.fateOf .trip (provingCopy l) = .enqueued :=
  s.fateOf_enqueued .trip (provingCopy l) (by rw [show (provingCopy l).port = .lane l from rfl, hp]; rfl) hroom

/-- With a free cell and room in the queue, the frame stands in the pool, its copy on the lane, and it counts (R126, R149). -/
theorem State.sendProving_placed {s : State} {l : Lane} (hp : (s.port (.lane l)).state = .proving) (hcells : 0 < s.freeCells)
    (hroom : (s.port (.lane l)).trip.length < s.settings.queueCapTrip.toNat) :
    (s.sendProving l).provingOf l =
        { s.provingOf l with sequence := (s.provingOf l).sequence + 1, sent := bump (s.provingOf l).sent }
      ∧ (s.sendProving l).pool = s.pool ++ [⟨s.nextName, s.makeProving l, .trip, 1⟩]
      ∧ (s.sendProving l).flags = s.flags ∧ (s.sendProving l).tallies = s.tallies
      ∧ (s.sendProving l).port (.lane l) =
          ((s.port (.lane l)).offered .enqueued s.nextName .trip (provingCopy l)).choose s.settings.statusQuota.toNat := by
  have hadmissible := (s.makeProving_admissible l).trans (decide_eq_true hcells)
  obtain ⟨hanswer, hpool, hflags, hport, -, htallies⟩ :=
    s.requestAdmission_one (s.makeProving l) .trip (provingCopy l) [.lane l] hadmissible (State.provingCopy_enqueued hp hroom)
  have hcounts : 0 < answeredEnqueued (fun _ => true) [provingCopy l] (s.provingRequest l).2 := by
    rw [State.provingRequest, hanswer]
    exact Nat.one_pos
  refine ⟨?_, hpool, hflags, htallies rfl, hport⟩
  rw [s.sendProving_provingOf, if_pos hcounts]

/-- With no cell free the frame is refused: it does not count, POOL is set, and the lane counts a refusal (R126, R148). -/
theorem State.sendProving_refused {s : State} {l : Lane} (hcells : s.freeCells = 0) :
    ((s.sendProving l).provingOf l).sent = (s.provingOf l).sent ∧ (s.sendProving l).flag .pool = true
      ∧ ((s.sendProving l).port (.lane l)).counters.poolRefusals = bump (s.port (.lane l)).counters.poolRefusals := by
  have hrefused : s.provingRequest l = (s.refuseFrame [.lane l], []) := by
    refine s.requestAdmission_refused _ _ _ _ (List.cons_ne_nil _ _) ?_
    rw [s.makeProving_admissible, hcells]
    rfl
  rw [s.sendProving_provingOf, hrefused, answeredEnqueued_nil, if_neg (Nat.lt_irrefl 0)]
  refine ⟨rfl, ?_, ?_⟩
  · rw [s.sendProving_eq, hrefused]
    exact s.flag_raise_same .pool
  · rw [s.sendProving_eq, hrefused, State.refuseFrame_one]
    show (((s.raise .pool).countRefusal (.lane l)).port (.lane l)).counters.poolRefusals = _
    rw [State.countRefusal_port, if_pos rfl]
    rfl

theorem State.provingDue_true {s : State} {l : Lane} (hp : (s.port (.lane l)).state = .proving)
    (hdue : (s.bayClock - (s.provingOf l).nextAt).toNat ≤ 0x7FFFFFFF) : s.provingDue l = true := by
  rw [State.provingDue, hp, (hasReached_iff _ _).mpr hdue]
  rfl

/-- Settles O41: the frame's request moves the traffic alone, and the record of the lane is written once more for its next time. -/
theorem provingFrameAdvancesTheSequence : Obligations.ProvingFrameAdvancesTheSequence := by
  intro l s hp hdue r
  have hexec : exec (.provingFrame l) s = .next ((s.sendProving l).modProving l (fun r => { r with nextAt := r.nextAt + 1000 })) := by
    rw [exec_provingFrame_ite, if_pos (State.provingDue_true hp hdue)]
  have hproving : ((s.sendProving l).modProving l (fun r => { r with nextAt := r.nextAt + 1000 })).provingOf l =
      { (s.sendProving l).provingOf l with nextAt := ((s.sendProving l).provingOf l).nextAt + 1000 } := by
    rw [State.provingOf, State.modProving_proving, LaneMap.get_set_same, State.provingOf]
  have hother : l.other ≠ l := by cases l <;> decide
  refine ⟨_, hexec, s.sendProving_others l, ?_, ?_, ?_, ?_, ?_, ?_, fun hcells hroom => ?_, fun hcells => ?_, ?_⟩
  iterate 5 rw [hproving, s.sendProving_provingOf]
  · rw [State.modProving_proving, LaneMap.get_set_other _ _ hother, s.sendProving_record, LaneMap.get_set_other _ _ hother]
  · obtain ⟨hcounts, -, -, -, hport⟩ := State.sendProving_placed hp hcells hroom
    rw [hproving, hcounts]
    refine ⟨rfl, ?_⟩
    show _ ∈ ((s.sendProving l).port (.lane l)).descriptors
    rw [hport]
    exact PortUnit.mem_offered _ _ _ (provingCopy l) _
  · obtain ⟨hsent, hflag, hcount⟩ := State.sendProving_refused (l := l) hcells
    rw [hproving]
    exact ⟨hsent, hflag, hcount⟩
  · exact congrArg (fun u : State => u.modProving l _) (s.sendProving_moves l)

/-! ## A flush frees cells (R145, R155) -/

theorem heldCells_releaseFrame (pool : List StoredFrame) (name : Nat) : heldCells (releaseFrame pool name) ≤ heldCells pool := by
  have h := heldCells_release (fun _ => true) pool name
  simpa only [List.filter_true] using h

theorem State.releaseAll_heldCells (ds : List Descriptor) (s : State) : heldCells (ds.foldl State.releaseCopy s).pool ≤ heldCells s.pool := by
  rw [s.releaseAll_pool_eq]
  generalize s.pool = pool
  induction ds generalizing pool with
  | nil => exact Nat.le_refl _
  | cons d ds ih => exact (ih _).trans (heldCells_releaseFrame pool d.frame)

theorem State.flushIfInService_heldCells (s : State) (p : Port) : heldCells (s.flushIfInService p).pool ≤ heldCells s.pool := by
  unfold State.flushIfInService
  split
  · exact State.releaseAll_heldCells _ (s.modPort p _)
  · exact Nat.le_refl _

theorem State.enterState_pool (s : State) (p : Port) (new : PortState) : (s.enterState p new).pool = (s.flushIfInService p).pool := by
  unfold State.enterState
  dsimp only
  cases p with
  | lane l => dsimp only; rw [State.laneMoved_eq]; rfl
  | bay q => rfl

/-- A port that moves leaves no cell less free. -/
theorem State.movePort_freeCells (s : State) (p : Port) (new : PortState) : s.freeCells ≤ (s.movePort p new).freeCells := by
  by_cases h : (s.port p).state = new
  · rw [State.movePort_same _ _ _ h]
  · rw [State.movePort_other _ _ _ h, State.freeCells, State.freeCells, State.enterState_pool]
    exact Nat.sub_le_sub_left (s.flushIfInService_heldCells p) _

/-! ## PROVE (R116, R125, R126) -/

/-- The lane's session opened, before its first frame: the lane in PROVING and its record cleared (R125). -/
def State.sessionOpened (s : State) (l : Lane) : State :=
  (s.movePort (.lane l) .proving).modProving l (fun _ => { ProvingRecord.zero with nextAt := s.bayClock + 1000 })

theorem State.proving_moved {s : State} {l : Lane} (hu : (s.port (.lane l)).state = .up) :
    s.portMoved (s.movePort (.lane l) .proving) (.lane l) .proving ((s.port (.lane l)).after .proving) :=
  State.movePort_moved (fun e => PortState.noConfusion (hu.symm.trans e))

theorem State.beginProving_eq {s : State} {l : Lane} (hu : (s.port (.lane l)).state = .up) :
    s.beginProving l = (s.sessionOpened l).sendProving l := by
  rw [State.sessionOpened, ← State.onlyPortsMove_bayClock (State.proving_moved hu).moves]
  rfl

theorem State.sessionOpened_settings {s : State} {l : Lane} (hu : (s.port (.lane l)).state = .up) :
    (s.sessionOpened l).settings = s.settings :=
  (State.modProving_settings _ _ _).trans (State.onlyPortsMove_settings (State.proving_moved hu).moves)

theorem State.sessionOpened_bayClock {s : State} {l : Lane} (hu : (s.port (.lane l)).state = .up) :
    (s.sessionOpened l).bayClock = s.bayClock :=
  (State.modProving_bayClock _ _ _).trans (State.onlyPortsMove_bayClock (State.proving_moved hu).moves)

theorem State.sessionOpened_provingOf (s : State) (l : Lane) :
    (s.sessionOpened l).provingOf l = { ProvingRecord.zero with nextAt := s.bayClock + 1000 } := by
  rw [State.provingOf, State.sessionOpened, State.modProving_proving, LaneMap.get_set_same]

/-- The session's first frame, as the spec writes it out (R126). -/
theorem State.sessionOpened_makeProving {s : State} {l : Lane} (hu : (s.port (.lane l)).state = .up) :
    (s.sessionOpened l).makeProving l =
      makeFrame s.settings.probeGroup (s.settings.node.extractLsb' 0 8) s.settings.tagType
        { cls := .probe, origin := s.settings.node.extractLsb' 0 6, hops := 1, epoch := s.settings.epoch.extractLsb' 0 4,
          stream := 16382, seq := 0, renewal := 0 }
        (l.code :: timeBytes s.bayClock) := by
  rw [State.makeProving, State.sessionOpened_settings hu, State.sessionOpened_bayClock hu, s.sessionOpened_provingOf]
  rfl

/-- An emptied lane that is offered one copy for TRIP has it in transmission at once (R152). -/
theorem PortUnit.emptied_sends {u : PortUnit} (hu : u.state.inService = true) (name : Nat) (c : Copy) (quota : Nat) :
    let v := ((u.after .proving).offered .enqueued name .trip c).choose quota
    v.descriptors = [⟨name, c.form, c.handle⟩] ∧ v.sending = some ⟨name, c.form, c.handle⟩ ∧ v.state = .proving := by
  intro v
  have hafter : u.after .proving = { u.emptied with state := .proving, underWay := u.underWay && true } := by
    rw [PortUnit.after, if_pos hu]
    rfl
  have hoffered : ((u.after .proving).offered .enqueued name .trip c) =
      { u.emptied with state := .proving, underWay := u.underWay && true, trip := [⟨name, c.form, c.handle⟩] } := by
    rw [hafter]
    rfl
  have hv : v = { u.emptied with
      state := .proving, underWay := u.underWay && true, trip := [], sending := some ⟨name, c.form, c.handle⟩ } := by
    show PortUnit.choose _ quota = _
    rw [hoffered]
    exact (PortUnit.choose_table _ quota (.inr rfl) rfl).1 _ [] rfl
  rw [hv]
  exact ⟨rfl, rfl, rfl⟩

/-- The ring follows as before after a request for the lane's frame, which touches neither the unit, nor a port's state, nor RING. -/
theorem State.ringFollows_sendProving {s u : State} {l : Lane} {leftUp : Bool} (h : s.ringFollows u leftUp) :
    s.ringFollows (u.sendProving l) leftUp := by
  intro hb
  obtain ⟨hnow, hcounts, hflag⟩ := h hb
  have hprobe := u.sendProving_probe l
  have hup (p : Port) : (u.sendProving l).isUp p = u.isUp p := congrArg (· == PortState.up) (u.requestAdmission_state _ _ _ _ p)
  have hring : (u.sendProving l).ringNow = u.ringNow :=
    State.ringNow_congr (u.sendProving_settings l) (by rw [State.lanesUp, hup, hup, State.lanesUp])
      (by rw [hprobe]) (by rw [hprobe])
  have hflagRing : (u.sendProving l).flag .ring = u.flag .ring := u.requestAdmission_flag _ _ _ _ (by decide)
  rw [hring, hprobe, hflagRing]
  exact ⟨hnow, hcounts, hflag⟩

/-- Nothing but the ports, the pool, the tallies, the notices, the flags, the probe unit and the lane's record differs once a session
has begun. -/
theorem State.sendProving_sessionMoves {s u : State} (h : s.onlyPortsMove u) (l : Lane) (g : ProvingRecord → ProvingRecord) :
    let t := (u.modProving l g).sendProving l
    t = { s with
      ports := t.ports, pool := t.pool, nextName := t.nextName, tallies := t.tallies, notices := t.notices
      flags := t.flags, probe := t.probe, proving := s.proving.set l (t.provingOf l) } := by
  intro t
  have hproving : t.proving = s.proving.set l (t.provingOf l) := by
    rw [State.provingOf, State.sendProving_record, State.modProving_proving, LaneMap.set_set, LaneMap.get_set_same,
      State.onlyPortsMove_proving h]
  have hmoves := (u.modProving l g).sendProving_moves l
  have hnotices : t.notices = u.notices := (u.modProving l g).sendProving_notices l
  have hprobe : t.probe = u.probe := (u.modProving l g).sendProving_probe l
  unfold State.onlyPortsMove at h
  rw [← hproving, hnotices, hprobe]
  calc t = { u with ports := t.ports, pool := t.pool, nextName := t.nextName, tallies := t.tallies, flags := t.flags
                    proving := t.proving } := hmoves
    _ = _ := congrArg (fun v : State => { v with
          ports := t.ports, pool := t.pool, nextName := t.nextName, tallies := t.tallies, flags := t.flags, proving := t.proving }) h

/-- Settles O13: the lane's flush, its cleared record and its first frame's request, one after another. -/
theorem proveOpensASessionWithItsFirstFrame : Obligations.ProveOpensASessionWithItsFirstFrame := by
  intro n l s hr hn hu hnode hcells hcap
  have hmoved := State.proving_moved hu
  have hservice : (s.port (.lane l)).state.inService = true := by rw [hu]; rfl
  have hsettings := State.sessionOpened_settings hu
  have hport : (s.sessionOpened l).port (.lane l) = (s.port (.lane l)).after .proving := hmoved.port
  have hroom : ((s.sessionOpened l).port (.lane l)).trip.length < (s.sessionOpened l).settings.queueCapTrip.toNat := by
    have hempty : ((s.port (.lane l)).after .proving).trip = [] := by rw [PortUnit.after, if_pos hservice]; rfl
    rw [hport, hempty, hsettings]
    exact Nat.pos_of_ne_zero (fun e => hcap (BitVec.eq_of_toNat_eq e))
  have hfree : 0 < (s.sessionOpened l).freeCells := Nat.lt_of_lt_of_le hcells (s.movePort_freeCells (.lane l) .proving)
  obtain ⟨hrecord, hpool, hflags, htallies, hunit⟩ := State.sendProving_placed (by rw [hport]; rfl) hfree hroom
  rw [hport] at hunit
  obtain ⟨hdescriptors, hsending, hstate⟩ :=
    PortUnit.emptied_sends hservice (s.sessionOpened l).nextName (provingCopy l) (s.sessionOpened l).settings.statusQuota.toNat
  rw [← hunit] at hdescriptors hsending hstate
  have hact : s.commandProve (.lane l) = ((s.sessionOpened l).sendProving l, .done) := by
    rw [← State.beginProving_eq hu]
    exact if_pos ⟨hu, hnode⟩
  refine ⟨_, _, ⟨(s.sessionOpened l).nextName, (s.sessionOpened l).makeProving l, .trip, 1⟩, State.portAct_known hr hn hact, hstate,
    fun q hq => ((s.sessionOpened l).sendProving_others l q hq).trans (hmoved.others q hq), ?_, ?_, hdescriptors, hsending, rfl, rfl, rfl,
    ⟨s.movePort (.lane l) .proving, hmoved.flushed hservice, hpool, htallies, ?_⟩,
    (State.sessionOpened_makeProving hu).trans (by cases l <;> rfl), ?_,
    State.sendProving_sessionMoves hmoved.moves l _⟩
  · rw [State.flag, hflags]
    exact hmoved.flag
  · rw [hrecord, s.sessionOpened_provingOf]
    rfl
  · exact (s.sessionOpened l).sendProving_notices l
  · have hring := hmoved.ring l rfl (.inl hu)
    rw [hu] at hring
    exact State.ringFollows_sendProving (u := s.sessionOpened l) hring

end Sys2Proof.Machine
end

section
namespace Sys2Proof.Machine

/-! ## PORT READ (R124) -/

theorem State.readPort_known {s : State} {n : Byte} {p : Port} (hn : portOfNumber n = some p) (after : State → Port → State) :
    s.readPort n after = (after s p, .done, s.portBlock p) := by
  rw [State.readPort, hn]

theorem State.readPort_unknown {s : State} {n : Byte} (hn : 5 < n.toNat) (after : State → Port → State) :
    s.readPort n after = (s, .badValue, []) := by
  rw [State.readPort, (portOfNumber_none n).mpr hn]

theorem exec_portRead_whole (n : Byte) (s : State) (hr : s.ready = true) :
    exec (.portRead (.whole n)) s =
      .next (s.replied (s.readPort n (fun t _ => t)).1 2 (s.readPort n (fun t _ => t)).2.1 (s.readPort n (fun t _ => t)).2.2) :=
  congrArg _ (s.immediate_whole _ _ _ hr)

theorem exec_portReadClear_ready (n : Byte) (s : State) (hr : s.ready = true) :
    exec (.portReadClear n) s =
      .next (s.replied (s.readPort n State.clearCounters).1 2 (s.readPort n State.clearCounters).2.1
        (s.readPort n State.clearCounters).2.2) :=
  congrArg _ (s.immediate_whole _ _ _ hr)

theorem State.portBlock_length (s : State) (p : Port) : (s.portBlock p).length = 65 := by
  have hproving : (s.provingPart p).length = 15 := by cases p <;> rfl
  have hcounters : (portCounterBytes (s.port p).counters).length = 48 := rfl
  rw [State.portBlock, List.length_append, List.length_append, hproving, hcounters]
  rfl

/-! ## ROSTER READ (R144) -/

/-- The numbers a read covers are the next ones from the first, as many as stand below 61. -/
theorem rosterNumbers_eq (first n : Nat) : rosterNumbers first n = (List.range (min n (61 - first))).map (fun i => first + i) := by
  have hfilter (m : Nat) : (List.range m).filter (fun i => decide (first + i ≤ 60)) = List.range (min m (61 - first)) := by
    induction m with
    | zero => rw [Nat.zero_min]; rfl
    | succ m ih =>
      rw [List.range_succ, List.filter_append, ih]
      by_cases hm : first + m ≤ 60
      · rw [List.filter_singleton, decide_eq_true hm, Nat.min_eq_left (by omega), Nat.min_eq_left (by omega), List.range_succ]
        rfl
      · rw [List.filter_singleton, decide_eq_false hm, show min (m + 1) (61 - first) = min m (61 - first) by omega]
        exact List.append_nil _
  rw [rosterNumbers, List.filter_map]
  exact congrArg _ (hfilter n)

theorem exec_rosterRead_whole (first n : Byte) (s : State) (hr : s.ready = true) :
    exec (.rosterRead (.whole (first, n))) s =
      .next (s.replied (s.readRoster first.toNat n.toNat).1 2 (s.readRoster first.toNat n.toNat).2.1
        (s.readRoster first.toNat n.toNat).2.2) :=
  congrArg _ (s.immediate_whole _ _ _ hr)

/-! ## The bytes of a roster entry (12.4) -/

theorem evidenceBytes_length (v : Option Evidence) : (evidenceBytes v).length = 5 := by cases v <;> rfl

theorem rosterBytes_length (k : Nat) (e : RosterEntry) : (rosterBytes k e).length = 13 := by
  rw [rosterBytes, List.length_append, List.length_append, evidenceBytes_length, evidenceBytes_length]
  rfl

/-- The five bytes at a place hold a lane's evidence. -/
def holdsEvidence (b : List Byte) (i : Nat) : Option Evidence → Prop
  | some x => byteAt b i = x.distance ∧ timeAt b (i + 1) = x.lastHeard
  | none => ∀ j, j < 5 → byteAt b (i + j) = 0x00

theorem evidenceBytes_holds (v : Option Evidence) (post : List Byte) : holdsEvidence (evidenceBytes v ++ post) 0 v := by
  cases v with
  | some x => exact ⟨rfl, timeOf_bytes x.lastHeard⟩
  | none =>
    intro j hj
    rw [Nat.zero_add, byteAt_append_left _ (by rw [evidenceBytes_length]; exact hj), byteAt_eq, evidenceBytes, List.getElem?_replicate,
      if_pos hj]
    rfl

theorem holdsEvidence_after {pre b : List Byte} {i : Nat} (hi : pre.length = i) {v : Option Evidence} (h : holdsEvidence b 0 v) :
    holdsEvidence (pre ++ b) i v := by
  subst hi
  cases v with
  | some x =>
    obtain ⟨hdistance, htime⟩ := h
    refine ⟨?_, ?_⟩
    · rw [byteAt_append_right _ _ (Nat.le_refl _), Nat.sub_self, hdistance]
    · rw [timeAt_append_right _ _ (Nat.le_add_right _ 1), Nat.add_sub_cancel_left]
      exact htime
  | none =>
    intro j hj
    rw [byteAt_append_right _ _ (Nat.le_add_right _ j), Nat.add_sub_cancel_left, ← Nat.zero_add j]
    exact h j hj

theorem rosterBytes_heardA (k : Nat) (e : RosterEntry) : holdsEvidence (rosterBytes k e) 3 e.heardA := by
  rw [rosterBytes, List.append_assoc]
  exact holdsEvidence_after rfl (evidenceBytes_holds e.heardA _)

theorem rosterBytes_heardB (k : Nat) (e : RosterEntry) : holdsEvidence (rosterBytes k e) 8 e.heardB := by
  have h := evidenceBytes_holds e.heardB []
  rw [List.append_nil] at h
  exact holdsEvidence_after (by rw [List.length_append, evidenceBytes_length]; rfl) h

/-- The reported states in their byte: the ring state in bits 7–6, Lane A in bits 5–3, Lane B in bits 2–0 (12.4). -/
theorem reportedStates_fields (ring : BitVec 2) (a b : BitVec 3) :
    (ring ++ a ++ b).extractLsb' 6 2 = ring ∧ (ring ++ a ++ b).extractLsb' 3 3 = a ∧ (ring ++ a ++ b).extractLsb' 0 3 = b := by
  refine ⟨?_, ?_, BitVec.extractLsb'_append_eq_right⟩
  · rw [BitVec.extractLsb'_append_eq_of_le (by decide)]
    exact BitVec.extractLsb'_append_eq_left
  · rw [BitVec.extractLsb'_append_eq_of_le (by decide)]
    exact BitVec.extractLsb'_append_eq_right

/-- The status in its byte: bit 0 for evidence on Lane A, bit 1 for evidence on Lane B (12.4). -/
theorem RosterEntry.status_byte (e : RosterEntry) :
    e.status.setWidth 8 = (if e.heardA.isSome then 1 else 0) + (if e.heardB.isSome then 2 else 0) := by
  have hbits : ∀ a b : Bool, (BitVec.ofBool b ++ BitVec.ofBool a).setWidth 8 = (if a then 1 else 0) + (if b then 2 else 0) := by decide
  exact hbits _ _

/-- Settles O52, from the port's block, the numbers a roster read covers, and the fields of an entry. -/
theorem portAndRosterReads : Obligations.PortAndRosterReads := by
  refine ⟨fun n s hr => ⟨fun h5 => ⟨?_, ?_⟩, fun p hn => ?_⟩, fun first n s hr => ⟨fun hout => ?_, fun h1 h60 hn1 hn60 => ?_⟩, fun k e => ?_⟩
  · rw [exec_portRead_whole n s hr, State.readPort_unknown h5]
  · rw [exec_portReadClear_ready n s hr, State.readPort_unknown h5]
  · intro u c proving block
    have hblock : block = s.portBlock p := by cases p <;> rfl
    rw [hblock, exec_portRead_whole n s hr, exec_portReadClear_ready n s hr, State.readPort_known hn, State.readPort_known hn]
    exact ⟨s.portBlock_length p, rfl, rfl⟩
  · rw [exec_rosterRead_whole first n s hr, State.readRoster, if_neg hout]
  · rw [exec_rosterRead_whole first n s hr, State.readRoster, if_pos ⟨h1, h60, hn1, hn60⟩, rosterNumbers_eq, List.flatMap_map]
  · intro b laneCode evidence
    obtain ⟨hring, hlaneA, hlaneB⟩ := reportedStates_fields e.ring.code e.laneA.code e.laneB.code
    have hcode (x : PortState) : x.code = laneCode x := by cases x <;> rfl
    have hevidence {i : Nat} {v : Option Evidence} (h : holdsEvidence b i v) : evidence i v := by cases v <;> exact h
    refine ⟨rosterBytes_length k e, rfl, e.status_byte.trans ?_, hring.trans ?_, hlaneA.trans (hcode _), hlaneB.trans (hcode _),
      hevidence (rosterBytes_heardA k e), hevidence (rosterBytes_heardB k e)⟩
    · cases e.heardA <;> cases e.heardB <;> rfl
    · cases e.ring <;> rfl

end Sys2Proof.Machine
end

section
namespace Sys2Proof.Machine

/-! ## Whose turn it is, case by case (R31) -/

/-- The low turn: the timed operation, else the oldest notice, else the visit (R31). -/
theorem State.turn_noIntake {s : State} (hn : s.nextIntake = none) :
    s.turn = if s.inFlight.isSome then .timed else match s.notices with
      | h :: _ => .notice h
      | [] => if s.sweep.position < Config.handles then .visit else .idle := by
  unfold State.turn
  generalize s.nextIntake = next at hn
  subst hn
  rfl

theorem State.turn_intake_iff (s : State) (p : Port) : s.turn = .intake p ↔ s.nextIntake = some p := by
  cases hn : s.nextIntake with
  | some q => simp [State.turn, hn]
  | none =>
    rw [State.turn_noIntake hn]
    refine ⟨fun h => ?_, fun h => nomatch h⟩
    split at h
    · exact Turn.noConfusion h
    · split at h
      · exact Turn.noConfusion h
      · split at h <;> exact Turn.noConfusion h

theorem State.turn_timed {s : State} (hn : s.nextIntake = none) (hf : s.inFlight.isSome = true) : s.turn = .timed := by
  rw [State.turn_noIntake hn, if_pos hf]

theorem State.turn_notice {s : State} {h : Nat} {rest : List Nat} (hn : s.nextIntake = none) (hf : s.inFlight = none)
    (hs : s.notices = h :: rest) : s.turn = .notice h := by
  rw [State.turn_noIntake hn, hf, hs]
  rfl

theorem State.turn_visit {s : State} (hn : s.nextIntake = none) (hf : s.inFlight = none) (hs : s.notices = [])
    (hp : s.sweep.position < Config.handles) : s.turn = .visit := by
  rw [State.turn_noIntake hn, hf, hs]
  exact if_pos hp

/-- Only the timed operation's own turn hangs on it: with it withdrawn every other turn stands. -/
theorem State.turn_withdrawn {s t : State} (hports : t.nextIntake = s.nextIntake) (hnotices : t.notices = s.notices)
    (hsweep : t.sweep = s.sweep) (hf : t.inFlight = none) (hs : s.turn ≠ .timed) : t.turn = s.turn := by
  cases hn : s.nextIntake with
  | some p =>
    rw [(s.turn_intake_iff p).mpr hn]
    exact (t.turn_intake_iff p).mpr (hports.trans hn)
  | none =>
    have hnone : s.inFlight.isSome = false := Bool.eq_false_iff.mpr (fun hb => hs (State.turn_timed hn hb))
    rw [State.turn_noIntake hn, State.turn_noIntake (hports.trans hn), hf, hnotices, hsweep, hnone]
    rfl

theorem State.lowTurn_notice_iff (s : State) : s.lowTurn = some .notice ↔ ∃ h, s.turn = .notice h := by
  unfold State.lowTurn
  cases s.turn <;> simp

theorem State.lowTurn_visit_iff (s : State) : s.lowTurn = some .visit ↔ s.turn = .visit := by
  unfold State.lowTurn
  cases s.turn <;> simp

/-- A notice acts in its turn, or as the grant in hand (R31, R96). -/
theorem State.noticeTurn_iff (s : State) (h : Nat) :
    s.noticeTurn = some h ↔ s.turn = .notice h ∨ (s.inHand = some .notice ∧ s.notices.head? = some h) := by
  constructor
  · intro hn
    have hhead := State.notices_head_of_noticeTurn hn
    by_cases hin : s.inHand = some .notice
    · exact .inr ⟨hin, hhead⟩
    · refine .inl ?_
      by_cases hl : s.lowTurn = some .notice
      · obtain ⟨k, hk⟩ := s.lowTurn_notice_iff.mp hl
        have hkh : k = h := Option.some.inj ((State.notices_head_of_turn hk).symm.trans hhead)
        exact hkh ▸ hk
      · rw [State.noticeTurn, if_neg (not_or.mpr ⟨hl, hin⟩)] at hn
        exact nomatch hn
  · rintro (ht | ⟨hin, hhead⟩)
    · exact State.noticeTurn_of_turn ht
    · rw [State.noticeTurn, if_pos (.inr hin), hhead]

/-- A visit acts in its turn, or as the grant in hand while a pass runs (R31, R96). -/
theorem State.visitTurn_iff (s : State) :
    s.visitTurn = true ↔ s.turn = .visit ∨ (s.inHand = some .visit ∧ s.sweep.position < Config.handles) := by
  rw [State.visitTurn, Bool.and_eq_true, Bool.or_eq_true, beq_iff_eq, beq_iff_eq, decide_eq_true_eq, s.lowTurn_visit_iff]
  constructor
  · rintro ⟨ht | hin, hp⟩
    · exact .inl ht
    · exact .inr ⟨hin, hp⟩
  · rintro (ht | ⟨hin, hp⟩)
    · exact ⟨.inl ht, State.position_of_turn ht⟩
    · exact ⟨.inr hin, hp⟩

/-! ## The intake granted next (R31) -/

theorem mem_rotationFrom (p q : Port) : q ∈ rotationFrom p := by
  rcases p with (_ | _) | (_ | _ | _ | _) <;> rcases q with (_ | _) | (_ | _ | _ | _) <;> decide

theorem rotationFrom_second (p : Port) : (rotationFrom p)[1]? = some (nextInRotation p) := by
  rcases p with (_ | _) | (_ | _ | _ | _) <;> rfl

/-- What stands in a list before the entry that a search finds does not satisfy the search. -/
theorem not_of_mem_takeWhile_ne {α : Type} [DecidableEq α] {which : α → Bool} {l : List α} {p : α} (hp : l.find? which = some p)
    {q : α} (hq : q ∈ l.takeWhile (fun x => x != p)) : which q = false := by
  induction l with
  | nil => exact absurd hq List.not_mem_nil
  | cons x xs ih =>
    cases hx : which x with
    | true =>
      rw [List.find?_cons_of_pos hx] at hp
      cases hp
      rw [List.takeWhile_cons_of_neg (by rw [bne_self_eq_false]; exact Bool.false_ne_true)] at hq
      exact absurd hq List.not_mem_nil
    | false =>
      rw [List.find?_cons_of_neg (Bool.eq_false_iff.mp hx)] at hp
      rw [List.takeWhile_cons] at hq
      split at hq
      · rcases List.mem_cons.mp hq with rfl | hrest
        · exact hx
        · exact ih hp hrest
      · exact absurd hq List.not_mem_nil

theorem State.nextIntake_first {s : State} {p : Port} (hp : s.nextIntake = some p) :
    (s.port p).claim.isSome = true
      ∧ ∀ q, q ∈ (rotationFrom s.rotation).takeWhile (fun x => x != p) → (s.port q).claim = none := by
  have hclaim := List.find?_some hp
  exact ⟨hclaim, fun q hq => Option.not_isSome_iff_eq_none.mp (Bool.eq_false_iff.mp (not_of_mem_takeWhile_ne hp hq))⟩

theorem State.nextIntake_none_iff (s : State) : s.nextIntake = none ↔ ∀ p, (s.port p).claim = none := by
  rw [State.nextIntake, List.find?_eq_none]
  exact ⟨fun h p => Option.not_isSome_iff_eq_none.mp (h p (mem_rotationFrom _ p)),
    fun h p _ => Option.not_isSome_iff_eq_none.mpr (h p)⟩

/-! ## What a grant moves (R31, R32, R36) -/

/-- A record written after a request, and a flag with it, are within what a grant moves. -/
theorem State.onlyGrantMoves_of_record {s u : State} {p : Port} (h : (s.looking p).onlyTrafficMoves u) (k : Nat) (r : Record)
    (c : Bool) (f : Flag) : s.onlyGrantMoves ((u.putRecord k r).raiseIf c f) p := by
  unfold State.onlyTrafficMoves at h
  unfold State.onlyGrantMoves
  rw [State.raiseIf_eq]
  exact congrArg (fun w : State => { w with
    table := (u.putRecord k r).table, flags := if c then u.flags ||| f.mask else u.flags }) h

/-- A granted search moves what a grant can reach, whatever record it finds (R31, R36). -/
theorem State.searchOn_moves (s : State) (p : BayPort) (f : RxFrame) :
    s.onlyGrantMoves ((s.looking (.bay p)).searchOn p f) (.bay p) := by
  unfold State.searchOn
  split
  · rename_i h _
    cases hheld : ((s.looking (.bay p)).record h).held with
    | true =>
      unfold State.originate
      dsimp only
      rw [if_pos hheld]
      exact State.onlyGrantMoves_of_record (State.onlyTrafficMoves_refl _) _ _ _ _
    | false =>
      rw [State.originate_unheld p f hheld]
      exact State.onlyGrantMoves_of_record ((s.looking (.bay p)).requestAdmission_traffic _ _ _ _) _ _ _ _
  · rfl

theorem State.onlyGrantMoves_rotation {s t : State} {p : Port} (h : s.onlyGrantMoves t p) :
    (rotationFrom p)[1]? = some t.rotation ∧ t.inHand = none := by
  unfold State.onlyGrantMoves at h
  rw [h]
  exact ⟨rotationFrom_second p, rfl⟩

theorem exec_patternSearch_granted {s : State} {p : BayPort} {f : RxFrame} (hg : s.granted (.bay p) .search = true)
    (hf : (s.port (.bay p)).store.head? = some f) :
    exec (.patternSearch p) s = .next ((s.looking (.bay p)).searchOn p f) := by
  rw [exec_patternSearch_elim, hf]
  exact congrArg Host.Outcome.next (if_pos hg)

/-- A granted lookup moves what a grant can reach, whether or not a record takes the frame (R31, R34). -/
theorem State.lookup_moves {s : State} {p : Port} {f : RxFrame} (hg : s.granted p .lookup = true)
    (hf : (s.port p).store.head? = some f) : ∃ t, exec (.lookupByKey p) s = .next t ∧ s.onlyGrantMoves t p := by
  obtain ⟨htaken, huntaken, -⟩ := lookupChangesAtMostTheRecordFound
  by_cases ht : ∃ h, s.lookupTakes p f h
  · obtain ⟨h, ht⟩ := ht
    obtain ⟨t, hexec, hmoves, -⟩ := htaken p f h s ht
    exact ⟨t, hexec, hmoves⟩
  · obtain ⟨t, hexec, -, -, hmoves, -⟩ := huntaken p f s hg hf (fun h _ htakes => ht ⟨h, htakes⟩)
    exact ⟨t, hexec, hmoves⟩

/-- CONTROL RESET leaves the low claims their turns, and the grant in hand with them (R82, R168). -/
theorem State.resetPort_turns (s : State) :
    (s.visitTurn = true → s.resetPort.visitTurn = true) ∧ ∀ h, s.noticeTurn = some h → s.resetPort.noticeTurn = some h := by
  have hturn (hs : s.turn ≠ .timed) : s.resetPort.turn = s.turn := State.turn_withdrawn rfl rfl rfl rfl hs
  refine ⟨fun hv => ?_, fun h hn => ?_⟩
  · refine s.resetPort.visitTurn_iff.mpr ((s.visitTurn_iff.mp hv).imp (fun ht => ?_) id)
    rw [hturn (by rw [ht]; exact Turn.noConfusion), ht]
  · refine (s.resetPort.noticeTurn_iff h).mpr (((s.noticeTurn_iff h).mp hn).imp (fun ht => ?_) id)
    rw [hturn (by rw [ht]; exact Turn.noConfusion), ht]

/-- Settles O21, from the turns case by case, the intake found next, and what a grant moves. -/
theorem arbiterGrantsInTheSpecsOrder : Obligations.ArbiterGrantsInTheSpecsOrder := by
  intro s
  refine ⟨s.turn_intake_iff, fun p hp => State.nextIntake_first hp, s.nextIntake_none_iff, State.turn_timed,
    fun h rest hn hf hs => State.turn_notice hn hf hs, State.turn_visit, s.noticeTurn_iff, s.visitTurn_iff, s.lowTurn_notice_iff,
    s.lowTurn_visit_iff, ⟨rfl, rfl, rfl, rfl, rfl, rfl⟩, fun p hstore hg => ?_, fun q hstore hg => ?_, fun hr => ?_⟩
  · obtain ⟨t, hexec, hmoves⟩ := State.lookup_moves hg (List.head?_eq_some_head hstore)
    exact ⟨t, hexec, State.onlyGrantMoves_rotation hmoves⟩
  · exact ⟨_, exec_patternSearch_granted hg (List.head?_eq_some_head hstore), State.onlyGrantMoves_rotation (s.searchOn_moves q _)⟩
  · exact ⟨_, exec_controlReset s hr, rfl, rfl, s.resetPort_turns⟩

end Sys2Proof.Machine
end

section
namespace Sys2Proof.Machine

/-! ## The record a search's frame leaves (R66, R68 to R70) -/

/-- A one-leg record that has taken a frame, with the send counter and the counters its origination left (R66, R68). -/
def Record.taken (r : Record) (arrival : Time) (sendCounter : Word) (counters : RecCounters) : Record :=
  { r.takeFrame arrival with sendCounter := sendCounter, counters := counters }

/-- The mark of a state or leg status that the frame changed (R69). -/
def Record.movedBy (r r' : Record) : Bool := r'.state != r.state || legsDiffer r r'

/-- The record of a frame is written after what its request has left, and ATTENTION follows its moves (R69). -/
def State.booked (u : State) (h : Nat) (r r' : Record) : State := (u.putRecord h r').raiseIf (r.movedBy r') .attention

theorem State.booked_record (u : State) (h : Nat) (r r' : Record) : (u.booked h r r').record h = r' := by
  rw [State.booked, State.record, State.raiseIf_table]
  exact u.record_putRecord_same h r'

theorem State.booked_others (u : State) {h k : Nat} (r r' : Record) (hk : k ≠ h) : (u.booked h r r').record k = u.record k := by
  rw [State.booked, State.record, State.raiseIf_table]
  exact u.record_putRecord_other r' hk

theorem State.booked_flag {u : State} {h : Nat} {r r' : Record} (hm : r.movedBy r' = true) :
    (u.booked h r r').flag .attention = true := by
  rw [State.booked, State.flag_raiseIf, hm, decide_eq_true rfl, Bool.and_self, Bool.or_true]

theorem Record.taken_fields (r : Record) (arrival : Time) (n : Word) (c : RecCounters) :
    let r' := (r.taken arrival n c).settleSingle r
    r'.config = r.config ∧ r'.held = r.held ∧ r'.legB = r.legB ∧ r'.counters = c ∧ r'.sendCounter = n
      ∧ r'.legA = { lastArrival := arrival, status := .ok, misses := r.legA.misses }
      ∧ r'.deadline = arrival + BitVec.ofNat 32 (1000 * r.config.renewalLimit.toNat) ∧ r'.running = true :=
  ⟨rfl, rfl, rfl, rfl, rfl, rfl, rfl, rfl⟩

/-- A one-leg record that waited becomes LIVE, which is a move (R29, R69). -/
theorem Record.taken_wakes {r : Record} (hk : r.config.kind = .originatedSingle) (hs : r.state = .armed ∨ r.state = .silent)
    (arrival : Time) (n : Word) (c : RecCounters) :
    let r' := (r.taken arrival n c).settleSingle r
    r'.state = .live ∧ r'.inAttention = true ∧ r.movedBy r' = true := by
  intro r'
  have htwo : (r.taken arrival n c).twoLeg = false := by
    show (r.config.kind != .originatedSingle) = false
    rw [hk]
    rfl
  have hanew : (r.taken arrival n c).stateAnew = .live := by rw [Record.stateAnew, htwo]; rfl
  have hafter : (r.taken arrival n c).stateAfter (legsDiffer r (r.taken arrival n c)) true = (r.taken arrival n c).stateAnew := by
    have hstate : (r.taken arrival n c).state = r.state := rfl
    rw [Record.stateAfter, hstate]
    rcases hs with h | h <;> rw [h] <;> rfl
  have hlive : r'.state = .live := hafter.trans hanew
  have hmoved : r.movedBy r' = true := by
    rw [Record.movedBy, hlive]
    rcases hs with h | h <;> rw [h] <;> rfl
  refine ⟨hlive, ?_, hmoved⟩
  exact (congrArg (fun b => r.inAttention || b) hmoved).trans (Bool.or_true _)

/-! ## The origination, held and unheld (R65 to R70) -/

theorem State.originate_held {s : State} {h : Nat} (p : BayPort) (f : RxFrame) (hh : (s.record h).held = true) :
    s.originate h p f = s.booked h (s.record h)
      (((s.record h).taken f.arrival (s.record h).sendCounter
        { (s.record h).counters with accepted := bump (s.record h).counters.accepted }).settleSingle (s.record h)) := by
  unfold State.originate
  dsimp only
  rw [if_pos hh]
  rfl

/-- What an unheld origination counts of its request is in the counters alone (R68). -/
theorem State.originatedRecord_taken (s : State) (p : BayPort) (f : RxFrame) (h : Nat) :
    ∃ c : RecCounters, c.accepted = bump (s.record h).counters.accepted ∧ s.originatedRecord p f h =
      ((s.record h).taken f.arrival ((s.record h).sendCounter + 1) c).settleSingle (s.record h) := by
  have haccepted (r : Record) (wanted got injected : Nat) :
      (r.settleOrigination wanted got injected).counters.accepted = r.counters.accepted := by
    unfold Record.settleOrigination
    dsimp only
    split <;> split <;> rfl
  refine ⟨(s.originatedRecord p f h).counters, haccepted _ _ _ _, ?_⟩
  rw [State.originatedRecord, Record.originated, Record.settleOrigination_eq]
  rfl

theorem State.originate_booked {s : State} {h : Nat} (p : BayPort) (f : RxFrame) (hh : (s.record h).held = false) :
    s.originate h p f = (s.originationRequest p f h).1.booked h (s.record h) (s.originatedRecord p f h) :=
  State.originate_unheld p f hh

/-- What a frame's origination leaves of its record and of ATTENTION, whatever its copies came to (R69). -/
theorem State.originate_spec (s : State) (h : Nat) (p : BayPort) (f : RxFrame) :
    ∃ (u : State) (n : Word) (c : RecCounters),
      s.originate h p f = u.booked h (s.record h) (((s.record h).taken f.arrival n c).settleSingle (s.record h))
        ∧ u.table = s.table ∧ c.accepted = bump (s.record h).counters.accepted
        ∧ ((s.record h).held = false → n = (s.record h).sendCounter + 1)
        ∧ ((s.record h).held = true → u = s ∧ n = (s.record h).sendCounter
            ∧ c = { (s.record h).counters with accepted := bump (s.record h).counters.accepted }) := by
  cases hh : (s.record h).held with
  | true => exact ⟨s, _, _, State.originate_held p f hh, rfl, rfl, nofun, fun _ => ⟨rfl, rfl, rfl⟩⟩
  | false =>
    obtain ⟨c, haccepted, hrecord⟩ := s.originatedRecord_taken p f h
    refine ⟨(s.originationRequest p f h).1, _, c, ?_, State.onlyTrafficMoves_table (s.requestAdmission_traffic _ _ _ _), haccepted,
      fun _ => rfl, nofun⟩
    rw [State.originate_booked p f hh, hrecord]

/-! ## The record a search chooses (R35, R36) -/

/-- In a table in ascending order the first entry a search finds is the lowest one (R36). -/
theorem Sparse.find_lowest {α : Type} {m : List (Nat × α)} (hm : m.Pairwise (fun e f => e.1 < f.1)) {which : α → Bool} {h : Nat}
    (hf : (m.find? (fun e => which e.2)).map (·.1) = some h) {e : Nat × α} (he : e ∈ m) (hw : which e.2 = true) : h ≤ e.1 := by
  induction m with
  | nil => exact absurd he List.not_mem_nil
  | cons x xs ih =>
    obtain ⟨hbelow, hrest⟩ := List.pairwise_cons.mp hm
    cases hx : which x.2 with
    | true =>
      rw [List.find?_cons_of_pos (p := fun e : Nat × α => which e.2) hx] at hf
      have hhead : x.1 = h := Option.some.inj hf
      rcases List.mem_cons.mp he with rfl | hmem
      · exact hhead ▸ Nat.le_refl _
      · exact hhead ▸ Nat.le_of_lt (hbelow e hmem)
    | false =>
      rw [List.find?_cons_of_neg (p := fun e : Nat × α => which e.2) (Bool.eq_false_iff.mp hx)] at hf
      rcases List.mem_cons.mp he with rfl | hmem
      · exact absurd (hx.symm.trans hw) Bool.false_ne_true
      · exact ih hrest hf hmem

theorem State.findPattern_none {s : State} {p : BayPort} {frame : List Byte}
    (hno : ∀ k e, (k, e) ∈ s.table → e.matches p frame = false) : s.findPattern p frame = none := by
  rw [State.findPattern, Option.map_eq_none_iff, List.find?_eq_none]
  exact fun e he => Bool.eq_false_iff.mp (hno e.1 e.2 he)

/-- The chosen record is occupied and of one leg (R35). -/
theorem Record.matches_kind {r : Record} {p : BayPort} {frame : List Byte} (hm : r.matches p frame = true) :
    r.config.kind = .originatedSingle := by
  simp only [Record.matches, Bool.and_eq_true, beq_iff_eq] at hm
  obtain ⟨⟨⟨-, hkind⟩, -⟩, -⟩ := hm
  exact hkind

/-! ## When a record matches (R25, R35) -/

theorem RecState.occupied_iff_states (st : RecState) : st.occupied = true ↔ st = .armed ∨ st = .live ∨ st = .single ∨ st = .silent := by
  cases st <;> decide

/-- Two addresses agree outside some bits when each bit is one of those or is the same. -/
theorem or_eq_or_iff {w : Nat} (a b m : BitVec w) :
    a ||| m = b ||| m ↔ ∀ i : Fin w, m.getLsbD i.val = true ∨ a.getLsbD i.val = b.getLsbD i.val := by
  constructor
  · intro h i
    have hbit := congrArg (fun x => x.getLsbD i.val) h
    simp only [BitVec.getLsbD_or] at hbit
    cases hm : m.getLsbD i.val with
    | true => exact .inl rfl
    | false =>
      rw [hm, Bool.or_false, Bool.or_false] at hbit
      exact .inr hbit
  · intro h
    refine BitVec.eq_of_getLsbD_eq (fun i hi => ?_)
    rw [BitVec.getLsbD_or, BitVec.getLsbD_or]
    rcases h ⟨i, hi⟩ with hm | hab
    · rw [hm, Bool.or_true, Bool.or_true]
    · rw [hab]

/-- The bit that a record may ignore is the locally administered one, bit 1 of the first byte (R25). -/
theorem ignoredBits_getLsbD (ignore : Bool) (i : Fin 48) :
    (if ignore then (0x020000000000 : BitVec 48) else 0).getLsbD i.val = true ↔ ignore = true ∧ i.val = 41 := by
  revert i ignore
  decide

theorem StreamConfig.destMatches_iff (c : StreamConfig) (dest : BitVec 48) :
    c.destMatches dest = true ↔
      ∀ i : Fin 48, (c.ignoreLocal = true ∧ i.val = 41) ∨ dest.getLsbD i.val = c.dest.getLsbD i.val := by
  rw [StreamConfig.destMatches, beq_iff_eq, or_eq_or_iff]
  exact forall_congr' (fun i => or_congr_left (ignoredBits_getLsbD c.ignoreLocal i))

/-- When a record matches an untagged frame, field by field (R35). -/
theorem Record.matches_iff (r : Record) (p : BayPort) (frame : List Byte) :
    r.matches p frame = true ↔
      (r.state = .armed ∨ r.state = .live ∨ r.state = .single ∨ r.state = .silent)
        ∧ r.config.kind = .originatedSingle ∧ r.config.legMode = .single p
        ∧ (r.config.matchPresent = false
          ∨ ((∀ i : Fin 48, (r.config.ignoreLocal = true ∧ i.val = 41) ∨
                (addressAt frame 0).getLsbD i.val = r.config.dest.getLsbD i.val)
            ∧ wordAt frame 12 = r.config.frameType ∧ (r.config.appTag = 0 ∨ wordAt frame 14 = r.config.appTag))) := by
  simp only [Record.matches, Bool.and_eq_true, Bool.or_eq_true, Bool.not_eq_true', beq_iff_eq, RecState.occupied_iff_states,
    StreamConfig.destMatches_iff, typeWordOf, and_assoc]

/-- Settles O29, from what an origination leaves of its record, the entry a search finds, and when a record matches. -/
theorem patternSearchBooksTheFrame : Obligations.PatternSearchBooksTheFrame := by
  refine ⟨fun p f h s hw ht => ?_, fun p f s hg hf hno => ?_, fun p frame r => r.matches_iff p frame⟩
  · intro r
    obtain ⟨hg, hf, hfind⟩ := ht
    have hsearch : (s.looking (.bay p)).searchOn p f = (s.looking (.bay p)).originate h p f := by
      have hfind' : (s.looking (.bay p)).findPattern p f.bytes = some h := hfind
      rw [State.searchOn, hfind']
    have hmoves := s.searchOn_moves p f
    have hkind : r.config.kind = .originatedSingle :=
      Record.matches_kind (State.record_of_find hw (like := fun r => r.matches p f.bytes) hfind)
    obtain ⟨u, n, c, hbooked, htable, haccepted, hunheld, hheld⟩ := (s.looking (.bay p)).originate_spec h p f
    have hrecord : ((s.looking (.bay p)).originate h p f).record h = (r.taken f.arrival n c).settleSingle r := by
      rw [hbooked]
      exact State.booked_record _ _ _ _
    obtain ⟨hconfig, hheldMark, hlegB, hcounters, hsend, hlegA, hdeadline, hrunning⟩ := r.taken_fields f.arrival n c
    rw [hsearch] at hmoves
    rw [exec_patternSearch_granted hg hf, hsearch]
    refine ⟨_, rfl, hmoves, fun k hk => ?_, ?_⟩
    · rw [hbooked, State.booked_others _ _ _ hk, State.record, htable]
      rfl
    rw [hrecord]
    refine ⟨hconfig, hheldMark, hlegB, (congrArg RecCounters.accepted hcounters).trans haccepted, hlegA, hdeadline, hrunning,
      fun hs => ?_, fun hh => hsend.trans (hunheld hh), fun hh => ?_, fun k e hk he => ?_⟩
    · obtain ⟨hlive, hjoins, hmoved⟩ := Record.taken_wakes hkind hs f.arrival n c
      refine ⟨hlive, hjoins, ?_⟩
      rw [hbooked]
      exact State.booked_flag hmoved
    · obtain ⟨hu, hn, hc⟩ := hheld hh
      refine ⟨hsend.trans hn, ?_, ?_, hcounters.trans hc, fun q => ?_⟩
      · rw [hbooked, hu, State.booked, State.raiseIf_pool]
        rfl
      · rw [hbooked, hu, State.booked, State.raiseIf_tallies]
        rfl
      · rw [hbooked, hu, State.booked, State.port, State.raiseIf_ports]
        exact s.looking_descriptors (.bay p) q
    · obtain ⟨hrising, -⟩ := (Sparse.wf_iff _ _).mp hw
      exact Sparse.find_lowest hrising (which := fun r => r.matches p f.bytes) hfind hk he
  · intro u
    have hnone : (s.looking (.bay p)).findPattern p f.bytes = none := State.findPattern_none hno
    have hsearch : (s.looking (.bay p)).searchOn p f = (s.looking (.bay p)).count (.bay p) PortCounters.noRecord := by
      rw [State.searchOn, hnone]
    have hdiscard := s.discard_eq (.bay p) PortCounters.noRecord
    rw [exec_patternSearch_granted hg hf, hsearch]
    exact congrArg (fun v : State => Host.Outcome.next { v with rotation := nextInRotation (.bay p), inHand := none }) hdiscard

end Sys2Proof.Machine
end

section
namespace Sys2Proof.Machine

/-! ## The grant of a lookup whose record takes the frame, with ATTENTION and the tallies (R38, R60, R154) -/

/-- An arrival that has no copies of its record: it is not accepted, or the record is held (R54). -/
theorem State.arrivalRequest_uncopied {s : State} {p : Port} {f : RxFrame} {h : Nat}
    (hno : (((s.record h).place (arrivalOf p f)).accepted && !(s.record h).held) = false) :
    (s.record h).wantedOf (arrivalOf p f) (s.ownCopies p h) = 0
      ∧ answeredEnqueued Copy.isInjection (s.arrivalCopies p f h) (s.arrivalRequest p f h).2 = 0
      ∧ (s.arrivalRequest p f h).1.tallies = s.tallies := by
  have hcopies : s.arrivalCopies p f h = s.alwaysCopies p f.bytes := by
    rw [State.arrivalCopies, Record.copiesOf, hno, if_neg Bool.false_ne_true, List.append_nil]
  have htransit (c : Copy) (hc : c ∈ s.arrivalCopies p f h) : c.handle = none ∧ c.isInjection = false := by
    rw [hcopies] at hc
    obtain ⟨l, -, rfl⟩ := State.mem_alwaysCopies hc
    exact ⟨rfl, rfl⟩
  refine ⟨?_, answeredEnqueued_none _ (fun c hc => (htransit c hc).2), s.requestAdmission_tallies _ _ _ _ (fun c hc => (htransit c hc).1)⟩
  rw [Record.wantedOf, hno, if_neg Bool.false_ne_true]
  rfl

/-- What the grant leaves of the record, of ATTENTION, and of an arrival without copies of its record. -/
theorem State.lookupTakes_outcome {s : State} {p : Port} {f : RxFrame} {h : Nat} (ht : s.lookupTakes p f h) :
    let r := s.record h
    let x := arrivalOf p f
    ∃ t wanted got injected, exec (.lookupByKey p) s = .next t ∧ t.record h = r.arrived x wanted got injected
      ∧ t.flag .attention = (s.flag .attention || joinsAttention r (t.record h) (r.stages123 x))
      ∧ (((r.place x).accepted && !r.held) = false → wanted = 0 ∧ injected = 0 ∧ t.tallies = s.tallies) := by
  intro r x
  obtain ⟨got, injected, hrecord, -, hinjected, hflags⟩ :=
    (s.looking p).handleArrival_record h p f ((s.looking p).alwaysCopies p f.bytes) ((s.looking p).ownCopies p h)
  obtain ⟨-, -, -, htallies⟩ :=
    (s.looking p).handleArrival_traffic h p f ((s.looking p).alwaysCopies p f.bytes) ((s.looking p).ownCopies p h)
  refine ⟨_, _, got, injected, s.lookup_taken p f h ht, hrecord, ?_, fun hno => ?_⟩
  · rw [hflags, State.requestAdmission_flag _ _ _ _ _ (by decide : Flag.attention ≠ .pool), decide_eq_true rfl, Bool.and_true, hrecord]
    rfl
  · obtain ⟨hwanted, hnone, hkept⟩ := State.arrivalRequest_uncopied (s := s.looking p) hno
    exact ⟨hwanted, hinjected.trans hnone, htallies.trans hkept⟩

/-- A record that takes a lookup's frame is a two-leg record (R20, R34). -/
theorem State.lookupTakes_twoLeg {s : State} {p : Port} {f : RxFrame} {h : Nat} (ht : s.lookupTakes p f h) : (s.record h).twoLeg = true := by
  obtain ⟨-, -, -, hkind⟩ := ht
  cases p with
  | lane l => exact Record.twoLeg_of_subscribed hkind
  | bay q => exact Record.twoLeg_of_isPair hkind

/-! ## The state a grant sets (R29) -/

/-- Without a leg's change and an acceptance the state stands. -/
theorem Record.stateAfter_stays (r : Record) : r.stateAfter false false = r.state := by
  unfold Record.stateAfter
  cases r.state <;> rfl

/-- A leg's change alone leaves a record that is neither LIVE nor SINGLE in its state. -/
theorem Record.stateAfter_waiting {r : Record} (hl : r.state ≠ .live) (hs : r.state ≠ .single) (legChange : Bool) :
    r.stateAfter legChange false = r.state := by
  unfold Record.stateAfter
  generalize r.state = st at hl hs
  cases st with
  | live => exact absurd rfl hl
  | single => exact absurd rfl hs
  | free | armed | silent | retiring => rfl

/-- The state by the leg statuses, on a two-leg record (R29). -/
theorem Record.stateAnew_twoLeg {r : Record} (h2 : r.twoLeg = true) :
    r.stateAnew = if r.legA.status = .lost ∨ r.legB.status = .lost then .single else .live := by
  rw [Record.stateAnew, h2, Bool.true_and, Record.someLegLost]
  simp only [Bool.or_eq_true, beq_iff_eq]

/-- When only one leg may have changed, the legs differ by that leg's status. -/
theorem legsDiffer_one {r u : Record} {l : LegId} (hother : (u.leg l.other).status = (r.leg l.other).status) :
    legsDiffer r u = ((r.leg l).status != (u.leg l).status) := by
  rw [legsDiffer]
  cases l with
  | a =>
    have hb : u.legB.status = r.legB.status := hother
    rw [hb, bne_self_eq_false, Bool.or_false]
    rfl
  | b =>
    have ha : u.legA.status = r.legA.status := hother
    rw [ha, bne_self_eq_false, Bool.false_or]
    rfl

/-! ## A wild arrival (R46) -/

theorem Record.arrived_wild {r : Record} {x : Arrival} (hp : r.place x = .wild) (wanted got injected : Nat) :
    r.arrived x wanted got injected =
        { r with wildCount := r.wildCount + 1, counters := { r.counters with wild := bump r.counters.wild } }
      ∧ joinsAttention r (r.arrived x wanted got injected) (r.stages123 x) = false := by
  have hstages : r.stages123 x = { record := r.applyPlacement x .wild, placement := .wild, legChange := false, echo := false } := by
    unfold Record.stages123
    rw [hp]
  have hstate : (r.applyPlacement x .wild).stateAfter false false = r.state := Record.stateAfter_stays _
  have hjoins (u : Record) (hu : u.state = r.state) : joinsAttention r u (r.stages123 x) = false := by
    rw [joinsAttention, hstages, hu, bne_self_eq_false]
    rfl
  have harrived : r.arrived x wanted got injected = (r.applyPlacement x .wild).stage6 r (r.stages123 x) := by
    rw [Record.arrived, hstages]
    rfl
  have hrecord : r.arrived x wanted got injected =
      { r with wildCount := r.wildCount + 1, counters := { r.counters with wild := bump r.counters.wild } } := by
    rw [harrived, Record.stage6, hjoins _ (by rw [hstages]; exact hstate), hstages]
    simp only [Placement.accepted, hstate, Bool.or_false]
    rfl
  exact ⟨hrecord, hjoins _ (by rw [hrecord])⟩

/-! ## A duplicate (R43, R49, R52) -/

/-- The record of a duplicate once its leg has the arrival time (R43, R49). -/
def Record.heardAgain (r : Record) (x : Arrival) : Record := (r.applyPlacement x .duplicate).hearAgain x

/-- The record of a duplicate at the end of its twin stage (R49). -/
def Record.pairedAgain (r : Record) (x : Arrival) : Record := (r.heardAgain x).pairAgain x

/-- What a duplicate leaves: the twin stage's record, its state by a leg's change, and its place in the attention set (R29, R60). -/
theorem Record.arrived_duplicate {r : Record} {x : Arrival} (hp : r.place x = .duplicate) (wanted got injected : Nat) :
    let t := r.arrived x wanted got injected
    let joins := t.state != r.state || legsDiffer r (r.pairedAgain x) || (r.isEcho x && !r.echoNoted)
    t = { r.pairedAgain x with
        state := (r.pairedAgain x).stateAfter (legsDiffer r (r.pairedAgain x)) false
        inAttention := (r.pairedAgain x).inAttention || joins, echoNoted := (r.pairedAgain x).echoNoted || r.isEcho x }
      ∧ joinsAttention r t (r.stages123 x) = joins := by
  intro t joins
  have hecho : (r.heardAgain x).isEcho x = r.isEcho x := by
    have htwins : (r.heardAgain x).twins = r.twins := by
      rw [Record.heardAgain, Record.hearAgain, Record.setLeg_eq]
      rfl
    rw [Record.isEcho, Record.isEcho, Record.twinFor, Record.twinFor, htwins]
  have hstages : r.stages123 x =
      { record := r.pairedAgain x, placement := .duplicate, legChange := legsDiffer r (r.pairedAgain x), echo := r.isEcho x } := by
    rw [← hecho]
    unfold Record.stages123
    rw [hp]
    rfl
  have hjoins : joinsAttention r t (r.stages123 x) = joins := by
    rw [joinsAttention, hstages]
    exact congrArg (fun b => b || (r.isEcho x && !r.echoNoted)) (Bool.or_false _)
  refine ⟨?_, hjoins⟩
  have harrived : t = (r.pairedAgain x).stage6 r (r.stages123 x) := by
    show Record.arrived _ _ _ _ _ = _
    rw [Record.arrived, hstages]
    rfl
  have hlast : joinsAttention r { r.pairedAgain x with state := (r.pairedAgain x).stateAfter (legsDiffer r (r.pairedAgain x)) false }
      (r.stages123 x) = joins := by
    rw [← hjoins, harrived, hstages]
    rfl
  rw [← hlast, harrived, hstages, Record.stage6]
  rfl

/-- A duplicate's twin stage is the leg's alone: it leaves H, the marks, the epoch, the deadline and the other leg (R43, R49). -/
theorem Record.pairedAgain_kept (r : Record) (x : Arrival) :
    let u := r.pairedAgain x
    u.highest = r.highest ∧ u.seen = r.seen ∧ u.epoch = r.epoch ∧ u.deadline = r.deadline ∧ u.running = r.running ∧ u.wildCount = 0
      ∧ (u.leg x.leg).lastArrival = x.time ∧ u.leg x.leg.other = r.leg x.leg.other
      ∧ u.state = r.state ∧ u.inAttention = r.inAttention ∧ u.echoNoted = r.echoNoted ∧ u.config = r.config := by
  unfold Record.pairedAgain Record.pairAgain Record.heardAgain Record.hearAgain
  split
  · split
    · cases x.leg <;> exact ⟨rfl, rfl, rfl, rfl, rfl, rfl, rfl, rfl, rfl, rfl, rfl, rfl⟩
    · cases x.leg <;> exact ⟨rfl, rfl, rfl, rfl, rfl, rfl, rfl, rfl, rfl, rfl, rfl, rfl⟩
  · cases x.leg <;> exact ⟨rfl, rfl, rfl, rfl, rfl, rfl, rfl, rfl, rfl, rfl, rfl, rfl⟩

theorem Record.heardAgain_twinFor (r : Record) (x : Arrival) (seq : Word) : (r.heardAgain x).twinFor seq = r.twinFor seq := by
  rw [Record.heardAgain, Record.hearAgain, Record.setLeg_eq]
  rfl

/-- With no entry of its sequence a duplicate is unmatched (R49). -/
theorem Record.pairedAgain_unmatched {r : Record} {x : Arrival} (hn : r.twinFor x.seq = none) :
    let u := r.pairedAgain x
    u.twins = r.twins ∧ (u.leg x.leg).misses = (r.leg x.leg).misses ∧ (u.leg x.leg).status = (r.leg x.leg).status
      ∧ u.counters = { r.counters with duplicates := bump r.counters.duplicates, unmatched := bump r.counters.unmatched }
      ∧ r.isEcho x = false := by
  have hecho : r.isEcho x = false := by rw [Record.isEcho, hn]
  have hpaired : r.pairedAgain x = { r.heardAgain x with
      counters := { (r.heardAgain x).counters with unmatched := bump (r.heardAgain x).counters.unmatched } } := by
    rw [Record.pairedAgain, Record.pairAgain, r.heardAgain_twinFor, hn]
  rw [hpaired, Record.heardAgain, Record.hearAgain]
  refine ⟨?_, ?_, ?_, ?_, hecho⟩ <;> cases x.leg <;> rfl

/-- A duplicate whose sequence awaits its own leg is the twin: its entry goes and its leg is brought to OK (R49, R52). -/
theorem Record.pairedAgain_twin {r : Record} {x : Arrival} {e : TwinEntry} (he : r.twinFor x.seq = some e) (hl : e.awaits = x.leg) :
    let u := r.pairedAgain x
    u.twins = r.twins.filter (fun e => e.seq != x.seq) ∧ (u.leg x.leg).misses = 0 ∧ (u.leg x.leg).status = .ok
      ∧ u.counters = { r.counters with duplicates := bump r.counters.duplicates } ∧ r.isEcho x = false := by
  have hecho : r.isEcho x = false := by
    rw [Record.isEcho, he]
    exact bne_eq_false_iff_eq.mpr hl
  have hpaired : r.pairedAgain x = ((r.heardAgain x).dropTwin x.seq).setLeg x.leg ((r.heardAgain x).leg x.leg).heal := by
    rw [Record.pairedAgain, Record.pairAgain, r.heardAgain_twinFor, he]
    exact if_pos hl
  rw [hpaired, Record.heardAgain, Record.hearAgain]
  refine ⟨?_, ?_, ?_, ?_, hecho⟩ <;> cases x.leg <;> rfl

/-- A duplicate whose sequence awaits the other leg is an echo (R49). -/
theorem Record.pairedAgain_echo {r : Record} {x : Arrival} {e : TwinEntry} (he : r.twinFor x.seq = some e) (hl : e.awaits ≠ x.leg) :
    let u := r.pairedAgain x
    u.twins = r.twins ∧ (u.leg x.leg).misses = (r.leg x.leg).misses ∧ (u.leg x.leg).status = (r.leg x.leg).status
      ∧ u.counters = { r.counters with duplicates := bump r.counters.duplicates, echo := bump r.counters.echo }
      ∧ r.isEcho x = true := by
  have hecho : r.isEcho x = true := by
    rw [Record.isEcho, he]
    exact bne_iff_ne.mpr hl
  have hpaired : r.pairedAgain x = { r.heardAgain x with
      counters := { (r.heardAgain x).counters with echo := bump (r.heardAgain x).counters.echo } } := by
    rw [Record.pairedAgain, Record.pairAgain, r.heardAgain_twinFor, he]
    exact if_neg hl
  rw [hpaired, Record.heardAgain, Record.hearAgain]
  refine ⟨?_, ?_, ?_, ?_, hecho⟩ <;> cases x.leg <;> rfl

/-- What a duplicate leaves of its record but its twin list, its leg and its counters, and when it joins the set (R29, R43, R60). -/
theorem Record.arrived_duplicate_fields {r : Record} {x : Arrival} (hp : r.place x = .duplicate) (wanted got injected : Nat) :
    let t := r.arrived x wanted got injected
    let u := r.pairedAgain x
    let joins := joinsAttention r t (r.stages123 x)
    (∀ l, t.leg l = u.leg l) ∧ t.twins = u.twins ∧ t.counters = u.counters ∧ t.highest = u.highest ∧ t.seen = u.seen
      ∧ t.epoch = u.epoch ∧ t.deadline = u.deadline ∧ t.running = u.running ∧ t.wildCount = u.wildCount
      ∧ t.state = u.stateAfter (legsDiffer r u) false ∧ t.inAttention = (r.inAttention || joins)
      ∧ t.echoNoted = (r.echoNoted || r.isEcho x)
      ∧ joins = (t.state != r.state || legsDiffer r u || (r.isEcho x && !r.echoNoted)) := by
  intro t u joins
  obtain ⟨ht, hjoins⟩ := Record.arrived_duplicate hp wanted got injected
  obtain ⟨-, -, -, -, -, -, -, -, -, hmark, hecho, -⟩ := r.pairedAgain_kept x
  refine ⟨fun l => ?_, ?_, ?_, ?_, ?_, ?_, ?_, ?_, ?_, ?_, ?_, ?_, hjoins⟩
  · cases l
    · exact (congrArg Record.legA ht :)
    · exact (congrArg Record.legB ht :)
  · exact (congrArg Record.twins ht :)
  · exact (congrArg Record.counters ht :)
  · exact (congrArg Record.highest ht :)
  · exact (congrArg Record.seen ht :)
  · exact (congrArg Record.epoch ht :)
  · exact (congrArg Record.deadline ht :)
  · exact (congrArg Record.running ht :)
  · exact (congrArg Record.wildCount ht :)
  · exact (congrArg Record.state ht :)
  · exact (congrArg Record.inAttention ht).trans (by rw [hmark, ← hjoins])
  · exact (congrArg Record.echoNoted ht).trans (by rw [hecho])

/-- A duplicate that changes its leg's status at most: by that change the state is set anew, and the set is joined (R29, R60). -/
theorem Record.arrived_duplicate_state {r : Record} {x : Arrival} (h2 : r.twoLeg = true) (hp : r.place x = .duplicate)
    (wanted got injected : Nat) :
    let t := r.arrived x wanted got injected
    let joins := joinsAttention r t (r.stages123 x)
    ((t.leg x.leg).status = (r.leg x.leg).status → t.state = r.state ∧ joins = (r.isEcho x && !r.echoNoted))
      ∧ ((t.leg x.leg).status ≠ (r.leg x.leg).status → joins = true
          ∧ ((r.state = .live ∨ r.state = .single) →
              t.state = if t.legA.status = .lost ∨ t.legB.status = .lost then .single else .live)
          ∧ (r.state ≠ .live → r.state ≠ .single → t.state = r.state)) := by
  intro t joins
  obtain ⟨hlegs, -, -, -, -, -, -, -, -, hstate, -, -, hjoins⟩ := Record.arrived_duplicate_fields hp wanted got injected
  obtain ⟨-, -, -, -, -, -, -, hother, hkept, -, -, hconfig⟩ := r.pairedAgain_kept x
  have hchange : legsDiffer r (r.pairedAgain x) = ((r.leg x.leg).status != (t.leg x.leg).status) := by
    rw [legsDiffer_one (congrArg Leg.status hother), hlegs x.leg]
  rw [hchange] at hstate hjoins
  refine ⟨fun hsame => ?_, fun hdiffer => ?_⟩
  · rw [hsame, bne_self_eq_false] at hstate hjoins
    have hstays : t.state = r.state := hstate.trans ((Record.stateAfter_stays _).trans hkept)
    exact ⟨hstays, hjoins.trans (by rw [hstays, bne_self_eq_false, Bool.or_false, Bool.false_or])⟩
  · have hchanged : ((r.leg x.leg).status != (t.leg x.leg).status) = true := bne_iff_ne.mpr hdiffer.symm
    rw [hchanged] at hstate hjoins
    refine ⟨hjoins.trans (by rw [Bool.or_true, Bool.true_or]), fun hs => ?_, fun hl hs => ?_⟩
    · have htwo : (r.pairedAgain x).twoLeg = true := by rw [Record.twoLeg, hconfig]; exact h2
      have hlegA : (r.pairedAgain x).legA = t.legA := (hlegs .a).symm
      have hlegB : (r.pairedAgain x).legB = t.legB := (hlegs .b).symm
      have hanew := (r.pairedAgain x).stateAfter_anew true false (by rw [hkept]; rcases hs with h | h <;> rw [h] <;> rfl) rfl
      rw [hstate.trans hanew, Record.stateAnew_twoLeg htwo, hlegA, hlegB]
    · exact hstate.trans ((Record.stateAfter_waiting (by rw [hkept]; exact hl) (by rw [hkept]; exact hs) true).trans hkept)

/-- Settles O25, from what the record of a wild arrival and of a duplicate is left as, by the duplicate's twin entry. -/
theorem wildAndDuplicateArrivalsYieldNoCopies : Obligations.WildAndDuplicateArrivalsYieldNoCopies := by
  refine ⟨fun p f h s ht => ?_, fun p f h s ht => ?_⟩
  · intro r _ hp
    obtain ⟨t, wanted, got, injected, hexec, hrecord, hflag, huncopied⟩ := State.lookupTakes_outcome ht
    obtain ⟨hwild, hjoins⟩ := Record.arrived_wild hp wanted got injected
    rw [hrecord, hjoins, Bool.or_false] at hflag
    exact ⟨t, hexec, hrecord.trans hwild, hflag, (huncopied (by rw [hp]; rfl)).2.2⟩
  · intro r x hp
    obtain ⟨t, wanted, got, injected, hexec, hrecord, hflag, huncopied⟩ := State.lookupTakes_outcome ht
    obtain ⟨hlegs, htwins, hcounters, hhighest, hseen, hepoch, hdeadline, hrunning, hwildCount, -, hmark, hnoted, -⟩ :=
      Record.arrived_duplicate_fields hp wanted got injected
    obtain ⟨hsame, hdiffer⟩ := Record.arrived_duplicate_state (State.lookupTakes_twoLeg ht) hp wanted got injected
    obtain ⟨khighest, kseen, kepoch, kdeadline, krunning, kwildCount, ktime, kother, -⟩ := r.pairedAgain_kept x
    rw [← hrecord] at hlegs htwins hcounters hhighest hseen hepoch hdeadline hrunning hwildCount hmark hnoted hsame hdiffer
    have hjoin (hj : joinsAttention r (t.record h) (r.stages123 x) = true) :
        (t.record h).inAttention = true ∧ t.flag .attention = true :=
      ⟨by rw [hmark, hj, Bool.or_true], by rw [hflag, hj, Bool.or_true]⟩
    have hjoinNot (hj : joinsAttention r (t.record h) (r.stages123 x) = false) :
        (t.record h).inAttention = r.inAttention ∧ t.flag .attention = s.flag .attention :=
      ⟨by rw [hmark, hj, Bool.or_false], by rw [hflag, hj, Bool.or_false]⟩
    refine ⟨t, hexec, (huncopied (by rw [hp]; rfl)).2.2, hhighest.trans khighest, hseen.trans kseen, hepoch.trans kepoch,
      hdeadline.trans kdeadline, hrunning.trans krunning, hwildCount.trans kwildCount, by rw [hlegs]; exact ktime,
      by rw [hlegs]; exact kother, ?_⟩
    intro joins joinsNot stays
    cases he : r.twinFor x.seq with
    | none =>
      obtain ⟨ktwins, kmisses, kstatus, kcounters, kecho⟩ := Record.pairedAgain_unmatched he
      obtain ⟨hstays, hjoins⟩ := hsame (by rw [hlegs]; exact kstatus)
      rw [kecho] at hjoins hnoted
      exact ⟨hjoinNot hjoins, hstays, hnoted.trans (Bool.or_false _), htwins.trans ktwins, by rw [hlegs]; exact kmisses,
        by rw [hlegs]; exact kstatus, hcounters.trans kcounters⟩
    | some e =>
      by_cases hl : e.awaits = x.leg
      · obtain ⟨ktwins, kmisses, kstatus, kcounters, kecho⟩ := Record.pairedAgain_twin he hl
        have hok : ((t.record h).leg x.leg).status = .ok := by rw [hlegs]; exact kstatus
        rw [kecho] at hsame hnoted
        refine (if_pos hl).mpr ⟨htwins.trans ktwins, by rw [hlegs]; exact kmisses, hok, hnoted.trans (Bool.or_false _), fun hwas => ?_,
          fun hwas => ?_, hcounters.trans kcounters⟩
        · obtain ⟨hstays, hjoins⟩ := hsame (hok.trans hwas.symm)
          exact ⟨hjoinNot hjoins, hstays⟩
        · obtain ⟨hjoins, hanew, hwaits⟩ := hdiffer (by rw [hok]; exact hwas.symm)
          exact ⟨hjoin hjoins, hanew, hwaits⟩
      · obtain ⟨ktwins, kmisses, kstatus, kcounters, kecho⟩ := Record.pairedAgain_echo he hl
        obtain ⟨hstays, hjoins⟩ := hsame (by rw [hlegs]; exact kstatus)
        rw [kecho, Bool.true_and] at hjoins
        rw [kecho, Bool.or_true] at hnoted
        refine (if_neg hl).mpr ⟨htwins.trans ktwins, by rw [hlegs]; exact kmisses, by rw [hlegs]; exact kstatus, hnoted, hstays,
          fun hfirst => hjoin (by rw [hjoins, hfirst]; rfl), fun hagain => hjoinNot (by rw [hjoins, hagain]; rfl),
          hcounters.trans kcounters⟩

end Sys2Proof.Machine
end

section
namespace Sys2Proof.Machine

/-! ## An accepted first copy, stage by stage (R42 to R53) -/

theorem Placement.accepted_cases {p : Placement} (h : p.accepted = true) : p = .resync ∨ p = .advance ∨ p = .atTop ∨ p = .late := by
  cases p with
  | resync => exact .inl rfl
  | advance => exact .inr (.inl rfl)
  | atTop => exact .inr (.inr (.inl rfl))
  | late => exact .inr (.inr (.inr rfl))
  | duplicate => exact absurd h Bool.false_ne_true
  | wild => exact absurd h Bool.false_ne_true

theorem LegId.other_ne (l : LegId) : l.other ≠ l := by cases l <;> exact LegId.noConfusion

theorem LegId.eq_other {l k : LegId} (h : k ≠ l) : k = l.other := by
  match l, k, h with
  | .a, .b, _ | .b, .a, _ => rfl
  | .a, .a, h | .b, .b, h => exact absurd rfl h

/-- An arrival placed at H has the sequence of H (R43). -/
theorem Record.place_atTop_highest {r : Record} {x : Arrival} (h : r.place x = .atTop) : r.highest = x.seq := by
  have hr : r.resyncs x = false := by
    refine Bool.eq_false_iff.mpr (fun hr => ?_)
    rw [(r.place_resync_iff x).mpr hr] at h
    exact Placement.noConfusion h
  have hd : r.distance x.seq = 0 := by
    refine Decidable.byContradiction (fun h0 => ?_)
    rw [Record.place_unsynced hr, if_neg h0] at h
    repeat' split at h
    all_goals exact Placement.noConfusion h
  have hdistance : (x.seq - r.highest).toNat = 0 := hd
  bv_omega

/-- The record of an accepted arrival before its twin stage: placed, and heard on its leg (R42 to R48). -/
def Record.firstHeard (r : Record) (x : Arrival) : Record := (r.applyPlacement x (r.place x)).hearFirst x

theorem Record.paired_eq (r : Record) (x : Arrival) : r.paired x = (r.firstHeard x).pairFirst x := rfl

/-- Before the twin stage the leg has the arrival and the other leg is as it was (R48). -/
theorem Record.firstHeard_legs (r : Record) (x : Arrival) :
    (r.firstHeard x).leg x.leg = { lastArrival := x.time, status := .ok, misses := 0 }
      ∧ (r.firstHeard x).leg x.leg.other = r.leg x.leg.other := by
  refine ⟨Record.setLeg_leg _ _ _, (Record.setLeg_other _ _ _).trans ?_⟩
  cases r.place x <;> cases x.leg <;> rfl

theorem Record.firstHeard_config (r : Record) (x : Arrival) : (r.firstHeard x).config = r.config := by
  rw [Record.firstHeard, Record.hearFirst, Record.setLeg_eq]
  cases r.place x <;> rfl

/-- What a resync makes of the window and the twin list (R42). -/
theorem Record.firstHeard_resync {r : Record} {x : Arrival} (hp : r.place x = .resync) :
    let g := r.firstHeard x
    g.twins = [] ∧ g.epoch = x.epoch ∧ g.noHighest = false ∧ g.seen = 0 ∧ g.highest = x.seq := by
  rw [Record.firstHeard, Record.hearFirst, Record.setLeg_eq, hp]
  exact ⟨rfl, rfl, rfl, rfl, rfl⟩

/-- No other placement touches the twin list, the epoch or the marker (R43 to R45). -/
theorem Record.firstHeard_unsynced {r : Record} {x : Arrival} (hp : r.place x ≠ .resync) :
    let g := r.firstHeard x
    g.twins = r.twins ∧ g.epoch = r.epoch ∧ g.noHighest = r.noHighest := by
  rw [Record.firstHeard, Record.hearFirst, Record.setLeg_eq]
  generalize r.place x = p at hp
  cases p with
  | resync => exact absurd rfl hp
  | advance | atTop | late | duplicate | wild => exact ⟨rfl, rfl, rfl⟩

/-- The counters of an accepted arrival before its twin stage, and H (R42 to R46). -/
theorem Record.firstHeard_accepted {r : Record} {x : Arrival} (ha : (r.place x).accepted = true) :
    let g := r.firstHeard x
    g.wildCount = 0 ∧ (r.place x ≠ .late → g.highest = x.seq) ∧ (r.place x = .late → g.highest = r.highest)
      ∧ g.counters = { r.counters with
          accepted := bump r.counters.accepted
          lateFirst := if r.place x = .late then bump r.counters.lateFirst else r.counters.lateFirst
          resyncs := if r.place x = .resync then bump r.counters.resyncs else r.counters.resyncs
          missed := if r.place x = .advance then g.counters.missed else r.counters.missed } := by
  rw [Record.firstHeard, Record.hearFirst, Record.setLeg_eq]
  rcases Placement.accepted_cases ha with hp | hp | hp | hp
  · rw [hp]
    exact ⟨rfl, fun _ => rfl, fun h => Placement.noConfusion h, rfl⟩
  · rw [hp]
    exact ⟨rfl, fun _ => rfl, fun h => Placement.noConfusion h, rfl⟩
  · have htop := Record.place_atTop_highest hp
    rw [hp]
    exact ⟨rfl, fun _ => htop, fun h => Placement.noConfusion h, rfl⟩
  · rw [hp]
    exact ⟨rfl, fun h => absurd rfl h, fun _ => rfl, rfl⟩

/-- The twin stage leaves all but the twin list, the legs and the two twin-miss counters (R48, R50). -/
theorem Record.paired_kept (r : Record) (x : Arrival) :
    let q := r.paired x
    let g := r.firstHeard x
    q.wildCount = g.wildCount ∧ q.highest = g.highest ∧ q.epoch = g.epoch ∧ q.noHighest = g.noHighest ∧ q.seen = g.seen
      ∧ q.counters = { g.counters with twinMissA := q.counters.twinMissA, twinMissB := q.counters.twinMissB } := by
  have h := (r.firstHeard x).pairFirst_eq x
  exact ⟨(congrArg Record.wildCount h :), (congrArg Record.highest h :), (congrArg Record.epoch h :), (congrArg Record.noHighest h :),
    (congrArg Record.seen h :), (congrArg Record.counters h :)⟩

/-- The twin stage leaves each leg its last arrival time (R48, R51). -/
theorem Record.paired_lastArrival (r : Record) (x : Arrival) (l : LegId) :
    ((r.paired x).leg l).lastArrival = ((r.firstHeard x).leg l).lastArrival := by
  rw [r.paired_eq, Record.pairFirst]
  split
  · show ((r.firstHeard x).makeRoom.leg l).lastArrival = _
    rw [Record.makeRoom]
    split
    · rfl
    · split
      · rename_i oldest _ _ _
        cases oldest.awaits <;> cases l <;> rfl
      · rfl
  · split <;> cases l <;> rfl

/-- The new entry hangs on the settings of the record alone (R47). -/
theorem Record.firstHeard_newTwin (r : Record) (x : Arrival) : (r.firstHeard x).newTwin x = r.newTwin x := by
  rw [Record.newTwin, r.firstHeard_config]
  rfl

/-- The twin list of an accepted arrival, by the entry of its sequence (R42, R48, R50). -/
theorem Record.paired_twins_resync {r : Record} {x : Arrival} (hp : r.place x = .resync) : (r.paired x).twins = [r.newTwin x] := by
  obtain ⟨htwins, -⟩ := Record.firstHeard_resync hp
  have hnone : (r.firstHeard x).twinFor x.seq = none := by rw [Record.twinFor, htwins]; rfl
  rw [r.paired_eq, Record.pairFirst_twins, hnone, htwins, r.firstHeard_newTwin]
  rfl

theorem Record.firstHeard_twinFor {r : Record} {x : Arrival} (hp : r.place x ≠ .resync) :
    (r.firstHeard x).twinFor x.seq = r.twinFor x.seq := by
  obtain ⟨htwins, -⟩ := Record.firstHeard_unsynced hp
  rw [Record.twinFor, htwins, Record.twinFor]

theorem Record.paired_twins_own {r : Record} {x : Arrival} (hp : r.place x ≠ .resync) {e : TwinEntry} (he : r.twinFor x.seq = some e)
    (hl : e.awaits = x.leg) : (r.paired x).twins = r.twins.filter (fun e => e.seq != x.seq) := by
  obtain ⟨htwins, -⟩ := Record.firstHeard_unsynced hp
  rw [r.paired_eq, Record.pairFirst_twins, Record.firstHeard_twinFor hp, he, htwins]
  exact if_pos hl

theorem Record.paired_twins_other {r : Record} {x : Arrival} (hp : r.place x ≠ .resync) {e : TwinEntry} (he : r.twinFor x.seq = some e)
    (hl : e.awaits ≠ x.leg) : (r.paired x).twins = r.twins.filter (fun e => e.seq != x.seq) ++ [r.newTwin x] := by
  obtain ⟨htwins, -⟩ := Record.firstHeard_unsynced hp
  rw [r.paired_eq, Record.pairFirst_twins, Record.firstHeard_twinFor hp, he, htwins, r.firstHeard_newTwin]
  exact if_neg hl

theorem Record.paired_twins_fresh {r : Record} {x : Arrival} (hp : r.place x ≠ .resync) (hn : r.twinFor x.seq = none)
    (hlen : r.twins.length < 4) : (r.paired x).twins = r.twins ++ [r.newTwin x] := by
  obtain ⟨htwins, -⟩ := Record.firstHeard_unsynced hp
  rw [r.paired_eq, Record.pairFirst_twins, Record.firstHeard_twinFor hp, hn, htwins, r.firstHeard_newTwin]
  dsimp only
  rw [if_neg (Nat.not_le.mpr hlen)]

/-! ## With and without an eviction (R50, R51) -/

/-- The accepted arrival evicts the oldest entry: a new entry on a list of four that no resync has emptied (R42, R50). -/
theorem Record.firstHeard_evictsFor (r : Record) (x : Arrival) :
    (r.firstHeard x).evictsFor x.seq ↔ 4 ≤ r.twins.length ∧ r.twinFor x.seq = none ∧ r.place x ≠ .resync := by
  rw [Record.evictsFor]
  by_cases hp : r.place x = .resync
  · obtain ⟨htwins, -⟩ := Record.firstHeard_resync hp
    rw [htwins]
    exact ⟨fun ⟨hlen, _⟩ => absurd hlen (by decide), fun ⟨_, _, h⟩ => absurd hp h⟩
  · obtain ⟨htwins, -⟩ := Record.firstHeard_unsynced hp
    rw [Record.firstHeard_twinFor hp, htwins]
    exact ⟨fun ⟨hlen, hn⟩ => ⟨hlen, hn, hp⟩, fun ⟨hlen, hn, _⟩ => ⟨hlen, hn⟩⟩

theorem Record.leg_congr {r u : Record} (ha : u.legA = r.legA) (hb : u.legB = r.legB) (l : LegId) : u.leg l = r.leg l := by
  cases l
  · exact ha
  · exact hb

theorem Record.paired_quiet {r : Record} {x : Arrival} (h : ¬ (r.firstHeard x).evictsFor x.seq) :
    (∀ l, (r.paired x).leg l = (r.firstHeard x).leg l) ∧ (r.paired x).counters = (r.firstHeard x).counters := by
  obtain ⟨ha, hb, hc⟩ := (r.firstHeard x).pairFirst_quiet x h
  exact ⟨Record.leg_congr ha hb, hc⟩

theorem Record.miss_leg (r : Record) (l : LegId) :
    (r.miss l).leg l = (r.leg l).miss r.config.missThreshold ∧ (r.miss l).leg l.other = r.leg l.other := by
  cases l <;> exact ⟨rfl, rfl⟩

/-- With an eviction the oldest entry's leg counts a miss, and the other leg stands (R50, R51). -/
theorem Record.paired_evicts {r : Record} {x : Arrival} (h : (r.firstHeard x).evictsFor x.seq) {oldest : TwinEntry}
    {rest : List TwinEntry} (ht : r.twins = oldest :: rest) :
    let q := r.paired x
    let g := r.firstHeard x
    q.twins = rest ++ [r.newTwin x] ∧ q.leg oldest.awaits = (g.leg oldest.awaits).miss r.config.missThreshold
      ∧ q.leg oldest.awaits.other = g.leg oldest.awaits.other
      ∧ q.counters.twinMissA = (if oldest.awaits = .a then bump g.counters.twinMissA else g.counters.twinMissA)
      ∧ q.counters.twinMissB = (if oldest.awaits = .b then bump g.counters.twinMissB else g.counters.twinMissB) := by
  obtain ⟨-, -, hp⟩ := (r.firstHeard_evictsFor x).mp h
  obtain ⟨htwins, -⟩ := Record.firstHeard_unsynced hp
  have hpaired := (r.firstHeard x).pairFirst_evicts x oldest rest (htwins.trans ht) h
  obtain ⟨hleg, hother⟩ := ({ r.firstHeard x with twins := rest } : Record).miss_leg oldest.awaits
  obtain ⟨hmissA, hmissB⟩ := ({ r.firstHeard x with twins := rest } : Record).miss_counters oldest.awaits
  have hlegs (l : LegId) : (r.paired x).leg l = (({ r.firstHeard x with twins := rest } : Record).miss oldest.awaits).leg l := by
    rw [r.paired_eq, hpaired]
    cases l <;> rfl
  have hkept (l : LegId) : ({ r.firstHeard x with twins := rest } : Record).leg l = (r.firstHeard x).leg l := by cases l <;> rfl
  have hthreshold : ({ r.firstHeard x with twins := rest } : Record).config.missThreshold = r.config.missThreshold :=
    congrArg StreamConfig.missThreshold (r.firstHeard_config x)
  rw [hkept, hthreshold] at hleg
  rw [hkept] at hother
  refine ⟨?_, (hlegs _).trans hleg, (hlegs _).trans hother, ?_, ?_⟩
  · rw [r.paired_eq, hpaired, ← r.firstHeard_newTwin, Record.miss_eq]
    rfl
  · rw [r.paired_eq, hpaired]
    exact hmissA
  · rw [r.paired_eq, hpaired]
    exact hmissB

/-! ## The record an accepted first copy leaves (R29, R53, R58, R60) -/

/-- The record of an accepted arrival, field by field, by that of its twin stage. -/
theorem Record.arrived_first_fields {r : Record} {x : Arrival} (ha : (r.place x).accepted = true) (wanted got injected : Nat) :
    let t := r.arrived x wanted got injected
    let q := r.paired x
    let joins := joinsAttention r t (r.stages123 x)
    (∀ l, t.leg l = q.leg l) ∧ t.twins = q.twins ∧ t.highest = q.highest ∧ t.epoch = q.epoch ∧ t.noHighest = q.noHighest
      ∧ t.wildCount = q.wildCount ∧ t.deadline = x.time + milliseconds (renewalInterval x.renewal r.config.renewalLimit)
      ∧ t.running = true ∧ t.seen = (q.settle x.seq wanted got injected).seen
      ∧ t.counters = { q.counters with refused := t.counters.refused, injected := t.counters.injected }
      ∧ t.counters.refused = (q.settle x.seq wanted got injected).counters.refused
      ∧ t.state = q.stateAfter (r.stages123 x).legChange true ∧ t.echoNoted = r.echoNoted ∧ t.inAttention = (r.inAttention || joins)
      ∧ joins = (t.state != r.state || (r.stages123 x).legChange || r.place x == .resync) := by
  intro t q joins
  obtain ⟨-, -, hecho⟩ := r.stages123_first x ha
  have ht := r.arrived_first x wanted got injected ha
  have hjoins : joins = (t.state != r.state || (r.stages123 x).legChange || r.place x == .resync) := by
    show joinsAttention r t (r.stages123 x) = _
    rw [joinsAttention, hecho, Record.stages123_placement, Bool.false_and, Bool.or_false]
  have hcounters : t.counters = _ := congrArg Record.counters ht
  refine ⟨Record.leg_congr (congrArg Record.legA ht :) (congrArg Record.legB ht :), (congrArg Record.twins ht :),
    (congrArg Record.highest ht :), (congrArg Record.epoch ht :), (congrArg Record.noHighest ht :), (congrArg Record.wildCount ht :),
    (congrArg Record.deadline ht :), (congrArg Record.running ht :), (congrArg Record.seen ht :), ?_, ?_, (congrArg Record.state ht :),
    (congrArg Record.echoNoted ht :), ?_, hjoins⟩
  · rw [hcounters]
  · rw [hcounters]
  · rw [hjoins]
    exact (congrArg Record.inAttention ht :)

/-- Stage 5 writes one mark at most, that of the sequence (R58). -/
theorem Record.settle_seen (r : Record) (seq : Word) (wanted got injected : Nat) :
    (r.settle seq wanted got injected).seen = r.seen ∨ (r.settle seq wanted got injected).seen = (r.mark seq).seen := by
  unfold Record.settle
  dsimp only
  split <;> split <;> simp [Record.inject, Record.refuse]

/-- After a resync no mark but that of H can be set (R42, R58). -/
theorem Record.settle_resync {r : Record} {x : Arrival} (hp : r.place x = .resync) (wanted got injected : Nat) {i : Nat} (hi : 1 ≤ i) :
    ((r.paired x).settle x.seq wanted got injected).seen.getLsbD i = false := by
  obtain ⟨-, -, -, hseen, hhighest⟩ := Record.firstHeard_resync hp
  obtain ⟨-, khighest, -, -, kseen, -⟩ := r.paired_kept x
  have hbehind : (r.paired x).behind x.seq = 0 := by
    rw [Record.behind, khighest.trans hhighest, BitVec.sub_self]
    rfl
  rcases (r.paired x).settle_seen x.seq wanted got injected with h | h
  · rw [h, kseen, hseen]
    exact BitVec.getLsbD_zero
  · rw [h, Record.mark, hbehind, kseen, hseen]
    show (0#64 ||| 1#64 <<< 0).getLsbD i = false
    rw [BitVec.zero_or, BitVec.shiftLeft_zero, BitVec.getLsbD_one, decide_eq_false (by omega : ¬ i = 0), Bool.and_false]

/-- A first copy that had no copy to make is marked seen, and counts neither "refused" nor, with none enqueued, "injected" (R54, R58). -/
theorem Record.arrived_held {r : Record} {x : Arrival} (ha : (r.place x).accepted = true) (got : Nat) :
    let t := r.arrived x 0 got 0
    t.marked x.seq = true ∧ t.counters.refused = r.counters.refused ∧ t.counters.injected = r.counters.injected := by
  intro t
  have hwindow := r.paired_behind x ha
  obtain ⟨hrefused, -⟩ := r.paired_unmarked x ha
  obtain ⟨-, -, hhighest, -, -, -, -, -, hseen, -, hkept, -⟩ := Record.arrived_first_fields ha 0 got 0
  have hsettle : (r.paired x).settle x.seq 0 got 0 = (r.paired x).mark x.seq := by
    unfold Record.settle
    dsimp only
    rw [if_neg (Nat.lt_irrefl 0), if_pos (Or.inl rfl)]
  rw [hsettle] at hseen hkept
  refine ⟨(Record.marked_iff _ _).mpr ?_, hkept.trans hrefused, ?_⟩
  · have hbehind : (t.highest - x.seq).toNat = (r.paired x).behind x.seq := by rw [Record.behind, hhighest]
    rw [hbehind, hseen]
    exact ⟨hwindow, Record.mark_marked hwindow⟩
  · exact (r.arrived_injected x 0 got 0 ha).trans (if_neg (Nat.lt_irrefl 0))

/-- The stages' change of a leg, when no eviction counts a miss: the arrival's leg was not OK (R48, R60). -/
theorem Record.stages123_healthy {r : Record} {x : Arrival} (ha : (r.place x).accepted = true)
    (hno : ¬ (r.firstHeard x).evictsFor x.seq) (hok : (r.leg x.leg).status = .ok) : (r.stages123 x).legChange = false := by
  obtain ⟨-, hchange, -⟩ := r.stages123_first x ha
  obtain ⟨hlegs, -⟩ := Record.paired_quiet hno
  obtain ⟨hleg, hother⟩ := r.firstHeard_legs x
  have hplaced (l : LegId) : (r.applyPlacement x (r.place x)).leg l = r.leg l := by cases r.place x <;> cases l <;> rfl
  have hfirst : legsDiffer (r.applyPlacement x (r.place x)) (r.firstHeard x) = false := by
    rw [legsDiffer_one (l := x.leg) (by rw [hother, hplaced]), hplaced, hleg, hok]
    rfl
  have hsecond : legsDiffer (r.firstHeard x) (r.paired x) = false := by
    rw [legsDiffer_one (l := x.leg) (by rw [hlegs]), hlegs, bne_self_eq_false]
  exact hchange.trans (by rw [← Record.firstHeard, ← r.paired_eq, hfirst, hsecond]; rfl)

/-- The state of an accepted two-leg record is the one its legs give (R29). -/
theorem Record.arrived_first_state {r : Record} {x : Arrival} (ha : (r.place x).accepted = true) (h2 : r.twoLeg = true)
    (ho : r.state.occupied = true) (hl : r.stateLawful = true) (wanted got injected : Nat) :
    let t := r.arrived x wanted got injected
    t.state = if t.legA.status = .lost ∨ t.legB.status = .lost then .single else .live := by
  intro t
  obtain ⟨hlegs, -, -, -, -, -, -, -, -, -, -, hstate, -⟩ := Record.arrived_first_fields ha wanted got injected
  obtain ⟨hkept, hconfig, -⟩ := r.paired_same x
  have htwo : (r.paired x).twoLeg = true := by rw [Record.twoLeg, hconfig]; exact h2
  have hlegA : (r.paired x).legA = t.legA := (hlegs .a).symm
  have hlegB : (r.paired x).legB = t.legB := (hlegs .b).symm
  have hanew : (r.paired x).stateAfter (r.stages123 x).legChange true = (r.paired x).stateAnew := by
    by_cases harriving : r.state.arriving = true
    · cases hc : (r.stages123 x).legChange with
      | true => exact (r.paired x).stateAfter_anew true true (by rw [hkept]; exact harriving) rfl
      | false =>
        obtain ⟨hstages, -⟩ := r.stages123_first x ha
        obtain ⟨hsameA, hsameB⟩ := r.stages123_legs x hc
        rw [hstages] at hsameA hsameB
        have hsame : (r.paired x).stateAnew = r.stateAnew := Record.stateAnew_congr hconfig hsameA hsameB
        have hlawful : r.state = r.stateAnew := by
          rw [Record.stateLawful, harriving, Bool.not_true, Bool.false_or] at hl
          exact eq_of_beq hl
        rw [hsame, ← hlawful]
        rcases (r.paired x).stateAfter_cases false true with h | h
        · rw [h, hkept]
        · rw [h, hsame, ← hlawful]
    · unfold Record.stateAfter
      rw [hkept]
      revert ho harriving
      generalize r.state = st
      cases st <;> simp [RecState.occupied, RecState.arriving]
  rw [hstate, hanew, Record.stateAnew_twoLeg htwo, hlegA, hlegB]

/-- The counters of an accepted first copy (R27, R42 to R45, R51). -/
theorem Record.arrived_first_counters {r : Record} {x : Arrival} (ha : (r.place x).accepted = true) (wanted got injected : Nat) :
    let t := r.arrived x wanted got injected
    t.counters = { r.counters with
      accepted := bump r.counters.accepted
      lateFirst := if r.place x = .late then bump r.counters.lateFirst else r.counters.lateFirst
      resyncs := if r.place x = .resync then bump r.counters.resyncs else r.counters.resyncs
      missed := if r.place x = .advance then t.counters.missed else r.counters.missed
      twinMissA := t.counters.twinMissA, twinMissB := t.counters.twinMissB
      refused := t.counters.refused, injected := t.counters.injected } := by
  intro t
  obtain ⟨-, -, -, -, -, -, -, -, -, hcounters, -⟩ := Record.arrived_first_fields ha wanted got injected
  obtain ⟨-, -, -, -, -, kcounters⟩ := r.paired_kept x
  obtain ⟨-, -, -, gcounters⟩ := Record.firstHeard_accepted ha
  have hmissed : t.counters.missed = (r.firstHeard x).counters.missed :=
    (congrArg RecCounters.missed hcounters :).trans (congrArg RecCounters.missed kcounters :)
  have htwinA : t.counters.twinMissA = (r.paired x).counters.twinMissA := (congrArg RecCounters.twinMissA hcounters :)
  have htwinB : t.counters.twinMissB = (r.paired x).counters.twinMissB := (congrArg RecCounters.twinMissB hcounters :)
  calc t.counters = { (r.paired x).counters with refused := t.counters.refused, injected := t.counters.injected } := hcounters
    _ = { (r.firstHeard x).counters with
          twinMissA := t.counters.twinMissA, twinMissB := t.counters.twinMissB
          refused := t.counters.refused, injected := t.counters.injected } := by rw [kcounters, htwinA, htwinB]
    _ = _ := by rw [gcounters, hmissed]

/-- Settles O26: the fields of the arrived record, by its placement, its twin entry, an eviction or none, and the hold. -/
theorem firstCopyIsAccepted : Obligations.FirstCopyIsAccepted := by
  intro p f h s ht r x ms new others evicts ha
  obtain ⟨t, wanted, got, injected, hexec, hrecord, hflag, huncopied⟩ := State.lookupTakes_outcome ht
  have hcounters := Record.arrived_first_counters ha wanted got injected
  obtain ⟨hlegs, htwins, hhighest, hepoch, hnoHighest, hwild, hdeadline, hrunning, hseen, hpaired, -, -, hecho, hmark, hjoins⟩ :=
    Record.arrived_first_fields ha wanted got injected
  obtain ⟨kwild, khighest, kepoch, knoHighest, -, kcounters⟩ := r.paired_kept x
  obtain ⟨gwild, gforward, glate, gcounters⟩ := Record.firstHeard_accepted ha
  obtain ⟨gleg, gother⟩ := r.firstHeard_legs x
  have hevicts : (r.firstHeard x).evictsFor x.seq ↔ evicts := r.firstHeard_evictsFor x
  have htime : ((r.paired x).leg x.leg).lastArrival = x.time := (r.paired_lastArrival x x.leg).trans (congrArg Leg.lastArrival gleg)
  have hstate := fun ho hl => Record.arrived_first_state ha (State.lookupTakes_twoLeg ht) ho hl wanted got injected
  have hheld := fun (hh : r.held = true) => huncopied (by rw [hh]; exact Bool.and_false _)
  have hchanged : (r.stages123 x).legChange = false → (t.record h).legA.status = r.legA.status ∧ (t.record h).legB.status = r.legB.status := by
    intro hc
    obtain ⟨hstages, -⟩ := r.stages123_first x ha
    have hkept := r.stages123_legs x hc
    rw [hstages] at hkept
    rw [hrecord]
    exact ⟨(congrArg Leg.status (hlegs .a)).trans hkept.1, (congrArg Leg.status (hlegs .b)).trans hkept.2⟩
  rw [← hrecord] at hcounters hlegs htwins hhighest hepoch hnoHighest hwild hdeadline hrunning hseen hpaired hecho hmark hjoins hstate
  have hjoin (hj : joinsAttention r (t.record h) (r.stages123 x) = true) : (t.record h).inAttention = true ∧ t.flag .attention = true :=
    ⟨by rw [hmark, hj, Bool.or_true], by rw [hflag, hj, Bool.or_true]⟩
  refine ⟨t, hexec, hcounters, hdeadline, hrunning, by rw [hlegs]; exact htime, hwild.trans (kwild.trans gwild),
    fun hp => hhighest.trans (khighest.trans (gforward hp)), fun hp => hhighest.trans (khighest.trans (glate hp)), fun hno => ?_,
    fun hp => ?_, fun hp => ?_, fun hev oldest rest hlist => ?_, hstate, fun hany => hjoin ?_, fun hp hno hsame hok => ?_, hecho,
    fun hh => ?_⟩
  · obtain ⟨klegs, kquiet⟩ := Record.paired_quiet (mt hevicts.mp hno)
    have hall : (t.record h).counters.twinMissA = r.counters.twinMissA ∧ (t.record h).counters.twinMissB = r.counters.twinMissB := by
      rw [hpaired, kquiet, gcounters]
      exact ⟨rfl, rfl⟩
    exact ⟨by rw [hlegs, klegs]; exact gleg, by rw [hlegs, klegs]; exact gother, hall⟩
  · obtain ⟨-, gepoch, gnoHighest, -⟩ := Record.firstHeard_resync hp
    exact ⟨htwins.trans (Record.paired_twins_resync hp), hepoch.trans (kepoch.trans gepoch), hnoHighest.trans (knoHighest.trans gnoHighest),
      fun i hi => by rw [hseen]; exact Record.settle_resync hp wanted got injected hi⟩
  · obtain ⟨-, gepoch, gnoHighest⟩ := Record.firstHeard_unsynced hp
    exact ⟨hepoch.trans (kepoch.trans gepoch), hnoHighest.trans (knoHighest.trans gnoHighest),
      fun e he hl => htwins.trans (Record.paired_twins_own hp he hl), fun e he hl => htwins.trans (Record.paired_twins_other hp he hl),
      fun hn hlen => htwins.trans (Record.paired_twins_fresh hp hn hlen)⟩
  · intro before
    obtain ⟨ktwins, kmissed, kstands, kmissA, kmissB⟩ := Record.paired_evicts (hevicts.mpr hev) hlist
    have hbefore : (r.firstHeard x).leg oldest.awaits = before := by
      by_cases hl : oldest.awaits = x.leg
      · rw [hl, gleg]
        exact (if_pos hl).symm
      · rw [LegId.eq_other hl, gother, ← LegId.eq_other hl]
        exact (if_neg hl).symm
    have hleg : (t.record h).leg oldest.awaits = before.miss r.config.missThreshold := by rw [hlegs, kmissed, hbefore]
    have hA : (t.record h).counters.twinMissA = (r.paired x).counters.twinMissA := (congrArg RecCounters.twinMissA hpaired :)
    have hB : (t.record h).counters.twinMissB = (r.paired x).counters.twinMissB := (congrArg RecCounters.twinMissB hpaired :)
    refine ⟨htwins.trans ktwins, congrArg Leg.misses hleg, congrArg Leg.status hleg, fun hl => ?_, fun hl => ?_, ?_, ?_⟩
    · have hown : x.leg = oldest.awaits.other := LegId.eq_other (Ne.symm hl)
      rw [hlegs]
      refine Eq.trans ?_ gleg
      rw [hown]
      exact kstands
    · rw [hlegs, ← gother, ← hl]
      exact kstands
    · rw [hA, kmissA, gcounters]
    · rw [hB, kmissB, gcounters]
  · rw [hjoins]
    rcases hany with hp | hmoved | hlegA | hlegB
    · rw [hp]
      exact Bool.or_true _
    · rw [bne_iff_ne.mpr hmoved]
      rfl
    · rw [(Bool.not_eq_false _).mp (fun hc => hlegA (hchanged hc).1), Bool.or_true]
      rfl
    · rw [(Bool.not_eq_false _).mp (fun hc => hlegB (hchanged hc).2), Bool.or_true]
      rfl
  · have hquiet := Record.stages123_healthy ha (mt hevicts.mp hno) hok
    have hnot : joinsAttention r (t.record h) (r.stages123 x) = false := by
      rw [hjoins, hsame, bne_self_eq_false, hquiet, beq_eq_false_iff_ne.mpr hp]
      rfl
    exact ⟨by rw [hmark, hnot, Bool.or_false], by rw [hflag, hnot, Bool.or_false]⟩
  · obtain ⟨hwanted, hinjected, htallies⟩ := hheld hh
    rw [hwanted, hinjected] at hrecord
    obtain ⟨hmarked, hrefused, hnone⟩ := Record.arrived_held ha got
    rw [← hrecord] at hmarked hrefused hnone
    exact ⟨hmarked, htallies, hrefused, hnone⟩

end Sys2Proof.Machine
end

section
namespace Sys2Proof.Machine

/-! ## A standing record (R174) -/

theorem State.standingConfig_some {s : State} {h : Nat} {image : List Byte} {c : StreamConfig} (hh : h ≤ 511)
    (hfree : (s.record h).state = .free) (hc : presented s.settings image = some c) (hkey : s.keyHeld c.origin c.stream = false) :
    s.standingConfig h image = some c := by
  rw [State.standingConfig, if_neg (Nat.not_lt.mpr hh), if_neg (not_not.mpr hfree), hc]
  exact Option.filter_some_pos (by rw [hkey]; rfl)

theorem State.standingConfig_none {s : State} {h : Nat} {image : List Byte}
    (hno : 511 < h ∨ (s.record h).state ≠ .free ∨ presented s.settings image = none
      ∨ ∃ c, presented s.settings image = some c ∧ s.keyHeld c.origin c.stream = true) : s.standingConfig h image = none := by
  rw [State.standingConfig]
  by_cases hh : 511 < h
  · exact if_pos hh
  by_cases hfree : (s.record h).state = .free
  · rw [if_neg hh, if_neg (not_not.mpr hfree)]
    rcases hno with h1 | h2 | hnone | ⟨c, hc, hkey⟩
    · exact absurd h1 hh
    · exact absurd hfree h2
    · rw [hnone]
      rfl
    · rw [hc]
      exact Option.filter_some_neg (by rw [hkey]; rfl)
  · rw [if_neg hh, if_pos hfree]

theorem State.installStanding_some {s : State} {h : Nat} {image : List Byte} {c : StreamConfig} (hc : s.standingConfig h image = some c) :
    s.installStanding h image = s.putRecord h (.installed c) := by
  rw [State.installStanding, hc]

theorem State.installStanding_none {s : State} {h : Nat} {image : List Byte} (hc : s.standingConfig h image = none) :
    s.installStanding h image = { s with loader := { s.loader with skipped := s.loader.skipped + 1 } } := by
  rw [State.installStanding, hc]
  rfl

/-! ## The codes of a staging image (12.3, R178) -/

theorem kindOfCode_iff (code : BitVec 2) :
    (kindOfCode code = some .subscribed ↔ code.toNat = 0) ∧ (kindOfCode code = some .originatedSingle ↔ code.toNat = 1)
      ∧ (kindOfCode code = some .originatedPair ↔ code.toNat = 2) ∧ (kindOfCode code ≠ none ↔ code.toNat ≤ 2) := by
  revert code
  decide

theorem legModeOfCode_iff (code : BitVec 3) :
    (legModeOfCode code = some .ring ↔ code.toNat = 0)
      ∧ (∀ p : BayPort, legModeOfCode code = some (.single p) ↔ code.toNat = p.index + 1)
      ∧ (∀ k : Pair, legModeOfCode code = some (.pair k) ↔ code.toNat = 5 + k.index)
      ∧ (legModeOfCode code ≠ none ↔ code.toNat ≤ 6) := by
  refine ⟨?_, fun p => ?_, fun k => ?_, ?_⟩
  · revert code; decide
  · cases p <;> revert code <;> decide
  · cases k <;> revert code <;> decide
  · revert code; decide

theorem classOfCode_iff (code : BitVec 2) : classOfCode code ≠ none ↔ code.toNat ≤ 2 := by
  revert code
  decide

/-! ## The configuration of an image (R95, R179) -/

/-- The configuration an image spells, once its kind, leg mode and class are read (R95, R179). -/
def stagedConfig (image : List Byte) (kind : Kind) (legMode : LegMode) (cls : DataClass) : StreamConfig :=
  let b0 := byteAt image 0
  let b4 := byteAt image 4
  let oneLeg := kind == .originatedSingle
  { kind := kind, legMode := legMode, cls := cls, origin := (byteAt image 1).extractLsb' 0 6,
    stream := (wordAt image 2).extractLsb' 0 14, delivery := b4.extractLsb' 4 4,
    missThreshold := if oneLeg then 0 else b4.extractLsb' 0 4,
    renewalLimit := wordAt image 5,
    twinWindow := if oneLeg then 0 else byteAt image 7,
    matchPresent := b0.getLsbD 2,
    ignoreLocal := oneLeg && b0.getLsbD 1,
    dest := if oneLeg then addressAt image 8 else 0,
    frameType := if oneLeg then wordAt image 14 else 0,
    appTag := if oneLeg then wordAt image 16 else 0,
    announcedPresent := b0.getLsbD 0,
    announced := if oneLeg && b0.getLsbD 0 then byteAt image 7 else 0 }

/-- The three codes of an image name its kind, its leg mode and its class (12.3). -/
def codesName (image : List Byte) (kind : Kind) (legMode : LegMode) (cls : DataClass) : Prop :=
  kindOfCode ((byteAt image 0).extractLsb' 6 2) = some kind ∧ legModeOfCode ((byteAt image 0).extractLsb' 3 3) = some legMode
    ∧ classOfCode ((byteAt image 1).extractLsb' 6 2) = some cls

theorem readConfig_eq_some_iff (image : List Byte) (c : StreamConfig) :
    readConfig image = some c ↔
      ∃ kind legMode cls, codesName image kind legMode cls ∧ (wordAt image 2).toNat ≤ 16381 ∧ stagedConfig image kind legMode cls = c := by
  rw [readConfig]
  dsimp only
  constructor
  · intro h
    split at h
    · rename_i kind legMode cls hk hm hc
      split at h
      · exact absurd h (Option.some_ne_none c).symm
      · rename_i hs
        exact ⟨kind, legMode, cls, ⟨hk, hm, hc⟩, Nat.not_lt.mp hs, Option.some.inj h⟩
    · exact absurd h (Option.some_ne_none c).symm
  · rintro ⟨kind, legMode, cls, ⟨hk, hm, hc⟩, hs, rfl⟩
    rw [hk, hm, hc]
    exact if_neg (Nat.not_lt.mpr hs)

theorem presented_eq_some_iff (v : Settings) (image : List Byte) (c : StreamConfig) :
    presented v image = some c ↔ readConfig image = some c ∧ c.wellFormed v = true := by
  rw [presented]
  cases hr : readConfig image with
  | none => exact ⟨fun h => (nomatch h), fun ⟨h, _⟩ => (nomatch h)⟩
  | some d =>
    dsimp only
    constructor
    · intro h
      split at h
      · rename_i hd
        cases h
        exact ⟨rfl, hd⟩
      · exact nomatch h
    · rintro ⟨h, hc⟩
      cases h
      exact if_pos hc

/-- The configuration presented, by the codes that name it and the conditions it meets (R22, R23). -/
theorem presented_staged {v : Settings} {image : List Byte} {c : StreamConfig} :
    presented v image = some c ↔
      ∃ kind legMode cls, codesName image kind legMode cls ∧ (wordAt image 2).toNat ≤ 16381
        ∧ (stagedConfig image kind legMode cls).wellFormed v = true ∧ stagedConfig image kind legMode cls = c := by
  rw [presented_eq_some_iff, readConfig_eq_some_iff]
  constructor
  · rintro ⟨⟨kind, legMode, cls, hcodes, hs, rfl⟩, hw⟩
    exact ⟨kind, legMode, cls, hcodes, hs, hw, rfl⟩
  · rintro ⟨kind, legMode, cls, hcodes, hs, hw, rfl⟩
    exact ⟨⟨kind, legMode, cls, hcodes, hs, rfl⟩, hw⟩

/-! ## The conditions of R22 and R23, one by one -/

/-- The node number is in the own-origin set, written out (R6). -/
def Settings.owns (v : Settings) (origin : Nat) : Prop :=
  v.node ≠ 0 ∧ (origin = v.node.toNat
    ∨ (v.pairEnable.getLsbD 0 = true ∧ v.attachedNode0 ≠ 0 ∧ origin = v.attachedNode0.toNat)
    ∨ (v.pairEnable.getLsbD 1 = true ∧ v.attachedNode1 ≠ 0 ∧ origin = v.attachedNode1.toNat))

theorem Settings.ownOrigin_iff (v : Settings) (origin : Nat) : v.ownOrigin origin = true ↔ v.owns origin := by
  simp only [Settings.ownOrigin, Settings.owns, Settings.pairEnabled, Pair.index, Bool.and_eq_true, Bool.or_eq_true, bne_iff_ne, ne_eq,
    beq_iff_eq, and_assoc, or_assoc]

theorem StreamConfig.kindOk_subscribed {c : StreamConfig} (hk : c.kind = .subscribed) (v : Settings) :
    c.kindOk v = true ↔ c.legMode = .ring ∧ ¬ v.owns c.origin.toNat := by
  rw [StreamConfig.kindOk, hk, ← Settings.ownOrigin_iff]
  cases c.legMode <;> simp

theorem StreamConfig.kindOk_single {c : StreamConfig} (hk : c.kind = .originatedSingle) (v : Settings) :
    c.kindOk v = true ↔
      ∃ p, c.legMode = .single p ∧ v.node ≠ 0 ∧ c.origin.toNat = v.node.toNat ∧ v.pairEnable.getLsbD p.pair.index = false := by
  rw [StreamConfig.kindOk, hk]
  cases c.legMode <;> simp [Settings.paired, Settings.pairEnabled, and_assoc]

theorem StreamConfig.kindOk_pair {c : StreamConfig} (hk : c.kind = .originatedPair) (v : Settings) :
    c.kindOk v = true ↔
      ∃ k, c.legMode = .pair k ∧ v.pairEnable.getLsbD k.index = true ∧ v.attached k ≠ 0 ∧ c.origin.toNat = (v.attached k).toNat := by
  rw [StreamConfig.kindOk, hk]
  cases c.legMode <;> simp [Settings.pairEnabled, and_assoc]

theorem StreamConfig.deliveryOk_iff (v : Settings) (c : StreamConfig) (k : Pair) :
    c.deliveryOk v k = true ↔
      (v.pairEnable.getLsbD k.index = true → c.delivery.getLsbD k.first.index = c.delivery.getLsbD k.second.index) := by
  rw [StreamConfig.deliveryOk, Settings.pairEnabled]
  cases v.pairEnable.getLsbD k.index <;> simp

/-- The conditions of R22 and R23 on a configuration. -/
theorem StreamConfig.wellFormed_iff (v : Settings) (c : StreamConfig) :
    c.wellFormed v = true ↔
      (1 ≤ c.origin.toNat ∧ c.origin.toNat ≤ 60) ∧ (1 ≤ c.renewalLimit.toNat ∧ c.renewalLimit.toNat ≤ 10000)
        ∧ (c.kind ≠ .originatedSingle →
            1 ≤ c.twinWindow.toNat ∧ 1 ≤ c.missThreshold.toNat ∧ c.matchPresent = false ∧ c.announcedPresent = false)
        ∧ c.kindOk v = true ∧ c.deliveryOk v .pair0 = true ∧ c.deliveryOk v .pair1 = true := by
  simp only [StreamConfig.wellFormed, StreamConfig.inRange, Bool.and_eq_true, Bool.or_eq_true, decide_eq_true_eq, beq_iff_eq,
    Bool.not_eq_true']
  tauto

/-- What the leg mode and the origin of each kind must be, by the codes' numbers (R20, R23). -/
def legRule (v : Settings) (kind mode origin : Nat) : Prop :=
  (kind = 0 → mode = 0 ∧ ¬ v.owns origin)
    ∧ (kind = 1 → 1 ≤ mode ∧ mode ≤ 4 ∧ v.node ≠ 0 ∧ origin = v.node.toNat ∧ v.pairEnable.getLsbD ((mode - 1) / 2) = false)
    ∧ (kind = 2 → (mode = 5 ∧ v.pairEnable.getLsbD 0 = true ∧ v.attachedNode0 ≠ 0 ∧ origin = v.attachedNode0.toNat)
        ∨ (mode = 6 ∧ v.pairEnable.getLsbD 1 = true ∧ v.attachedNode1 ≠ 0 ∧ origin = v.attachedNode1.toNat))

/-- A rule for a kind names a leg mode in its range. -/
theorem legRule_mode {v : Settings} {kind mode origin : Nat} (hk : kind ≤ 2) (h : legRule v kind mode origin) : mode ≤ 6 := by
  obtain ⟨h0, h1, h2⟩ := h
  by_cases k0 : kind = 0
  · obtain ⟨hmode, -⟩ := h0 k0
    omega
  by_cases k1 : kind = 1
  · obtain ⟨-, hmode, -⟩ := h1 k1
    omega
  · rcases h2 (by omega) with ⟨hmode, -⟩ | ⟨hmode, -⟩ <;> omega

theorem bayPort_pair_index (p : BayPort) : (p.index + 1 - 1) / 2 = p.pair.index := by cases p <;> rfl

theorem bayPort_exists_index {n : Nat} (h1 : 1 ≤ n) (h4 : n ≤ 4) : ∃ p : BayPort, n = p.index + 1 := by
  match n, h1, h4 with
  | 1, _, _ => exact ⟨.p0, rfl⟩
  | 2, _, _ => exact ⟨.p1, rfl⟩
  | 3, _, _ => exact ⟨.p2, rfl⟩
  | 4, _, _ => exact ⟨.p3, rfl⟩

theorem legRule_single_iff (v : Settings) (mode origin : Nat) :
    (∃ p : BayPort, mode = p.index + 1 ∧ v.node ≠ 0 ∧ origin = v.node.toNat ∧ v.pairEnable.getLsbD p.pair.index = false) ↔
      1 ≤ mode ∧ mode ≤ 4 ∧ v.node ≠ 0 ∧ origin = v.node.toNat ∧ v.pairEnable.getLsbD ((mode - 1) / 2) = false := by
  constructor
  · rintro ⟨p, rfl, hnode, horigin, hpair⟩
    rw [bayPort_pair_index p]
    exact ⟨Nat.le_add_left _ _, by cases p <;> decide, hnode, horigin, hpair⟩
  · rintro ⟨h1, h4, hnode, horigin, hpair⟩
    obtain ⟨p, rfl⟩ := bayPort_exists_index h1 h4
    rw [bayPort_pair_index p] at hpair
    exact ⟨p, rfl, hnode, horigin, hpair⟩

theorem legRule_pair_iff (v : Settings) (mode origin : Nat) :
    (∃ k : Pair, mode = 5 + k.index ∧ v.pairEnable.getLsbD k.index = true ∧ v.attached k ≠ 0 ∧ origin = (v.attached k).toNat) ↔
      (mode = 5 ∧ v.pairEnable.getLsbD 0 = true ∧ v.attachedNode0 ≠ 0 ∧ origin = v.attachedNode0.toNat)
        ∨ (mode = 6 ∧ v.pairEnable.getLsbD 1 = true ∧ v.attachedNode1 ≠ 0 ∧ origin = v.attachedNode1.toNat) := by
  constructor
  · rintro ⟨_ | _, h⟩
    · exact .inl h
    · exact .inr h
  · rintro (h | h)
    · exact ⟨.pair0, h⟩
    · exact ⟨.pair1, h⟩

/-- The kind's own conditions on a staged configuration, by the numbers of its codes (R20, R23). -/
theorem staged_kindOk_iff {v : Settings} {image : List Byte} {kind : Kind} {legMode : LegMode} {cls : DataClass}
    (hcodes : codesName image kind legMode cls) :
    (stagedConfig image kind legMode cls).kindOk v = true ↔
      legRule v ((byteAt image 0).extractLsb' 6 2).toNat ((byteAt image 0).extractLsb' 3 3).toNat
        ((byteAt image 1).extractLsb' 0 6).toNat := by
  obtain ⟨hk, hm, -⟩ := hcodes
  obtain ⟨hsubscribed, hsingle, hpair, -⟩ := kindOfCode_iff ((byteAt image 0).extractLsb' 6 2)
  obtain ⟨hring, hport, hleg, -⟩ := legModeOfCode_iff ((byteAt image 0).extractLsb' 3 3)
  rw [hm] at hring hport hleg
  rw [hk] at hsubscribed hsingle hpair
  cases kind with
  | subscribed =>
    have hnumber := hsubscribed.mp rfl
    rw [StreamConfig.kindOk_subscribed rfl, hnumber, legRule, ← hring]
    exact ⟨fun ⟨hmode, howns⟩ => ⟨fun _ => ⟨congrArg some hmode, howns⟩, nofun, nofun⟩,
      fun ⟨h, _⟩ => ⟨Option.some.inj (h rfl).1, (h rfl).2⟩⟩
  | originatedSingle =>
    have hnumber := hsingle.mp rfl
    rw [StreamConfig.kindOk_single rfl, hnumber, legRule, ← legRule_single_iff]
    simp only [← hport, Option.some.injEq, true_imp_iff, Nat.one_ne_zero, false_imp_iff, true_and, and_true, (by decide : ¬ 1 = 2)]
    exact Iff.rfl
  | originatedPair =>
    have hnumber := hpair.mp rfl
    rw [StreamConfig.kindOk_pair rfl, hnumber, legRule, ← legRule_pair_iff]
    simp only [← hleg, Option.some.injEq, true_imp_iff, false_imp_iff, true_and, (by decide : ¬ 2 = 0), (by decide : ¬ 2 = 1)]
    exact Iff.rfl

/-- What R22 asks of the fields of a two-leg record's image, and R23 of its marks. -/
theorem staged_twoLeg_iff (image : List Byte) (kind : Kind) (legMode : LegMode) (cls : DataClass) :
    (kind ≠ .originatedSingle →
        1 ≤ (stagedConfig image kind legMode cls).twinWindow.toNat ∧ 1 ≤ (stagedConfig image kind legMode cls).missThreshold.toNat
          ∧ (stagedConfig image kind legMode cls).matchPresent = false ∧ (stagedConfig image kind legMode cls).announcedPresent = false) ↔
      (kind ≠ .originatedSingle →
        1 ≤ (byteAt image 7).toNat ∧ 1 ≤ ((byteAt image 4).extractLsb' 0 4).toNat ∧ (byteAt image 0).getLsbD 2 = false
          ∧ (byteAt image 0).getLsbD 0 = false) := by
  cases kind with
  | originatedSingle => exact ⟨fun _ h => absurd rfl h, fun _ h => absurd rfl h⟩
  | subscribed | originatedPair => exact Iff.rfl

/-- The delivery set is the upper half of its byte (12.3). -/
theorem staged_delivery (image : List Byte) (kind : Kind) (legMode : LegMode) (cls : DataClass) {i : Nat} (hi : i < 4) :
    (stagedConfig image kind legMode cls).delivery.getLsbD i = (byteAt image 4).getLsbD (4 + i) := by
  show ((byteAt image 4).extractLsb' 4 4).getLsbD i = _
  rw [BitVec.getLsbD_extractLsb', decide_eq_true hi, Bool.true_and]

/-- The conditions of R22 and R23 on a staged configuration, field by field of its image. -/
theorem staged_wellFormed_iff {v : Settings} {image : List Byte} {kind : Kind} {legMode : LegMode} {cls : DataClass}
    (hcodes : codesName image kind legMode cls) :
    (stagedConfig image kind legMode cls).wellFormed v = true ↔
      (1 ≤ ((byteAt image 1).extractLsb' 0 6).toNat ∧ ((byteAt image 1).extractLsb' 0 6).toNat ≤ 60)
        ∧ (1 ≤ (wordAt image 5).toNat ∧ (wordAt image 5).toNat ≤ 10000)
        ∧ (kind ≠ .originatedSingle →
            1 ≤ (byteAt image 7).toNat ∧ 1 ≤ ((byteAt image 4).extractLsb' 0 4).toNat ∧ (byteAt image 0).getLsbD 2 = false
              ∧ (byteAt image 0).getLsbD 0 = false)
        ∧ legRule v ((byteAt image 0).extractLsb' 6 2).toNat ((byteAt image 0).extractLsb' 3 3).toNat
            ((byteAt image 1).extractLsb' 0 6).toNat
        ∧ (v.pairEnable.getLsbD 0 = true → (byteAt image 4).getLsbD 4 = (byteAt image 4).getLsbD 5)
        ∧ (v.pairEnable.getLsbD 1 = true → (byteAt image 4).getLsbD 6 = (byteAt image 4).getLsbD 7) := by
  have hdelivery (k : Pair) : (stagedConfig image kind legMode cls).deliveryOk v k = true ↔
      (v.pairEnable.getLsbD k.index = true → (byteAt image 4).getLsbD (4 + k.first.index) = (byteAt image 4).getLsbD (4 + k.second.index)) := by
    rw [StreamConfig.deliveryOk_iff, staged_delivery _ _ _ _ (by cases k <;> decide), staged_delivery _ _ _ _ (by cases k <;> decide)]
  rw [StreamConfig.wellFormed_iff, staged_kindOk_iff hcodes, hdelivery, hdelivery, ← staged_twoLeg_iff image kind legMode cls]
  exact Iff.rfl

/-- The number of a kind's code tells the one-leg kind (R20). -/
theorem codesName_single {image : List Byte} {kind : Kind} {legMode : LegMode} {cls : DataClass} (hcodes : codesName image kind legMode cls) :
    kind ≠ .originatedSingle ↔ ((byteAt image 0).extractLsb' 6 2).toNat ≠ 1 := by
  obtain ⟨hk, -⟩ := hcodes
  obtain ⟨-, hsingle, -⟩ := kindOfCode_iff ((byteAt image 0).extractLsb' 6 2)
  rw [hk, Option.some.injEq] at hsingle
  exact not_congr hsingle

/-- A staging image presents a configuration exactly when its fields meet R22 and R23. -/
theorem presented_isSome_iff (v : Settings) (image : List Byte) :
    (presented v image).isSome = true ↔
      ((byteAt image 0).extractLsb' 6 2).toNat ≤ 2 ∧ ((byteAt image 1).extractLsb' 6 2).toNat ≤ 2
        ∧ (1 ≤ ((byteAt image 1).extractLsb' 0 6).toNat ∧ ((byteAt image 1).extractLsb' 0 6).toNat ≤ 60)
        ∧ (wordAt image 2).toNat ≤ 16381 ∧ (1 ≤ (wordAt image 5).toNat ∧ (wordAt image 5).toNat ≤ 10000)
        ∧ (((byteAt image 0).extractLsb' 6 2).toNat ≠ 1 →
            1 ≤ (byteAt image 7).toNat ∧ 1 ≤ ((byteAt image 4).extractLsb' 0 4).toNat ∧ (byteAt image 0).getLsbD 2 = false
              ∧ (byteAt image 0).getLsbD 0 = false)
        ∧ legRule v ((byteAt image 0).extractLsb' 6 2).toNat ((byteAt image 0).extractLsb' 3 3).toNat
            ((byteAt image 1).extractLsb' 0 6).toNat
        ∧ (v.pairEnable.getLsbD 0 = true → (byteAt image 4).getLsbD 4 = (byteAt image 4).getLsbD 5)
        ∧ (v.pairEnable.getLsbD 1 = true → (byteAt image 4).getLsbD 6 = (byteAt image 4).getLsbD 7) := by
  obtain ⟨-, -, -, hkinds⟩ := kindOfCode_iff ((byteAt image 0).extractLsb' 6 2)
  obtain ⟨-, -, -, hmodes⟩ := legModeOfCode_iff ((byteAt image 0).extractLsb' 3 3)
  have hclasses := classOfCode_iff ((byteAt image 1).extractLsb' 6 2)
  rw [Option.isSome_iff_exists]
  constructor
  · rintro ⟨c, hc⟩
    obtain ⟨kind, legMode, cls, hcodes, hstream, hwell, -⟩ := presented_staged.mp hc
    obtain ⟨horigin, hrenewal, htwoLeg, hrest⟩ := (staged_wellFormed_iff hcodes).mp hwell
    rw [codesName_single hcodes] at htwoLeg
    obtain ⟨hk, -, hcls⟩ := hcodes
    exact ⟨hkinds.mp (by rw [hk]; exact Option.some_ne_none _), hclasses.mp (by rw [hcls]; exact Option.some_ne_none _), horigin, hstream,
      hrenewal, htwoLeg, hrest⟩
  · rintro ⟨hkind, hclass, horigin, hstream, hrenewal, htwoLeg, hrule, hdelivery⟩
    obtain ⟨kind, hk⟩ := Option.ne_none_iff_exists'.mp (hkinds.mpr hkind)
    obtain ⟨legMode, hm⟩ := Option.ne_none_iff_exists'.mp (hmodes.mpr (legRule_mode hkind hrule))
    obtain ⟨cls, hcls⟩ := Option.ne_none_iff_exists'.mp (hclasses.mpr hclass)
    have hcodes : codesName image kind legMode cls := ⟨hk, hm, hcls⟩
    rw [← codesName_single hcodes] at htwoLeg
    exact ⟨_, presented_staged.mpr
      ⟨kind, legMode, cls, hcodes, hstream, (staged_wellFormed_iff hcodes).mpr ⟨horigin, hrenewal, htwoLeg, hrule, hdelivery⟩, rfl⟩⟩

/-! ## The fields of the configuration presented (12.3, R95) -/

theorem kindOfCode_eq {code : BitVec 2} {kind : Kind} (h : kindOfCode code = some kind) :
    kind = if code.toNat = 0 then .subscribed else if code.toNat = 1 then .originatedSingle else .originatedPair := by
  cases kind <;> revert code <;> decide

theorem legModeOfCode_eq {code : BitVec 3} {legMode : LegMode} (h : legModeOfCode code = some legMode) :
    legMode = if code.toNat = 0 then .ring else if code.toNat = 1 then .single .p0 else if code.toNat = 2 then .single .p1
      else if code.toNat = 3 then .single .p2 else if code.toNat = 4 then .single .p3 else if code.toNat = 5 then .pair .pair0
      else .pair .pair1 := by
  have hall : ∀ code : BitVec 3, legModeOfCode code = none ∨ legModeOfCode code =
      some (if code.toNat = 0 then .ring else if code.toNat = 1 then .single .p0 else if code.toNat = 2 then .single .p1
        else if code.toNat = 3 then .single .p2 else if code.toNat = 4 then .single .p3 else if code.toNat = 5 then .pair .pair0
        else .pair .pair1) := by decide
  rcases hall code with hnone | hsome
  · exact absurd (h.symm.trans hnone) (Option.some_ne_none _)
  · exact Option.some.inj (h.symm.trans hsome)

theorem classOfCode_eq {code : BitVec 2} {cls : DataClass} (h : classOfCode code = some cls) :
    cls = if code = 0 then .trip else if code = 1 then .sample else .status := by
  cases cls <;> revert code <;> decide

/-- The fields that a two-leg record's configuration keeps of its image, and those stored as 0 (R95, R179). -/
theorem staged_twoLeg_fields {image : List Byte} {kind : Kind} {legMode : LegMode} {cls : DataClass} (hk : kind ≠ .originatedSingle)
    (hmarks : (byteAt image 0).getLsbD 2 = false ∧ (byteAt image 0).getLsbD 0 = false) :
    let c := stagedConfig image kind legMode cls
    c.missThreshold = (byteAt image 4).extractLsb' 0 4 ∧ c.twinWindow = byteAt image 7 ∧ c.matchPresent = false
      ∧ c.ignoreLocal = false ∧ c.dest = 0 ∧ c.frameType = 0 ∧ c.appTag = 0 ∧ c.announcedPresent = false ∧ c.announced = 0 := by
  obtain ⟨hmatch, hannounced⟩ := hmarks
  cases kind with
  | originatedSingle => exact absurd rfl hk
  | subscribed | originatedPair => exact ⟨rfl, rfl, hmatch, rfl, rfl, rfl, rfl, hannounced, rfl⟩

/-- Settles O9: a standing record by its four checks, and an image by the codes that name its configuration and the rules it meets. -/
theorem standingRecordAndTheConfigurationOfItsImage : Obligations.StandingRecordAndTheConfigurationOfItsImage := by
  refine ⟨fun s h image => ⟨fun c hh hfree hc hkey => ?_, fun hno => State.installStanding_none (State.standingConfig_none hno)⟩,
    fun v image => ?_⟩
  · rw [State.installStanding_some (State.standingConfig_some hh hfree hc hkey)]
    exact ⟨s.record_putRecord_same h _, fun k hk => s.record_putRecord_other _ hk, rfl⟩
  · intro b0 b1 b4 kind mode origin own
    refine ⟨?_, fun c hc => ?_⟩
    · rw [presented_isSome_iff, legRule]
      simp only [and_assoc]
      exact Iff.rfl
    · obtain ⟨k, legMode, cls, hcodes, -, hwell, rfl⟩ := presented_staged.mp hc
      obtain ⟨-, -, htwoLeg, -⟩ := (staged_wellFormed_iff hcodes).mp hwell
      have hsingle := codesName_single hcodes
      obtain ⟨hk, hm, hcls⟩ := hcodes
      refine ⟨kindOfCode_eq hk, legModeOfCode_eq hm, classOfCode_eq hcls, rfl, rfl, rfl, rfl, fun hn => ?_, fun hn => ?_⟩
      · obtain ⟨-, -, hmarks⟩ := htwoLeg (hsingle.mpr hn)
        exact staged_twoLeg_fields (hsingle.mpr hn) hmarks
      · have hone : k = .originatedSingle := not_not.mp (fun hne => hsingle.mp hne hn)
        subst hone
        exact ⟨rfl, rfl, rfl, rfl, rfl, rfl, rfl, rfl, rfl⟩

end Sys2Proof.Machine
end
